-- ==== Sys2Proof/Word.lean ====
section
/-!
DEFINITION. The machine's words (00_scope.md R3; 04_formats.md R53) and the index types of its register files.
-/
namespace Sys2Proof

/-- A scalar register or an address. -/
abbrev Word := BitVec 64
/-- One instruction word. -/
abbrev IWord := BitVec 32
/-- One byte. -/
abbrev Byte := BitVec 8
/-- One vector register, byte lane i in bits [8i+7:8i] (R53, R55). -/
abbrev VWord := BitVec 512

/-- Scalar register number s0 to s31. -/
abbrev SReg := Fin 32
/-- Predicate number p0 to p7. -/
abbrev PReg := Fin 8
/-- Vector register number v0 to v31. -/
abbrev VReg := Fin 32
/-- Lane mask number m0 to m7. -/
abbrev MReg := Fin 8

end Sys2Proof
end

