-- ==== Sys2Proof/Config.lean ====
section
/-!
DEFINITION. What an implementation fixes and the spec does not state: the free values. None has a body, so a claim holds
whatever they are (log entries 2, 13, 14, 15).
-/
namespace Sys2Proof.Config

/-- A byte the spec leaves undefined, a fresh one for each number of the counter State.fresh (02_execution.md R28). -/
opaque freeByte : Nat → Byte

/-- A word the spec leaves unstated, a fresh one for each number of the counter State.fresh. -/
opaque freeWord : Nat → Word

/-- What stands in a doubleword of a sync word that cannot be read when a count arrives (22_scheduling_faults.md R355): by core, number
of accesses posted, scratchpad offset. -/
opaque lostWord : Nat → Nat → Nat → Word

/-- SHAKE256 of a byte string, 64 bytes as one number (26_system.md R382, R383, R386): the algorithm is named, not given. -/
opaque shake256 : List Byte → BitVec 512

/-- SLH-DSA verification under FIPS 205 of key, signed bytes and signature (26_system.md R382). -/
opaque slhVerify : List Byte → List Byte → List Byte → Bool

/-- The signature of a report under the device identity key (26_system.md R386). -/
opaque slhSign : List Byte → List Byte

/-- The device identity public key, 64 bytes as one number (26_system.md R386). -/
opaque deviceKey : BitVec 512

/-- The fused digest of the boot key (26_system.md R382). -/
opaque fusedDigest : BitVec 512

/-- The fuse-held minimum of the security version (26_system.md R382). -/
opaque fuseVersion : Nat

/-- The disturbance threshold of a row (20_nearmem.md R309). -/
opaque disturbThreshold : Nat

/-- The hops and queue cycles of one round trip, added to a profiling accumulator (24_debug.md R376); they are times. -/
opaque roundTrip : Nat → Nat

/-- The fixed fabric port of a pair: issuing core, destination package and actor (26_system.md R388). -/
opaque pairPort : Nat → Nat → Nat → Nat

/-- The packages that a fabric port leads to, by their numbers in the domain (26_system.md R387, R388). -/
opaque portPackages : Nat → List Nat

end Sys2Proof.Config
end

