-- ==== Sys2Proof/Syntax.lean ====
section
/-!
DEFINITION. The instructions: one constructor for each row of spec/opcode_table.json. The first part are the core's
instructions (04_formats.md R61 to R74), then the NMU's (20_nearmem.md R317, R318), then the EVENT rows, each one whole
and indivisible step of the part (95_what_each_step_holds.md); an event has no encoding and carries what it brings in.
-/
namespace Sys2Proof

/-- The guard of R64: predicate p, negated or not. -/
structure Guard where
  neg : Bool
  p : PReg
deriving DecidableEq, Repr

/-- What every guardable core instruction carries: its guard, and the literal that its form fetches and ignores (R63);
with a literal the instruction is 8 bytes longer (R61). -/
structure Hdr where
  g : Guard
  lit : Option Word
deriving DecidableEq, Repr

/-! ### The 32-bit layouts of R66 -/

/-- A3 without a rounding mode. -/
structure A3 where
  h : Hdr
  d : SReg
  a : SReg
  b : SReg
deriving DecidableEq, Repr

/-- A3 with b reserved (major 0x07). -/
structure A2 where
  h : Hdr
  d : SReg
  a : SReg
deriving DecidableEq, Repr

/-- A3 of the rounding float majors: rm is a rounding-mode code. -/
structure FA3 where
  h : Hdr
  rm : Fin 8
  d : SReg
  a : SReg
  b : SReg
deriving DecidableEq, Repr

/-- AI with imm10. -/
structure AiF where
  g : Guard
  d : SReg
  a : SReg
  imm : BitVec 10
deriving DecidableEq, Repr

/-- AI with the 64-bit literal. -/
structure AiL where
  g : Guard
  d : SReg
  a : SReg
  imm : Word
deriving DecidableEq, Repr

/-- A shift by an immediate count, in imm10 [5:0] or in literal [5:0]. -/
structure ShF where
  g : Guard
  d : SReg
  a : SReg
  cnt : Fin 64
deriving DecidableEq, Repr

/-- LI with imm15. -/
structure LiF where
  g : Guard
  d : SReg
  imm : BitVec 15
deriving DecidableEq, Repr

/-- LI with the 64-bit literal. -/
structure LiL where
  g : Guard
  d : SReg
  imm : Word
deriving DecidableEq, Repr

/-- CMP. -/
structure CmpF where
  h : Hdr
  cond : Fin 16
  pd : PReg
  pe : PReg
  a : SReg
  b : SReg
deriving DecidableEq, Repr

/-- CI with imm5. -/
structure CiF where
  g : Guard
  cond : Fin 16
  pd : PReg
  pe : PReg
  a : SReg
  imm : BitVec 5
deriving DecidableEq, Repr

/-- CI with the 64-bit literal. -/
structure CiL where
  g : Guard
  cond : Fin 16
  pd : PReg
  pe : PReg
  a : SReg
  imm : Word
deriving DecidableEq, Repr

/-- PL. -/
structure PlF where
  h : Hdr
  tt : Fin 16
  pd : PReg
  pe : PReg
  pa : PReg
  pb : PReg
deriving DecidableEq, Repr

/-- SL. -/
structure SlF where
  h : Hdr
  ps : PReg
  d : SReg
  a : SReg
  b : SReg
deriving DecidableEq, Repr

/-- PM; dir is the constructor's. -/
structure PmF where
  h : Hdr
  d : SReg
deriving DecidableEq, Repr

/-- CV. -/
structure CvF where
  h : Hdr
  rm : Fin 8
  sat : Bool
  dst : Fin 8
  src : Fin 8
  d : SReg
  a : SReg
deriving DecidableEq, Repr

/-- MEM with off8; d is the data register of a store. -/
structure MemF where
  g : Guard
  wait : Fin 4
  off : BitVec 8
  a : SReg
  d : SReg
deriving DecidableEq, Repr

/-- MEM with the literal byte offset. -/
structure MemL where
  g : Guard
  wait : Fin 4
  off : Word
  a : SReg
  d : SReg
deriving DecidableEq, Repr

/-- BR with off20. -/
structure BrF where
  g : Guard
  off : BitVec 20
deriving DecidableEq, Repr

/-- BR with the absolute literal target. -/
structure BrL where
  g : Guard
  target : Word
deriving DecidableEq, Repr

/-- JR. -/
structure JrF where
  h : Hdr
  d : SReg
  a : SReg
deriving DecidableEq, Repr

/-- LP; LOOP takes no guard. -/
structure LpF where
  lit : Option Word
  lc : Fin 4
  a : SReg
  off : BitVec 10
deriving DecidableEq, Repr

/-- CR; d is the source of PUTC. -/
structure CrF where
  h : Hdr
  idx : Fin 4096
  d : SReg
deriving DecidableEq, Repr

/-- FK of FORK. -/
structure FkF where
  h : Hdr
  a : SReg
  off : BitVec 15
deriving DecidableEq, Repr

/-- FK of JOIN, which takes no guard. -/
structure JnF where
  lit : Option Word
  a : SReg
  off : BitVec 15
deriving DecidableEq, Repr

/-- SYS with imm12 reserved. -/
structure SysF where
  h : Hdr
deriving DecidableEq, Repr

/-- SYS with imm12. -/
structure SysI where
  h : Hdr
  imm : BitVec 12
deriving DecidableEq, Repr

/-- SYS without a guard. -/
structure SysN where
  lit : Option Word
deriving DecidableEq, Repr

/-! ### The extended form of R70 -/

/-- The fields of words 0, 1 and 2; which of them an instruction uses is its class's and subop's (R71, R74). -/
structure XOp where
  h : Hdr
  mask : MReg
  rm : Fin 8
  ty : Fin 16
  x : Bool
  aw : Fin 4
  l : Fin 4
  wait : Fin 4
  sat : Bool
  hist : Fin 16
  c : Fin 32
  b : Fin 32
  a : Fin 32
  d : Fin 32
  w2 : IWord
deriving DecidableEq, Repr

/-! ### The NMU's layouts of R317 -/

/-- NA. -/
structure NaF where
  ty : Fin 8
  rm : Fin 8
  d : Fin 32
  a : Fin 32
  b : Fin 32
  sat : Bool
  x : Fin 32
deriving DecidableEq, Repr

/-- NM. -/
structure NmF where
  mode : Fin 8
  rm : Fin 8
  d : Fin 32
  ai : Fin 4
  off : BitVec 14
deriving DecidableEq, Repr

/-- NI. -/
structure NiF where
  ty : Fin 8
  d : Fin 32
  imm : BitVec 16
deriving DecidableEq, Repr

/-- NQ. -/
structure NqF where
  d : Fin 32
  a : Fin 32
  handle : BitVec 11
deriving DecidableEq, Repr

/-- NL. -/
structure NlF where
  len : BitVec 8
  count : BitVec 16
deriving DecidableEq, Repr

/-- ND. -/
structure NdF where
  ai : Fin 4
  imm : BitVec 16
deriving DecidableEq, Repr

/-! ### What the events carry -/

/-- The eight engine queues (R9), in the order of QFENCE's mask bits (R214). -/
inductive Queue where
  | v | m | s | e | g | l | q | n
deriving DecidableEq, Repr

/-- Where an idle core takes a task record from (R45): its own deque, another core's, or the overflow ring. -/
inductive TaskSrc where
  | own
  | steal (victim : Nat)
  | overflow
deriving DecidableEq, Repr

/-- An allocation of the interleaved view: the placer's pages stand at pa, and spread are the 4 KiB granules of device memory that it
chooses for the allocation's own, in order (empty: each at its own physical address) (R202, R385). -/
structure AllocReq where
  tenant : BitVec 16
  va : Nat
  pa : Nat
  pages : Nat
  write : Bool
  execute : Bool
  spread : List Nat := []
deriving DecidableEq, Repr

/-- The placer's answer to a SPAWN or for the next item of a launch (R298): an actor on core k of the state,
an actor elsewhere, or a refusal code; or the slot that a launch receives (R302). -/
inductive PlacerAns where
  | here (k aid base : Nat)
  | away (aid : Nat) (near : Bool)
  | refuse (code : Nat)
  | slot (n : Nat)
deriving DecidableEq, Repr

/-- What a debug request reads or writes (R363): a register of the debug module, by its offset; or, of a stopped core, its program
counter, a scalar, vector or mask register, the predicates, a loop counter (R144), or bytes of its scratchpad. `name` names the tenant's
cores to the stop, step and run requests that follow (R369, 26_system.md R385). -/
inductive DebugAccess where
  | write (off : Nat) (val : Word)
  | read (off : Nat)
  | pc
  | scalar (r : SReg)
  | vector (r : VReg)
  | predicates
  | mask (r : Fin 8)
  | loop (i : Fin 4)
  | scratch (off n : Nat)
  | name (cores : BitVec 32)
deriving DecidableEq, Repr

/-- A clearing of WHITn: the requesting tenant and n. -/
structure WhitClear where
  tenant : BitVec 16
  n : Fin 4
deriving DecidableEq, Repr

/-- A drain of the trace buffer (24_debug.md R374): how many records, the ring when Phopol names one, and whether it reads and clears
TRLOST. -/
structure Drain where
  n : Nat
  ring : Option Nat
  lost : Bool
deriving DecidableEq, Repr

/-- Where a pair goes when its port has failed (26_system.md R388): a working port, and the package at the pair's other end. -/
structure PairEnd where
  dest : Nat
  pk : Nat
deriving DecidableEq, Repr

/-- A host's launch request: header address, tenant, the debug attachment of R380, and the placer's answer. -/
structure LaunchReq where
  header : Word
  tenant : BitVec 16
  attach : Option Word
  answer : PlacerAns
deriving DecidableEq, Repr

/-- A kill of every activation, record and actor of a launch slot whose WID agrees with wid in bits [63:low] (R51). -/
structure KillReq where
  slot : Nat
  wid : Word
  low : Nat
deriving DecidableEq, Repr

/-- Where an access that arrives from the network comes from (R365): package core index and actor id; other is a source
in another package or one that is no core. -/
structure Source where
  core : Nat
  aid : Nat
  other : Bool
deriving DecidableEq, Repr

/-- An operation of ATOMIC on its operands (R215), with the resolved rounding mode and the draw of an AFADD (R217). -/
structure AtomicArgs where
  op : Fin 11
  ty : Fin 16
  rm : Fin 8
  u : BitVec 16
  b : Word
  c : Word
deriving DecidableEq, Repr

/-- A message on its way (R279, R294): header, payload, and whether every byte is in the header flit's hands. -/
structure MsgArgs where
  h0 : Word
  h1 : Word
  payload : List Byte
deriving DecidableEq, Repr

/-- An access that arrives at this core from the network, at an actor-space address: the bytes it stores, or the number it
loads; flit marks a push's flit, sync names the word it counts into. -/
structure NetAccess where
  src : Source
  addr : Word
  bytes : List Byte
  len : Nat
  sync : Option Word
  flit : Bool
  atomic : Option AtomicArgs
  msg : Option MsgArgs
deriving DecidableEq, Repr

/-- An arrival: the core's own posted access of that number, or another's. -/
inductive Arrival where
  | own (id : Nat)
  | net (a : NetAccess)
deriving DecidableEq, Repr

/-- Why an access was refused (R200), or a message for want of room (R283), the sender listed or not; or a posted atomic could not
read its word (R357). -/
inductive Refused where
  | wnack | adead | memErr
  | room (listed : Bool)
deriving DecidableEq, Repr

/-- What comes back for a remote load or a returning atomic (R138): the value or a refusal. -/
inductive LoadReply where
  | value (w : Word)
  | refuse (why : Refused)
  | memErr
deriving DecidableEq, Repr

/-- The instructions and the events. -/
inductive Instr where
  /-- Writes d := a + b modulo 2^64. (R126) -/
  | add (x : A3)
  /-- Writes d := a − b modulo 2^64. (R126) -/
  | sub (x : A3)
  /-- Writes the signed smaller of a and b to d. (R126) -/
  | min (x : A3)
  /-- Writes the signed larger of a and b to d. (R126) -/
  | max (x : A3)
  /-- Writes d := a AND b. (R126) -/
  | and (x : A3)
  /-- Writes d := a OR b. (R126) -/
  | or (x : A3)
  /-- Writes d := a XOR b. (R126) -/
  | xor (x : A3)
  /-- Writes d := a AND NOT b. (R126) -/
  | andn (x : A3)
  /-- Shifts a left by b[5:0], zeros in. (R126) -/
  | shl (x : A3)
  /-- Shifts a right logically by b[5:0]. (R126) -/
  | shr (x : A3)
  /-- Shifts a right arithmetically by b[5:0]. (R126) -/
  | sra (x : A3)
  /-- Rotates a right by b[5:0]. (R126) -/
  | rotr (x : A3)
  /-- Writes bits [63:0] of a × b. (R126) -/
  | mul (x : A3)
  /-- Writes the high 64 bits of the signed 128-bit product. (R126) -/
  | mulhs (x : A3)
  /-- Writes the high 64 bits of the unsigned 128-bit product. (R126) -/
  | mulhu (x : A3)
  /-- Writes the high 64 bits of the signed-by-unsigned product. (R126) -/
  | mulhsu (x : A3)
  /-- Signed quotient rounded toward zero, never trapping. (R127) -/
  | divs (x : A3)
  /-- Unsigned quotient, all ones for a zero divisor. (R127) -/
  | divu (x : A3)
  /-- Signed remainder with the sign of a. (R127) -/
  | rems (x : A3)
  /-- Unsigned remainder. (R127) -/
  | remu (x : A3)
  /-- Writes the unsigned smaller of a and b. (R126) -/
  | minu (x : A3)
  /-- Writes the unsigned larger of a and b. (R126) -/
  | maxu (x : A3)
  /-- Writes |a − b| of signed operands as unsigned. (R126) -/
  | absd (x : A3)
  /-- Counts leading zeros of a. (R126) -/
  | clz (x : A2)
  /-- Counts trailing zeros of a. (R126) -/
  | ctz (x : A2)
  /-- Counts set bits of a. (R126) -/
  | popc (x : A2)
  /-- Reverses the bits of a. (R126) -/
  | brev (x : A2)
  /-- Adds the sign-extended imm10 to a. (R128) -/
  | addi (x : AiF)
  /-- ANDs a with the sign-extended imm10. (R128) -/
  | andi (x : AiF)
  /-- ORs a with the sign-extended imm10. (R128) -/
  | ori (x : AiF)
  /-- XORs a with the sign-extended imm10. (R128) -/
  | xori (x : AiF)
  /-- Shifts a left by an immediate count. (R128) -/
  | shli (x : ShF)
  /-- Shifts a right logically by an immediate count. (R128) -/
  | shri (x : ShF)
  /-- Shifts a right arithmetically by an immediate count. (R128) -/
  | srai (x : ShF)
  /-- Writes the sign-extended imm15 to d. (R128) -/
  | lis (x : LiF)
  /-- ADDI with a 64-bit literal immediate. (R63) -/
  | addiLit (x : AiL)
  /-- ANDI with a 64-bit literal immediate. (R63) -/
  | andiLit (x : AiL)
  /-- ORI with a 64-bit literal immediate. (R63) -/
  | oriLit (x : AiL)
  /-- XORI with a 64-bit literal immediate. (R63) -/
  | xoriLit (x : AiL)
  /-- SHLI with the count in the literal. (R63) -/
  | shliLit (x : ShF)
  /-- SHRI with the count in the literal. (R63) -/
  | shriLit (x : ShF)
  /-- SRAI with the count in the literal. (R63) -/
  | sraiLit (x : ShF)
  /-- LIS writing the 64-bit literal to d. (R63) -/
  | lisLit (x : LiL)
  /-- Compares a with b under cond and writes pd and its complement pe. (R129) -/
  | cmp (x : CmpF)
  /-- Compares a with the sign-extended imm5 and writes pd and pe. (R129) -/
  | cmpi (x : CiF)
  /-- CMPI with a 64-bit literal comparand. (R63) -/
  | cmpiLit (x : CiL)
  /-- Compares FP32 values and writes pd and pe, raising no flag. (R130) -/
  | fcmpF32 (x : CmpF)
  /-- Compares FP16 values and writes pd and pe. (R130) -/
  | fcmpF16 (x : CmpF)
  /-- Compares BF16 values and writes pd and pe. (R130) -/
  | fcmpBf16 (x : CmpF)
  /-- Sets pd from truth table tt of pa and pb, pe its complement. (R131) -/
  | plog (x : PlF)
  /-- FP32 addition rounded once. (R133) -/
  | faddF32 (x : FA3)
  /-- FP32 subtraction rounded once. (R133) -/
  | fsubF32 (x : FA3)
  /-- FP32 multiplication rounded once. (R133) -/
  | fmulF32 (x : FA3)
  /-- FP32 d := a × b + d with one rounding. (R133) -/
  | fmacF32 (x : FA3)
  /-- FP16 addition rounded once. (R133) -/
  | faddF16 (x : FA3)
  /-- FP16 subtraction rounded once. (R133) -/
  | fsubF16 (x : FA3)
  /-- FP16 multiplication rounded once. (R133) -/
  | fmulF16 (x : FA3)
  /-- FP16 fused multiply-add into d. (R133) -/
  | fmacF16 (x : FA3)
  /-- BF16 addition rounded once. (R133) -/
  | faddBf16 (x : FA3)
  /-- BF16 subtraction rounded once. (R133) -/
  | fsubBf16 (x : FA3)
  /-- BF16 multiplication rounded once. (R133) -/
  | fmulBf16 (x : FA3)
  /-- BF16 fused multiply-add into d. (R133) -/
  | fmacBf16 (x : FA3)
  /-- FP32 lesser operand, −0 below +0, no rounding. (R134) -/
  | fminF32 (x : A3)
  /-- FP32 greater operand, no rounding. (R134) -/
  | fmaxF32 (x : A3)
  /-- FP32 d := d − a × b with one rounding. (R133) -/
  | fmscF32 (x : FA3)
  /-- FP32 magnitude of a with the sign of b. (R134) -/
  | fcpsF32 (x : A3)
  /-- FP16 lesser operand. (R134) -/
  | fminF16 (x : A3)
  /-- FP16 greater operand. (R134) -/
  | fmaxF16 (x : A3)
  /-- FP16 d := d − a × b with one rounding. (R133) -/
  | fmscF16 (x : FA3)
  /-- FP16 copy-sign. (R134) -/
  | fcpsF16 (x : A3)
  /-- BF16 lesser operand. (R134) -/
  | fminBf16 (x : A3)
  /-- BF16 greater operand. (R134) -/
  | fmaxBf16 (x : A3)
  /-- BF16 d := d − a × b with one rounding. (R133) -/
  | fmscBf16 (x : FA3)
  /-- BF16 copy-sign. (R134) -/
  | fcpsBf16 (x : A3)
  /-- Converts a between the from and to types under rm and sat. (R135) -/
  | fcvt (x : CvF)
  /-- Writes a when ps is true, else b. (R132) -/
  | sel (x : SlF)
  /-- Copies p0–p7 into bits [7:0] of d. (R132) -/
  | pget (x : PmF)
  /-- Sets p1–p7 from d[7:1]. (R132) -/
  | pput (x : PmF)
  /-- Loads a sign-extended byte. (R136) -/
  | ldb (x : MemF)
  /-- Loads a sign-extended halfword. (R136) -/
  | ldh (x : MemF)
  /-- Loads a sign-extended word. (R136) -/
  | ldw (x : MemF)
  /-- Loads a doubleword. (R136) -/
  | ldd (x : MemF)
  /-- Loads a zero-extended byte. (R136) -/
  | ldbu (x : MemF)
  /-- Loads a zero-extended halfword. (R136) -/
  | ldhu (x : MemF)
  /-- Loads a zero-extended word. (R136) -/
  | ldwu (x : MemF)
  /-- Stores the low byte of d. (R136) -/
  | stb (x : MemF)
  /-- Stores the low halfword of d. (R136) -/
  | sth (x : MemF)
  /-- Stores the low word of d. (R136) -/
  | stw (x : MemF)
  /-- Stores the doubleword d. (R136) -/
  | std (x : MemF)
  /-- LDB with an unscaled literal offset. (R63) -/
  | ldbLit (x : MemL)
  /-- LDH with an unscaled literal offset. (R63) -/
  | ldhLit (x : MemL)
  /-- LDW with an unscaled literal offset. (R63) -/
  | ldwLit (x : MemL)
  /-- LDD with an unscaled literal offset. (R63) -/
  | lddLit (x : MemL)
  /-- LDBU with an unscaled literal offset. (R63) -/
  | ldbuLit (x : MemL)
  /-- LDHU with an unscaled literal offset. (R63) -/
  | ldhuLit (x : MemL)
  /-- LDWU with an unscaled literal offset. (R63) -/
  | ldwuLit (x : MemL)
  /-- STB with an unscaled literal offset. (R63) -/
  | stbLit (x : MemL)
  /-- STH with an unscaled literal offset. (R63) -/
  | sthLit (x : MemL)
  /-- STW with an unscaled literal offset. (R63) -/
  | stwLit (x : MemL)
  /-- STD with an unscaled literal offset. (R63) -/
  | stdLit (x : MemL)
  /-- Branches by a signed word offset. (R141) -/
  | br (x : BrF)
  /-- Writes the link to s31 and branches. (R141) -/
  | brl (x : BrF)
  /-- Branches to the absolute literal target. (R63) -/
  | brLit (x : BrL)
  /-- Links and branches to the absolute literal target. (R63) -/
  | brlLit (x : BrL)
  /-- Jumps to register a, writing the link to d. (R141) -/
  | jr (x : JrF)
  /-- Starts a hardware loop on lc with the count from a. (R142) -/
  | loop (x : LpF)
  /-- Does nothing for one cycle. (R149) -/
  | nop (x : SysF)
  /-- Waits for commits and drained counts, then ends the activation and releases its record. (R150) -/
  | endAct (x : SysF)
  /-- Pushes a continuation task record and ends the task. (R151) -/
  | yield (x : SysF)
  /-- Raises UTRAP with TVAL := imm12. (R152) -/
  | trap (x : SysI)
  /-- Raises PRIVOP in an activation; on the management path resumes the core at TPC. (R153) -/
  | eret (x : SysN)
  /-- Halts the core with a tag when breakpoint halts are enabled, else does nothing. (R152) -/
  | brk (x : SysI)
  /-- Holds issue for imm12 cycles. (R149) -/
  | pause (x : SysI)
  /-- Waits for drained counts, then discards the instruction cache and refetches. (R153) -/
  | fencei (x : SysN)
  /-- Reads control register idx into d. (R148) -/
  | getc (x : CrF)
  /-- Writes d into control register idx. (R148) -/
  | putc (x : CrF)
  /-- Pushes a task record for the other arm and increments the join word. (R145) -/
  | fork (x : FkF)
  /-- Drains, decrements the join word, and continues on zero or ends the activation. (R146) -/
  | join (x : JnF)
  /-- Elementwise vector addition. (R160) -/
  | vadd (x : XOp)
  /-- Elementwise vector subtraction. (R160) -/
  | vsub (x : XOp)
  /-- Elementwise vector multiplication. (R160) -/
  | vmul (x : XOp)
  /-- Elementwise a × b + c. (R160) -/
  | vfma (x : XOp)
  /-- Elementwise c − a × b. (R160) -/
  | vfms (x : XOp)
  /-- Elementwise minimum. (R160) -/
  | vmin (x : XOp)
  /-- Elementwise maximum. (R160) -/
  | vmax (x : XOp)
  /-- Elementwise absolute value. (R160) -/
  | vabs (x : XOp)
  /-- Elementwise negation. (R160) -/
  | vneg (x : XOp)
  /-- Elementwise |a − b|. (R160) -/
  | vabsd (x : XOp)
  /-- Upper half of the double-width integer product. (R162) -/
  | vmulh (x : XOp)
  /-- Elementwise float division. (R161) -/
  | vdiv (x : XOp)
  /-- Elementwise float square root. (R161) -/
  | vsqrt (x : XOp)
  /-- Scales float elements by 2^n. (R161) -/
  | vscl (x : XOp)
  /-- Elementwise AND. (R163) -/
  | vand (x : XOp)
  /-- Elementwise OR. (R163) -/
  | vor (x : XOp)
  /-- Elementwise XOR. (R163) -/
  | vxor (x : XOp)
  /-- Elementwise AND NOT. (R163) -/
  | vandn (x : XOp)
  /-- Elementwise NOT. (R163) -/
  | vnot (x : XOp)
  /-- Elementwise left shift. (R163) -/
  | vshl (x : XOp)
  /-- Elementwise logical right shift. (R163) -/
  | vshr (x : XOp)
  /-- Elementwise arithmetic right shift. (R163) -/
  | vsra (x : XOp)
  /-- Elementwise rotate right. (R163) -/
  | vrotr (x : XOp)
  /-- Elementwise population count. (R163) -/
  | vpopc (x : XOp)
  /-- Elementwise leading-zero count. (R163) -/
  | vclz (x : XOp)
  /-- Writes equality compare results into a mask. (R164) -/
  | vceq (x : XOp)
  /-- Writes inequality compare results into a mask. (R164) -/
  | vcne (x : XOp)
  /-- Writes less-than results into a mask. (R164) -/
  | vclt (x : XOp)
  /-- Writes less-or-equal results into a mask. (R164) -/
  | vcle (x : XOp)
  /-- Writes greater-than results into a mask. (R164) -/
  | vcgt (x : XOp)
  /-- Writes greater-or-equal results into a mask. (R164) -/
  | vcge (x : XOp)
  /-- Writes unordered (NaN) results into a mask. (R164) -/
  | vcun (x : XOp)
  /-- Sets mask bits for elements of selected float classes. (R165) -/
  | vclass (x : XOp)
  /-- Selects elements of va or vb by mask mc. (R166) -/
  | vsel (x : XOp)
  /-- ANDs two lane masks. (R167) -/
  | vmand (x : XOp)
  /-- ORs two lane masks. (R167) -/
  | vmor (x : XOp)
  /-- XORs two lane masks. (R167) -/
  | vmxor (x : XOp)
  /-- Complements a lane mask. (R167) -/
  | vmnot (x : XOp)
  /-- Copies a lane mask into a scalar register. (R167) -/
  | vmtos (x : XOp)
  /-- Copies a scalar register into a lane mask. (R167) -/
  | vstom (x : XOp)
  /-- Converts one part of a vector between element types. (R168) -/
  | vcvt (x : XOp)
  /-- Aligns 32 float elements into a block-aligned integer image. (R170) -/
  | valign (x : XOp)
  /-- Probes a block and writes its exponent eb to a scalar. (R170) -/
  | valignp (x : XOp)
  /-- Packs 32 float elements into an E2M1 block with outliers. (R171) -/
  | vpke2 (x : XOp)
  /-- Unpacks an E2M1 block into float elements. (R172) -/
  | vunpe2 (x : XOp)
  /-- Copies a histogram context's bins into registers, optionally clearing it. (R173) -/
  | vhist (x : XOp)
  /-- Broadcasts a scalar to every element. (R174) -/
  | vbcast (x : XOp)
  /-- Permutes the joint vector by indices. (R174) -/
  | vshuf (x : XOp)
  /-- Rotates the joint vector by n elements. (R174) -/
  | vrot (x : XOp)
  /-- Slides elements across two vectors. (R174) -/
  | vslide (x : XOp)
  /-- Interleaves halves of two vectors. (R174) -/
  | vzip (x : XOp)
  /-- De-interleaves two vectors. (R174) -/
  | vunzip (x : XOp)
  /-- Inserts a scalar into one element. (R174) -/
  | vins (x : XOp)
  /-- Extracts one element into a scalar. (R174) -/
  | vextr (x : XOp)
  /-- Compresses active elements to the front. (R174) -/
  | vcomp (x : XOp)
  /-- Expands elements into active positions. (R174) -/
  | vexpd (x : XOp)
  /-- Reduces active elements by a fixed pairwise sum tree. (R175) -/
  | vrsum (x : XOp)
  /-- Reduces active elements to their minimum. (R175) -/
  | vrmin (x : XOp)
  /-- Reduces active elements to their maximum. (R175) -/
  | vrmax (x : XOp)
  /-- Reduces elementwise products by a fixed tree. (R175) -/
  | vrdot (x : XOp)
  /-- Loads a tile from scratchpad into registers. (R177) -/
  | vld (x : XOp)
  /-- Stores registers into a scratchpad tile. (R177) -/
  | vst (x : XOp)
  /-- Loads active elements from a scalar address. (R176) -/
  | vldr (x : XOp)
  /-- Stores active elements to a scalar address. (R176) -/
  | vstr (x : XOp)
  /-- Loads one element into every active lane. (R176) -/
  | vldbc (x : XOp)
  /-- Loads a matrix B plane from a tile and takes macro ownership. (R181) -/
  | mldb (x : XOp)
  /-- Multiplies A rows against a plane into accumulators. (R183) -/
  | mmul (x : XOp)
  /-- Multiplies A rows against a plane and accumulates. (R183) -/
  | mmac (x : XOp)
  /-- Converts accumulator lanes to a tile of INT32, INT64 or FP32. (R189) -/
  | mrd (x : XOp)
  /-- Clears selected accumulators and their side state. (R191) -/
  | mclr (x : XOp)
  /-- Sets or clears the macro's shared bit. (R191) -/
  | mshr (x : XOp)
  /-- Releases macro ownership. (R191) -/
  | mrel (x : XOp)
  /-- Scales accumulators into an FP32 tile with one rounding each. (R190) -/
  | vscalc (x : XOp)
  /-- Arrives at the gang's wired barrier with a tag. (R192) -/
  | gang (x : XOp)
  /-- Dissolves the gang; followers resume at their split targets. (R193) -/
  | split (x : XOp)
  /-- Returning atomic add. (R215) -/
  | aadd (x : XOp)
  /-- Returning atomic AND. (R215) -/
  | aand (x : XOp)
  /-- Returning atomic OR. (R215) -/
  | aor (x : XOp)
  /-- Returning atomic XOR. (R215) -/
  | axor (x : XOp)
  /-- Returning atomic signed minimum. (R215) -/
  | amin (x : XOp)
  /-- Returning atomic signed maximum. (R215) -/
  | amax (x : XOp)
  /-- Returning atomic unsigned minimum. (R215) -/
  | aminu (x : XOp)
  /-- Returning atomic unsigned maximum. (R215) -/
  | amaxu (x : XOp)
  /-- Returning atomic swap. (R215) -/
  | aswap (x : XOp)
  /-- Atomic compare-and-swap returning the old value. (R215) -/
  | acas (x : XOp)
  /-- Returning atomic float add. (R217) -/
  | afadd (x : XOp)
  /-- Posted atomic add. (R215) -/
  | aaddp (x : XOp)
  /-- Posted atomic AND. (R215) -/
  | aandp (x : XOp)
  /-- Posted atomic OR. (R215) -/
  | aorp (x : XOp)
  /-- Posted atomic XOR. (R215) -/
  | axorp (x : XOp)
  /-- Posted atomic signed minimum. (R215) -/
  | aminp (x : XOp)
  /-- Posted atomic signed maximum. (R215) -/
  | amaxp (x : XOp)
  /-- Posted atomic unsigned minimum. (R215) -/
  | aminup (x : XOp)
  /-- Posted atomic unsigned maximum. (R215) -/
  | amaxup (x : XOp)
  /-- Posted atomic swap. (R215) -/
  | aswapp (x : XOp)
  /-- Posted atomic float add. (R217) -/
  | afaddp (x : XOp)
  /-- Arms a sync word with a byte target and returns its generation. (R209) -/
  | expect (x : XOp)
  /-- Holds until a sync word's generation passes a value. (R209) -/
  | waitg (x : XOp)
  /-- Arrives at a barrier phase and waits for its release. (R212) -/
  | bar (x : XOp)
  /-- Drains counts and arrives at the next barrier phase. (R212) -/
  | bararr (x : XOp)
  /-- Waits for release of the phase of the latest arrival. (R212) -/
  | barwt (x : XOp)
  /-- Holds until the named queues have committed, then applies its wait. (R214) -/
  | qfence (x : XOp)
  /-- Initialises a sync word with a generation. (R209) -/
  | swinit (x : XOp)
  /-- Pushes a tile densely to a destination, optionally counted into a sync word. (R219) -/
  | send (x : XOp)
  /-- Pushes a tile to a destination laid out by a second record. (R219) -/
  | sendl (x : XOp)
  /-- Gathers device-memory table rows into scratchpad. (R220) -/
  | gath (x : XOp)
  /-- Scatters scratchpad rows into a device-memory table. (R220) -/
  | scat (x : XOp)
  /-- Contributes a vector to the current round of a reduction tree. (R222) -/
  | treduce (x : XOp)
  /-- Writes a micro-op position of an operator slot. (R262) -/
  | scop (x : XOp)
  /-- Writes and validates an operator slot's header. (R262) -/
  | scophdr (x : XOp)
  /-- Writes one identity component of a slot. (R262) -/
  | scopid (x : XOp)
  /-- Folds one tile with the captured operator, without the ride. (R266) -/
  | scan (x : XOp)
  /-- Folds a tile with its carry taken from the ride chain. (R269) -/
  | scanc (x : XOp)
  /-- Joins the actor to a ride chain. (R268) -/
  | ride (x : XOp)
  /-- Arrives at the next ride barrier phase after its S commands commit. (R272) -/
  | rbar (x : XOp)
  /-- Waits for S commits and returns the rounds committed on a chain. (R273) -/
  | scwait (x : XOp)
  /-- Evaluates a law word at LAWNOW and returns its value. (R246) -/
  | lld (x : XOp)
  /-- Writes a law word's value, stamp and index and clears FIRED. (R247) -/
  | lst (x : XOp)
  /-- Evaluates, adds an operand and rebases a law word. (R248) -/
  | ladd (x : XOp)
  /-- Rebases a law word at the present law time. (R248) -/
  | lreb (x : XOp)
  /-- Writes a whole law-table entry. (R249) -/
  | lset (x : XOp)
  /-- Copies a law-table entry to scratchpad. (R249) -/
  | lget (x : XOp)
  /-- Advances LAWNOW by n after the sweeper hold. (R250) -/
  | ltick (x : XOp)
  /-- Reads LAWNOW in L-queue order. (R251) -/
  | lnow (x : XOp)
  /-- Registers a sweep region and returns its index. (R252) -/
  | lreg (x : XOp)
  /-- Frees a sweep region. (R252) -/
  | lregf (x : XOp)
  /-- Sends one message to an actor's mailbox. (R294) -/
  | sendm (x : XOp)
  /-- Reads the running actor's mailbox state. (R295) -/
  | mbox (x : XOp)
  /-- Masks route classes of the running actor. (R296) -/
  | maskc (x : XOp)
  /-- Unmasks route classes. (R296) -/
  | unmc (x : XOp)
  /-- Creates one actor from a launch header and waits for the placer. (R298) -/
  | spawn (x : XOp)
  /-- Writes one handler-table entry. (R299) -/
  | hset (x : XOp)
  /-- Invalidates selected handler entries. (R299) -/
  | hclr (x : XOp)
  /-- Installs an exposure window descriptor. (R300) -/
  | wset (x : XOp)
  /-- Invalidates selected exposure windows. (R300) -/
  | wclr (x : XOp)
  /-- Destroys a named actor of the caller's launch. (R301) -/
  | adest (x : XOp)
  /-- Reads and checks a launch header and starts the launch. (R302) -/
  | launch (x : XOp)
  /-- Extracts a work-identifier field or prefix. (R304) -/
  | widf (x : XOp)
  /-- Copies words into the NMU buffer and shadow copy. (R325) -/
  | nmld (x : XOp)
  /-- Starts an NMU program run. (R325) -/
  | nmrun (x : XOp)
  /-- Waits for N commits and returns the last run's status word. (R326) -/
  | nmwait (x : XOp)
  /-- Holds later N commands until outstanding posted accesses are performed. (R327) -/
  | nmfence (x : XOp)
  /-- Sums indexed table rows into bags in the base die. (R330) -/
  | nmred (x : XOp)
  /-- Loads a coppice-row table from scratchpad. (R312) -/
  | tld (x : XOp)
  /-- Queries a coppice table with 128 indices. (R312) -/
  | tq (x : XOp)
  /-- Sets a breakpoint. (R379) -/
  | dbset (x : XOp)
  /-- Clears breakpoints. (R379) -/
  | dbclr (x : XOp)
  /-- Sets a watchpoint and clears its hit record. (R379) -/
  | dwset (x : XOp)
  /-- Clears watchpoints. (R379) -/
  | dwclr (x : XOp)
  /-- Writes a MARK trace record. (R379) -/
  | trmark (x : XOp)
  /-- Writes TRCFG. (R379) -/
  | trctl (x : XOp)
  /-- Reads a profiling accumulator or counter. (R379) -/
  | dacc (x : XOp)
  /-- Saves a context image on the management path. (R359) -/
  | ctxsv (x : XOp)
  /-- Restores a context image on the management path. (R359) -/
  | ctxld (x : XOp)
  /-- Invalidates grove translation-cache entries. (R359) -/
  | tlbinv (x : XOp)
  /-- Sets the grove's clearing CAP and RATE. (R359) -/
  | clrset (x : XOp)
  /-- Sets the grove's law-time mode. (R359) -/
  | ltmode (x : XOp)
  /-- Sets TROOT, TENANT or the core's launch slot. (R359) -/
  | crset (x : XOp)
  /-- NMU load of 32 bytes from the core's bank slice. (R318) -/
  | nldr (x : NmF)
  /-- NMU store of 32 bytes to the core's bank slice. (R318) -/
  | nstr (x : NmF)
  /-- Sets every NMU element to an immediate. (R318) -/
  | nldi (x : NiF)
  /-- NMU elementwise addition. (R318) -/
  | nadd (x : NaF)
  /-- NMU elementwise subtraction. (R318) -/
  | nsub (x : NaF)
  /-- NMU elementwise multiplication. (R318) -/
  | nmul (x : NaF)
  /-- NMU fused a × b + d. (R318) -/
  | nfma (x : NaF)
  /-- NMU elementwise minimum. (R318) -/
  | nmin (x : NaF)
  /-- NMU elementwise maximum. (R318) -/
  | nmax (x : NaF)
  /-- NMU elementwise compare to all-ones or zero. (R318) -/
  | ncmp (x : NaF)
  /-- NMU elementwise select by d. (R318) -/
  | nsel (x : NaF)
  /-- NMU bitwise AND. (R318) -/
  | nand (x : NaF)
  /-- NMU bitwise OR. (R318) -/
  | nor (x : NaF)
  /-- NMU bitwise XOR. (R318) -/
  | nxor (x : NaF)
  /-- NMU elementwise shift by an immediate count. (R318) -/
  | nshf (x : NaF)
  /-- NMU elementwise type conversion. (R318) -/
  | ncvt (x : NaF)
  /-- NMU evaluation, optionally rebase, of four law words in device memory. (R320) -/
  | nlaw (x : NmF)
  /-- NMU table query of coppice rows. (R318) -/
  | ntq (x : NqF)
  /-- NMU fixed-tree reduction of a register. (R318) -/
  | nred (x : NaF)
  /-- NMU push of 32 bytes to the issuer's local space. (R321) -/
  | npush (x : NmF)
  /-- Starts an outer NMU loop. (R319) -/
  | nloop0 (x : NlF)
  /-- Starts an inner NMU loop. (R319) -/
  | nloop1 (x : NlF)
  /-- Adds an immediate to an NMU address register. (R318) -/
  | nadda (x : NdF)
  /-- Ends the NMU run. (R318) -/
  | nend
  /-- An NMU run ends at NEND or an error and raises NMERR when not DONE. (R322) -/
  | nmuRunEnd
  /-- A parity failure reloads the buffer from the shadow copy and reruns the program. (R323) -/
  | nmuParityReload
  /-- After every 128 NMU cycles the run pauses and requests 128 more energy units. (R325) -/
  | nmuClearingRequest
  /-- At power-on or package reset the boot ROM checks and measures the signed image and starts the management cores. (R382) -/
  | packageReset (image : List Byte)
  /-- Phopol stops answering NOTREADY once groves, stacks and ports are up. (R384) -/
  | bringupComplete
  /-- A grove reset sets LAWNOW to 0 in LTICK-only mode. (R228) -/
  | groveReset
  /-- Phopol takes the package's domain number from the switches' configuration. (R387) -/
  | domainBringup (dom : BitVec 8)
  /-- A VFL link resends a flit until it is acknowledged. (R387) -/
  | linkResend (port : Nat)
  /-- A failed fabric port holds its pairs at their sources. (R388) -/
  | fabricPortFailure (port : Nat)
  /-- Once held pairs' flits are acknowledged, they move to working ports. (R388) -/
  | pairMove (port : Nat) (e : PairEnd)
  /-- Places an ELF64 image and invalidates instruction caches. (R385) -/
  | codeLoad (tenant : BitVec 16) (segs : List (Nat × List Byte))
  /-- Makes an interleaved allocation placed by the placer. (R385) -/
  | allocate (r : AllocReq)
  /-- Frees an interleaved allocation. (R385) -/
  | free (tenant : BitVec 16) (va : Nat)
  /-- Moves host bytes into device memory before answering. (R385) -/
  | writeRequest (tenant : BitVec 16) (va : Nat) (bytes : List Byte)
  /-- Returns bytes from device memory. (R385) -/
  | readRequest (tenant : BitVec 16) (va len : Nat)
  /-- Phopol reads, checks and starts a host launch. (R34) -/
  | launchRequest (r : LaunchReq)
  /-- Returns a launch's report at completion or abort. (R38) -/
  | waitRequest (tenant : BitVec 16) (slot : Nat)
  /-- Phopol evicts an actor and saves its state. (R292) -/
  | evictRequest (tenant : BitVec 16) (aid : Nat)
  /-- Returns a signed attestation report for a nonce. (R386) -/
  | attestRequest (tenant : BitVec 16) (nonce : List Byte)
  /-- Sets every grove's clearing from a package cap. (R341) -/
  | setCapRequest (watts : Nat)
  /-- Phopol requests a core stop. (R366) -/
  | debugStopRequest
  /-- Issues one instruction in a stopped core or gang. (R370) -/
  | debugStepRequest
  /-- Resumes every named stopped core in the same cycle. (R369) -/
  | debugRunRequest
  /-- Writes a debug-module register that has no row of its own, or reads what a debug request may read. (R363) -/
  | debugRegisterWrite (tenant : BitVec 16) (x : DebugAccess)
  /-- A write of any value to WHITn clears its V bit. (R363) -/
  | whitWrite (x : WhitClear)
  /-- A management core submits one instruction to a halted core. (R358) -/
  | mgmtInstruction (ws : List IWord)
  /-- Initial task records are written into overflow rings as room appears. (R335) -/
  | overflowRingFeed (slot : Nat)
  /-- An idle core dispatches an eligible mailbox record, checking its handler entry. (R286) -/
  | messageDispatch (aid off : Nat)
  /-- An idle core pops, steals or takes a task or resume record and starts it. (R45) -/
  | taskDispatch (src : TaskSrc)
  /-- A retried activation re-runs from its retained record 6 cycles after the fault. (R48) -/
  | retryDispatch
  /-- The placer answers a SPAWN with an actor or a refusal. (R298) -/
  | placerAnswer (a : PlacerAns)
  /-- A gang joins 4 cycles after its last member arrives. (R40) -/
  | gangJoin (tags : List (BitVec 16))
  /-- GANG's wait reaches BARTMO and raises BARTO. (R192) -/
  | gangTimeout
  /-- A deferred trap is taken at an instruction boundary. (R347) -/
  | deferredTrap
  /-- Activations of a killed prefix stop at a boundary and its records and actors go. (R51) -/
  | kill (k : KillReq)
  /-- A pre-emption request is taken at an instruction boundary. (R343) -/
  | preemption
  /-- The context image is written and the core is free. (R345) -/
  | contextSaveDone
  /-- An evicted actor is restored on a core. (R293) -/
  | actorReload (k aid base : Nat)
  /-- A launch completes when nothing of it remains. (R38) -/
  | launchCompletion (slot : Nat)
  /-- A posted store arrives and is checked against windows and performed. (R199) -/
  | remoteStoreArrival (a : Arrival)
  /-- A remote load request is checked and read. (R199) -/
  | remoteLoadArrival (a : Arrival)
  /-- A remote atomic is performed indivisibly at its destination. (R216) -/
  | atomicArrival (a : Arrival)
  /-- A push flit is judged and performed. (R200) -/
  | pushFlitArrival (a : Arrival)
  /-- A message header flit reserves ring space or is refused. (R281) -/
  | messageHeaderArrival (a : Arrival)
  /-- A record's last flit is performed; it becomes eligible 6 cycles later. (R281) -/
  | messageLastFlit (aid off : Nat)
  /-- A room notice makes the sender retry its held messages in order. (R283) -/
  | roomNotice (aid : Nat)
  /-- An unlisted sender retries its held message 256 cycles after a refusal. (R283) -/
  | unlistedRetry (aid : Nat)
  /-- An acknowledgement returns and the posted count falls. (R203) -/
  | ackReturn (id : Nat)
  /-- A non-local load's data returns and issue resumes. (R138) -/
  | loadDataReturn (r : LoadReply)
  /-- A refusal returns, its count falls and a deferred trap is reported. (R362) -/
  | nackReturn (id : Nat) (why : Refused)
  /-- A reduction round's total is written to the root and counted. (R222) -/
  | treeRoundTotal (tree : Nat) (parts : List VWord)
  /-- A predecessor's carry reaches a member's hop buffer. (R269) -/
  | rideCarryArrival (aid : Nat) (ch : Fin 2) (carry : List (List (BitVec 32)))
  /-- A ride barrier phase is released. (R272) -/
  | rbarRelease (aid : Nat) (ch : Fin 2)
  /-- A barrier phase is released after its last arrival. (R212) -/
  | barrierRelease (idx : Nat)
  /-- A member's wait count reaches BARTMO and the instance breaks. (R213) -/
  | barrierTimeout (idx : Nat)
  /-- WAITG held for BARTMO cycles raises WAITTO. (R209) -/
  | waitgTimeout
  /-- A queued command commits and merges its flags and statistics. (R214) -/
  | commandCommit (q : Queue)
  /-- An abandoned command is replayed from its journal after service. (R350) -/
  | commandReplay (q : Queue)
  /-- A page-table walk ends, filling the cache or failing with XFAULT. (R353) -/
  | walkComplete (va : Nat)
  /-- Each cycle CNOW gains RATE up to CAP. (R337) -/
  | clearingRefill
  /-- The head request is granted when CNOW suffices. (R337) -/
  | clearingGrant
  /-- In divider mode LAWNOW advances every d-th cycle. (R228) -/
  | lawnowAdvance
  /-- The sweeper evaluates registered law words, checking crossings and rebasing old words. (R242) -/
  | sweeperVisit (off : Nat)
  /-- The crossing unit finishes a bisection and posts the crossing message. (R239) -/
  | crossingSearchEnd
  /-- A bank performs a refresh. (R309) -/
  | dramRefresh (bank : Nat)
  /-- A row reaching the disturbance threshold has its neighbours refreshed. (R309) -/
  | targetedRefresh (bank row : Nat)
  /-- A stop is taken at a boundary and DBGSTAT records it. (R366) -/
  | debugStop
  /-- A stepped instruction held 256 cycles ends the step unissued with WAIT. (R370) -/
  | stepHoldTimeout
  /-- The grove trace buffer drains records to device memory. (R374) -/
  | traceDrain (d : Drain)
  /-- Before gating, Phopol waits up to 1,400 cycles for the trace drain. (R375) -/
  | grovePowerGate
  /-- A woken grove first writes a LOSS record. (R375) -/
  | groveWake
  /-- A word that is not an instruction reaches issue and raises ILLOP precisely, whatever its guard. (R76) -/
  | illegalEncoding (w : IWord)
  /-- On a host request Phopol destroys a launch's actors, which can complete the launch. (R38) -/
  | destroyRequest (tenant : BitVec 16) (slot : Nat)
  /-- A GATH row read from device memory lands in the dense side and is counted into the named sync word. (R220) -/
  | gatherRowLanding (row : Nat)
  /-- Phopol clears a scratchpad bank's failed mark in its always-on register. (R356) -/
  | failedBankMarkClear (bank : Fin 64)
deriving DecidableEq, Repr

end Sys2Proof
end

