-- ==== Sys2Proof/WellFormed.lean ====
section
/-!
DEFINITION. Which instructions are well formed: the decode checks of 04_formats.md R54, R63, R64, R67, R71, R72, R76 and
of each subop's own table. An ill-formed one raises ILLOP (R77).
-/
namespace Sys2Proof

/-- Guard 0b1000 is illegal (R64). -/
def Guard.ok (g : Guard) : Bool := !(g.neg && g.p == 0)

/-- The guard 0b0000, which the unguardable instructions require (R64). -/
def Guard.none : Guard := { neg := false, p := 0 }

/-! ### The 32-bit forms -/

/-- pd and pe name one predicate only when it is p0 (R54). -/
def pairOk (pd pe : PReg) : Bool := pd != pe || pd == 0

/-- A compare's guard, condition bound and destinations (R129, R130). -/
def CmpF.ok (lim : Nat) (x : CmpF) : Bool := x.h.g.ok && decide (x.cond.val < lim) && pairOk x.pd x.pe

/-- An index of R56. -/
def ctlIndexOk (i : Nat) : Bool :=
  decide (i ≤ 3) || (decide (0x10 ≤ i) && decide (i ≤ 0x12)) || (decide (0x20 ≤ i) && decide (i ≤ 0x25))
    || (decide (0x30 ≤ i) && decide (i ≤ 0x32)) || i == 0x40 || (decide (0x50 ≤ i) && decide (i ≤ 0x60))
    || (decide (0x70 ≤ i) && decide (i ≤ 0x77))

/-- FCVT: the cases of R67 and R135. -/
def CvF.ok (x : CvF) : Bool :=
  x.h.g.ok && x.rm != 6 && x.src != 7 && x.dst != 7 && x.src != x.dst
    && !(decide (x.src.val ≤ 3) && decide (x.dst.val ≤ 3)) && (!x.sat || decide (x.dst.val ≤ 3))

/-! ### The extended forms (R70, R71) -/

/-- The integer types of R160. -/
def intTys : List Nat := [0, 1, 2, 3, 4, 5, 6]
/-- The float types of R160. -/
def fltTys : List Nat := [8, 9, 10]
/-- FP32, FP16 or BF16. -/
def isFlt (t : Nat) : Bool := 8 ≤ t && t ≤ 10
/-- One of the integer types of R160. -/
def isInt (t : Nat) : Bool := t ≤ 6

/-- Element width in bits of a type code (R73); type 15 has its width in AW. -/
def tyBits (t : Nat) : Nat :=
  match t with
  | 0 | 1 | 11 | 12 | 14 => 8
  | 2 | 3 | 9 | 10 => 16
  | 4 | 5 | 8 => 32
  | 6 => 64
  | _ => 4

/-- The fields a subop uses: the rest are reserved. x allows the X bit, and with it hist. w2 masks the usable bits of word 2. -/
structure Use where
  ty : List Nat := [0]
  rm : Bool := false
  mask : Bool := false
  sat : Bool := false
  wait : Bool := false
  l : Bool := false
  x : Bool := false
  hist : Bool := false
  d : Bool := false
  a : Bool := false
  b : Bool := false
  c : Bool := false
  w2 : Nat := 0

/-- A field is usable or zero. -/
def unless0 (used : Bool) (n : Nat) : Bool := used || n == 0

/-- The check of R71, R72 and R78 of an instruction against what its subop uses. -/
def Use.ok (u : Use) (x : XOp) : Bool :=
  x.h.g.ok && u.ty.contains x.ty.val && (x.ty == 15 || x.aw == 0)
    && (if u.rm then x.rm != 6 else x.rm == 0)
    && unless0 u.mask x.mask.val && (u.sat || !x.sat) && unless0 u.wait x.wait.val
    && (if u.l then x.l != 0 else x.l == 0)
    && (u.x || !x.x) && unless0 (u.hist && x.x) x.hist.val
    && unless0 u.d x.d.val && unless0 u.a x.a.val && unless0 u.b x.b.val && unless0 u.c x.c.val
    && x.w2.toNat &&& (0xFFFFFFFF - u.w2) == 0

/-- Bits [lo, lo + n) of word 2. -/
def XOp.w2f (x : XOp) (lo n : Nat) : Nat := x.w2.toNat / 2 ^ lo % 2 ^ n

/-- VARITH (R160 to R162). -/
def okVarith (sub : Nat) (x : XOp) : Bool :=
  let f := isFlt x.ty.val
  let both := intTys ++ fltTys
  match sub with
  | 0 | 1 | 2 => Use.ok { ty := both, rm := f, sat := !f, mask := true, d := true, a := true, b := true } x
  | 3 | 4 => Use.ok { ty := both, rm := f, sat := !f, mask := true, d := true, a := true, b := true, c := true } x
  | 5 | 6 => Use.ok { ty := both, mask := true, d := true, a := true, b := true } x
  | 7 | 8 => Use.ok { ty := both, sat := !f, mask := true, d := true, a := true } x
  | 9 => Use.ok { ty := both, rm := f, mask := true, d := true, a := true, b := true } x
  | 10 => Use.ok { ty := intTys, mask := true, d := true, a := true, b := true } x
  | 11 => Use.ok { ty := fltTys, rm := true, mask := true, d := true, a := true, b := true } x
  | 12 => Use.ok { ty := fltTys, rm := true, mask := true, d := true, a := true } x
  | 13 => Use.ok { ty := fltTys, rm := true, mask := true, d := true, a := true, w2 := 0xFFFF } x
  | _ => false

/-- VLOGIC (R163). -/
def okVlogic (sub : Nat) (x : XOp) : Bool :=
  match sub with
  | 0 | 1 | 2 | 3 => Use.ok { ty := 7 :: intTys ++ fltTys, mask := true, d := true, a := true, b := true } x
  | 4 => Use.ok { ty := 7 :: intTys ++ fltTys, mask := true, d := true, a := true } x
  | 5 | 6 | 7 | 8 =>
    if x.x then Use.ok { ty := intTys, mask := true, x := true, d := true, a := true, w2 := 0x3F } x
    else Use.ok { ty := intTys, mask := true, d := true, a := true, b := true } x
  | 9 | 10 => Use.ok { ty := intTys, mask := true, d := true, a := true } x
  | _ => false

/-- A lane-mask number (R154). -/
def isMask (r : Fin 32) : Bool := r.val ≤ 7

/-- VCMP (R164 to R167). -/
def okVcmp (sub : Nat) (x : XOp) : Bool :=
  match sub with
  | 0 | 1 | 2 | 3 | 4 | 5 =>
    Use.ok { ty := intTys ++ fltTys, mask := true, d := true, a := true, b := true } x && isMask x.d
  | 6 => Use.ok { ty := fltTys, mask := true, d := true, a := true, b := true } x && isMask x.d
  | 7 => Use.ok { ty := fltTys, mask := true, d := true, a := true, w2 := 0x1FF } x && isMask x.d
  | 8 => Use.ok { ty := 7 :: intTys ++ fltTys, mask := true, d := true, a := true, b := true, c := true } x && isMask x.c
  | 9 | 10 | 11 => Use.ok { d := true, a := true, b := true } x && isMask x.d && isMask x.a && isMask x.b
  | 12 => Use.ok { d := true, a := true } x && isMask x.d && isMask x.a
  | 13 => Use.ok { d := true, a := true } x && isMask x.a
  | 14 => Use.ok { d := true, a := true } x && isMask x.d
  | _ => false

/-- The destinations and sources of VCVT (R168). -/
def okCvtParts (src dst qs qd : Nat) : Bool :=
  let n := 512 / max (tyBits src) (tyBits dst)
  (7 :: intTys ++ [8, 9, 10, 11, 12, 14]).contains src && src != dst
    && decide (qs < 512 / tyBits src / n) && decide (qd < 512 / tyBits dst / n)

/-- VCVT class (R168 to R173). -/
def okVcvt (sub : Nat) (x : XOp) : Bool :=
  match sub with
  | 0 =>
    let t := x.ty.val
    Use.ok { ty := 7 :: intTys ++ [8, 9, 10, 11, 12, 13], rm := true, mask := true, x := true, hist := true, sat := isInt t || t == 7 || t == 11 || t == 13, d := true, a := true, w2 := 0xFFF } x
      && (t != 13 || x.sat) && okCvtParts (x.w2f 0 4) t (x.w2f 4 4) (x.w2f 8 4)
  | 1 =>
    Use.ok { ty := [15], rm := true, d := true, a := true, b := x.w2f 4 1 == 1, w2 := 0x3F } x
      && isFlt (x.w2f 0 4) && (x.w2f 0 4 != 8 || decide (x.a.val ≤ 30))
      && (x.w2f 5 1 == 1 || decide (x.aw.val < 2) || decide (x.d.val ≤ 30))
  | 2 =>
    Use.ok { ty := [13], rm := true, sat := true, d := true, a := true, b := true, w2 := 0xF } x && x.sat
      && isFlt (x.w2f 0 4) && (x.w2f 0 4 != 8 || decide (x.a.val ≤ 30))
  | 3 => Use.ok { ty := fltTys, d := true, a := true } x && (x.ty != 8 || decide (x.d.val ≤ 30))
  | 4 => Use.ok { ty := [5], d := true, w2 := 0x1F } x && decide (x.d.val ≤ 28)
  | _ => false

/-- VPERM (R174); the bounds by Ej are checked at issue. -/
def okVperm (sub : Nat) (x : XOp) : Bool :=
  let ty := intTys ++ fltTys
  match sub with
  | 0 => Use.ok { ty := ty, mask := true, d := true, a := true } x
  | 1 => Use.ok { ty := ty, mask := true, d := true, a := true, b := true } x
  | 2 => Use.ok { ty := ty, mask := true, d := true, a := true, w2 := 0xFFFFFFFF } x
  | 3 => Use.ok { ty := ty, mask := true, d := true, a := true, b := true, w2 := 0xFFFFFFFF } x
  | 4 | 5 => Use.ok { ty := ty, mask := true, d := true, a := true, b := true, w2 := 1 } x
  | 6 | 7 => Use.ok { ty := ty, mask := true, d := true, a := true, w2 := 0xFFFFFFFF } x
  | 8 | 9 => Use.ok { ty := ty, mask := true, d := true, a := true } x
  | _ => false

/-- VRED (R175). -/
def okVred (sub : Nat) (x : XOp) : Bool :=
  let f := isFlt x.ty.val
  let ty := intTys ++ fltTys
  match sub with
  | 0 => Use.ok { ty := ty, rm := f, sat := !f, mask := true, d := true, a := true } x
  | 1 | 2 => Use.ok { ty := ty, mask := true, d := true, a := true } x
  | 3 => Use.ok { ty := ty, rm := f, sat := !f, mask := true, d := true, a := true, b := true } x
  | _ => false

/-- VMEM (R176, R177). -/
def okVmem (sub : Nat) (x : XOp) : Bool :=
  let ty := 7 :: intTys ++ [8, 9, 10, 11, 12, 13, 14]
  match sub with
  | 0 => Use.ok { ty := ty, mask := true, wait := true, l := true, d := true } x
  | 1 => Use.ok { ty := ty, mask := true, wait := true, l := true, d := true, x := true, hist := true } x
  | 2 | 4 => Use.ok { ty := ty, mask := true, wait := true, d := true, a := true, w2 := 0xFFFFFFFF } x
  | 3 => Use.ok { ty := ty, mask := true, wait := true, d := true, a := true, x := true, hist := true, w2 := 0xFFFFFFFF } x
  | _ => false

/-- MATRIX (R180, R183, R190). -/
def okMatrix (sub : Nat) (x : XOp) : Bool :=
  match sub with
  | 0 => Use.ok { ty := [0, 2, 7, 13, 14, 15], wait := true, l := true, w2 := 1 } x
  | 1 => Use.ok { ty := [0, 2, 7, 15], wait := true, l := true, d := true, w2 := 0x101 } x && decide (x.d.val ≤ 3)
  | 2 => Use.ok { ty := [0, 2, 7, 15], wait := true, l := true, sat := true, d := true, w2 := 0x101 } x && decide (x.d.val ≤ 3)
  | 3 =>
    Use.ok { ty := [4, 6, 8], rm := true, wait := true, l := true, sat := true, x := true, hist := true, a := true, w2 := 0xFF } x && decide (x.a.val ≤ 3)
  | 4 => Use.ok { wait := true, w2 := 0xF } x
  | 5 => Use.ok { wait := true, w2 := 1 } x
  | 6 => Use.ok { wait := true } x
  | 7 =>
    Use.ok { ty := [8], rm := true, wait := true, l := true, sat := true, x := true, hist := true, a := true, w2 := 7 } x && decide (x.a.val + x.w2f 0 2 ≤ 3)
  | _ => false

/-- GANG and SPLIT take no guard (R64, R192, R193). -/
def okGang (sub : Nat) (x : XOp) : Bool :=
  x.h.g == Guard.none &&
  match sub with
  | 0 => Use.ok { a := true, w2 := 0xFFFFFFFF } x
  | 1 => Use.ok {} x
  | _ => false

/-- ATOMIC (R215). -/
def okAtomic (sub : Nat) (x : XOp) : Bool :=
  let ret := !x.x
  if sub ≤ 8 then
    Use.ok { ty := [4, 5, 6], wait := true, x := true, d := ret, a := true, b := true, w2 := 0xFFFFFFFF } x
  else if sub = 9 then
    Use.ok { ty := [4, 5, 6], wait := true, d := true, a := true, b := true, c := true, w2 := 0xFFFFFFFF } x
  else if sub = 10 then
    Use.ok { ty := fltTys, rm := true, wait := true, x := true, d := ret, a := true, b := true, w2 := 0xFFFFFFFF } x
  else false

/-- SYNC (R208); BAR takes no guard. -/
def okSync (sub : Nat) (x : XOp) : Bool :=
  match sub with
  | 0 | 1 => Use.ok { wait := true, d := true, a := true, b := true, w2 := 0xFFFFFFFF } x
  | 2 => Use.ok { w2 := 0xF } x && x.h.g == Guard.none
  | 3 => Use.ok { wait := true, w2 := 0xF } x
  | 4 => Use.ok { w2 := 0xF } x
  | 5 => Use.ok { wait := true, w2 := 0xFF } x
  | 6 => Use.ok { wait := true, a := true, b := true, w2 := 0xFFFFFFFF } x
  | _ => false

/-- ENGINE (R218, R219). -/
def okEngine (sub : Nat) (x : XOp) : Bool :=
  let ty := 7 :: intTys ++ [8, 9, 10, 11, 12, 14]
  match sub with
  | 0 => Use.ok { ty := ty, wait := true, l := true, x := true, c := x.x } x
  | 1 =>
    Use.ok { ty := ty, wait := true, l := true, x := true, c := x.x, w2 := 3 } x && x.w2f 0 2 != 0
      && x.w2f 0 2 != x.l.val
  | 2 | 3 => Use.ok { ty := ty, wait := true, l := true, x := true, b := true, c := x.x } x
  | 4 => Use.ok { ty := ty, wait := true, x := true, a := true, c := x.x, w2 := 0xF } x
  | _ => false

/-- The operands a micro-op reads: a, b, c (R260). -/
def microReads (op : Nat) : Bool × Bool × Bool :=
  match op with
  | 0 => (false, false, false)
  | 1 | 10 | 11 => (true, false, false)
  | 5 | 8 => (true, true, true)
  | _ => (true, true, false)

/-- Word 2 of SCOP (R262): reserved fields, CMUL's pairs, the header of R259. -/
def okScop (x : XOp) : Bool :=
  let op := x.w2f 28 4
  let c := x.w2f 24 4
  let b := x.w2f 20 4
  let a := x.w2f 16 4
  let t := x.w2f 13 3
  let pos := x.w2f 8 4
  if op ≤ 11 then
    let r := microReads op
    unless0 r.1 a && unless0 r.2.1 b && unless0 r.2.2 c && unless0 (op != 0) t
      && (op != 9 || (a % 2 == 0 && b % 2 == 0 && t % 2 == 0))
  else if op = 12 then
    t == 0 && pos == 0 && decide (1 ≤ a) && decide (a ≤ 4) && decide (1 ≤ b) && decide (b ≤ a) && c != 0
      && decide (c < 2 ^ a)
  else if op = 13 then a == 0 && b == 0 && c == 0 && pos == 0 && decide (t < 4)
  else false

/-- SCAN (R262, R274); RBAR takes no guard. -/
def okScan (sub : Nat) (x : XOp) : Bool :=
  match sub with
  | 0 => Use.ok { a := x.w2f 28 4 == 13, w2 := 0xFFFFEF07 } x && okScop x
  | 1 => Use.ok { ty := [8], rm := true, l := true, b := x.w2f 4 1 == 1, w2 := 0x1F } x
  | 2 => Use.ok { ty := [8], rm := true, l := true, b := x.w2f 4 1 == 1, w2 := 0x3F } x
  | 3 => Use.ok { w2 := 1 } x
  | 4 => Use.ok { w2 := 1 } x && x.h.g == Guard.none
  | 5 => Use.ok { d := true, w2 := 1 } x
  | _ => false

/-- LAW (R245, R246, R252). -/
def okLaw (sub : Nat) (x : XOp) : Bool :=
  let w := x.w2f 0 1 == 1
  match sub with
  | 0 | 3 =>
    Use.ok { ty := [8], rm := true, wait := true, d := true, a := true, w2 := 0xFFFF0001 } x && (!w || decide (x.d.val ≤ 30))
  | 1 => Use.ok { ty := [8], wait := true, a := true, b := true, c := w, w2 := 0xFFFFFF01 } x
  | 2 =>
    Use.ok { ty := [8], rm := true, wait := true, d := true, a := true, b := true, c := w, w2 := 0xFFFF0001 } x
      && (!w || decide (x.d.val ≤ 30))
  | 4 | 5 => Use.ok { wait := true, a := true, w2 := 0xFFFFFF00 } x
  | 6 => Use.ok { wait := true, a := true } x
  | 7 => Use.ok { wait := true, d := true } x
  | 8 => Use.ok { d := true, a := true, b := true, w2 := 2 } x
  | _ => false

/-- MSG (R294 to R296): SENDM's length limits are decode checks. -/
def okMsg (sub : Nat) (x : XOp) : Bool :=
  match sub with
  | 0 =>
    let len := x.w2f 16 10
    Use.ok { wait := true, a := true, b := true, c := true, w2 := 0x03FF077F } x && decide (len ≤ 1008)
      && (x.w2f 5 1 == 0 || (len % 4 == 0 && decide (4 ≤ len) && decide (len ≤ 256)))
  | 1 => Use.ok { wait := true, d := true, w2 := 3 } x && x.w2f 0 2 != 3
  | 2 | 3 => Use.ok { wait := true, w2 := 0xFF } x
  | _ => false

/-- ACTOR (R298 to R301). -/
def okActor (sub : Nat) (x : XOp) : Bool :=
  match sub with
  | 0 => Use.ok { wait := true, d := true, a := true, b := true } x
  | 1 => Use.ok { wait := true, a := true, b := true, w2 := 0x1F } x
  | 2 => Use.ok { wait := true, w2 := 0xFFFFFFFF } x
  | 3 => Use.ok { wait := true, a := true, w2 := 7 } x
  | 4 => Use.ok { wait := true, w2 := 0xFF } x
  | 5 => Use.ok { wait := true, a := true } x
  | _ => false

/-- TASK (R302, R304). -/
def okTask (sub : Nat) (x : XOp) : Bool :=
  match sub with
  | 0 => Use.ok { wait := true, d := true, a := true, b := true, c := true, w2 := 0x1F } x
  | 1 => Use.ok { wait := true, d := true, a := true, w2 := 0xF } x
  | _ => false

/-- A table handle keeps the limits of R310. -/
def handleOk (h : Nat) : Bool := h / 2 ^ 10 % 2 == 0 || (h / 8 % 8 == 0 && h / 2 ^ 9 % 2 == 0)

/-- NEAR (R311, R324, R325, R329). -/
def okNear (sub : Nat) (x : XOp) : Bool :=
  match sub with
  | 0 =>
    let n := x.w2f 0 7
    let e := x.w2f 8 7
    Use.ok { wait := true, a := true, w2 := 0x7F7F } x && decide (1 ≤ n) && decide (n ≤ 96) && decide (e + n ≤ 96)
  | 1 =>
    Use.ok { wait := true, a := true, b := true, w2 := 0xFFFFF87F } x && decide (x.w2f 0 7 ≤ 95) && x.w2f 12 20 % 16 == 0
  | 2 => Use.ok { wait := true, d := true } x
  | 3 => Use.ok { wait := true } x
  | 4 => Use.ok { ty := [4, 8, 9, 10], wait := true, l := true, b := true } x
  | 5 => Use.ok { ty := [3], wait := true, a := true, w2 := 0x7FF } x && handleOk (x.w2f 0 11)
  | 6 => Use.ok { ty := [3], wait := true, a := true, b := true, c := true, w2 := 0x7FF } x && handleOk (x.w2f 0 11)
  | _ => false

/-- DEBUG (R379). -/
def okDebug (sub : Nat) (x : XOp) : Bool :=
  match sub with
  | 0 => Use.ok { a := true, w2 := 3 } x
  | 1 | 3 => Use.ok { w2 := 0xF } x
  | 2 => Use.ok { a := true, b := true, w2 := 3 } x
  | 4 | 5 => Use.ok { a := true } x
  | 6 => Use.ok { d := true, w2 := 0x7F } x && decide (x.w2f 0 7 ≤ 69)
  | _ => false

/-- PRIV (R359). -/
def okPriv (sub : Nat) (x : XOp) : Bool :=
  match sub with
  | 0 | 1 => Use.ok { a := true, b := true, w2 := 0x3F } x
  | 2 => Use.ok { a := true, w2 := 3 } x && x.w2f 0 2 != 3
  | 3 => Use.ok { a := true, b := true } x
  | 4 => Use.ok { a := true, w2 := 3 } x && (x.w2f 0 2 == 1 || x.w2f 0 2 == 2)
  | 5 => Use.ok { a := true, w2 := 3 } x && x.w2f 0 2 != 3
  | _ => false

/-- The decode check of subop sub of class cls (R71, R74). -/
def xok (cls sub : Nat) (x : XOp) : Bool :=
  match cls with
  | 1 => okVarith sub x
  | 2 => okVlogic sub x
  | 3 => okVcmp sub x
  | 4 => okVcvt sub x
  | 5 => okVperm sub x
  | 6 => okVred sub x
  | 7 => okVmem sub x
  | 8 => okMatrix sub x
  | 9 => okGang sub x
  | 10 => okAtomic sub x
  | 11 => okSync sub x
  | 12 => okEngine sub x
  | 13 => okScan sub x
  | 14 => okLaw sub x
  | 15 => okMsg sub x
  | 16 => okActor sub x
  | 17 => okTask sub x
  | 18 => okNear sub x
  | 19 => okDebug sub x
  | 20 => okPriv sub x
  | _ => false

/-! ### The NMU's words (20_nearmem.md R317, R318) -/

/-- A register number of the NMU. -/
def nreg (r : Fin 32) : Bool := r.val ≤ 23

/-- What an NA instruction uses: rounding (a float type), sat (an integer type), b as a register, and the bound of x. -/
def NaF.ok (x : NaF) (rm sat breg : Bool) (xlim : Nat) : Bool :=
  decide (x.ty.val ≤ 5) && nreg x.d && nreg x.a && (if breg then nreg x.b else true)
    && (if rm && decide (3 ≤ x.ty.val) then decide (x.rm.val ≤ 4) else x.rm == 0)
    && (!x.sat || (sat && decide (x.ty.val ≤ 2))) && decide (x.x.val < xlim)

/-- NCVT: rm is used throughout, sat for integer destinations, b holds the source type. -/
def NaF.cvtOk (x : NaF) : Bool :=
  decide (x.ty.val ≤ 5) && nreg x.d && nreg x.a && decide (x.b.val ≤ 5) && decide (x.rm.val ≤ 4)
    && (!x.sat || decide (x.ty.val ≤ 2)) && x.x == 0

/-- NRED: only the float sum rounds, and only the integer sum saturates. -/
def NaF.redOk (x : NaF) : Bool :=
  decide (x.ty.val ≤ 5) && nreg x.d && nreg x.a && x.b == 0
    && (if x.x == 0 && decide (3 ≤ x.ty.val) then decide (x.rm.val ≤ 4) else x.rm == 0)
    && (!x.sat || (x.x == 0 && decide (x.ty.val ≤ 2))) && decide (x.x.val ≤ 2)

/-- NLDR, NSTR, NPUSH. -/
def NmF.ok (x : NmF) : Bool := nreg x.d && x.mode == 0 && x.rm == 0

/-- The checks an encoding of the table's instruction passes; an event has none. -/
def Instr.wf : Instr → Bool
  | .add x | .sub x | .min x | .max x | .and x | .or x | .xor x | .andn x | .shl x | .shr x | .sra x | .rotr x | .mul x
  | .mulhs x | .mulhu x | .mulhsu x | .divs x | .divu x | .rems x | .remu x | .minu x | .maxu x | .absd x | .fminF32 x
  | .fmaxF32 x | .fcpsF32 x | .fminF16 x | .fmaxF16 x | .fcpsF16 x | .fminBf16 x | .fmaxBf16 x | .fcpsBf16 x => x.h.g.ok
  | .clz x | .ctz x | .popc x | .brev x => x.h.g.ok
  | .addi x | .andi x | .ori x | .xori x => x.g.ok
  | .shli x | .shri x | .srai x | .shliLit x | .shriLit x | .sraiLit x => x.g.ok
  | .lis x => x.g.ok
  | .addiLit x | .andiLit x | .oriLit x | .xoriLit x => x.g.ok
  | .lisLit x => x.g.ok
  | .cmp x => x.ok 12
  | .cmpi x => x.g.ok && decide (x.cond.val < 12) && pairOk x.pd x.pe
  | .cmpiLit x => x.g.ok && decide (x.cond.val < 12) && pairOk x.pd x.pe
  | .fcmpF32 x | .fcmpF16 x | .fcmpBf16 x => x.ok 8
  | .plog x => x.h.g.ok && pairOk x.pd x.pe
  | .faddF32 x | .fsubF32 x | .fmulF32 x | .fmacF32 x | .faddF16 x | .fsubF16 x | .fmulF16 x | .fmacF16 x | .faddBf16 x
  | .fsubBf16 x | .fmulBf16 x | .fmacBf16 x | .fmscF32 x | .fmscF16 x | .fmscBf16 x => x.h.g.ok && x.rm != 6
  | .fcvt x => x.ok
  | .sel x => x.h.g.ok
  | .pget x | .pput x => x.h.g.ok
  | .ldb x | .ldh x | .ldw x | .ldd x | .ldbu x | .ldhu x | .ldwu x | .stb x | .sth x | .stw x | .std x => x.g.ok
  | .ldbLit x | .ldhLit x | .ldwLit x | .lddLit x | .ldbuLit x | .ldhuLit x | .ldwuLit x | .stbLit x | .sthLit x
  | .stwLit x | .stdLit x => x.g.ok
  | .br x | .brl x => x.g.ok
  | .brLit x | .brlLit x => x.g.ok
  | .jr x => x.h.g.ok
  | .loop x => decide (2 ≤ x.off.toInt)
  | .nop x | .endAct x | .yield x => x.h.g.ok
  | .trap x | .brk x | .pause x => x.h.g.ok
  | .eret _ | .fencei _ | .join _ => true
  | .getc x | .putc x => x.h.g.ok && ctlIndexOk x.idx.val
  | .fork x => x.h.g.ok
  | .vadd x => xok 1 0 x
  | .vsub x => xok 1 1 x
  | .vmul x => xok 1 2 x
  | .vfma x => xok 1 3 x
  | .vfms x => xok 1 4 x
  | .vmin x => xok 1 5 x
  | .vmax x => xok 1 6 x
  | .vabs x => xok 1 7 x
  | .vneg x => xok 1 8 x
  | .vabsd x => xok 1 9 x
  | .vmulh x => xok 1 10 x
  | .vdiv x => xok 1 11 x
  | .vsqrt x => xok 1 12 x
  | .vscl x => xok 1 13 x
  | .vand x => xok 2 0 x
  | .vor x => xok 2 1 x
  | .vxor x => xok 2 2 x
  | .vandn x => xok 2 3 x
  | .vnot x => xok 2 4 x
  | .vshl x => xok 2 5 x
  | .vshr x => xok 2 6 x
  | .vsra x => xok 2 7 x
  | .vrotr x => xok 2 8 x
  | .vpopc x => xok 2 9 x
  | .vclz x => xok 2 10 x
  | .vceq x => xok 3 0 x
  | .vcne x => xok 3 1 x
  | .vclt x => xok 3 2 x
  | .vcle x => xok 3 3 x
  | .vcgt x => xok 3 4 x
  | .vcge x => xok 3 5 x
  | .vcun x => xok 3 6 x
  | .vclass x => xok 3 7 x
  | .vsel x => xok 3 8 x
  | .vmand x => xok 3 9 x
  | .vmor x => xok 3 10 x
  | .vmxor x => xok 3 11 x
  | .vmnot x => xok 3 12 x
  | .vmtos x => xok 3 13 x
  | .vstom x => xok 3 14 x
  | .vcvt x => xok 4 0 x
  | .valign x => xok 4 1 x && x.w2f 5 1 == 0
  | .valignp x => xok 4 1 x && x.w2f 5 1 == 1
  | .vpke2 x => xok 4 2 x
  | .vunpe2 x => xok 4 3 x
  | .vhist x => xok 4 4 x
  | .vbcast x => xok 5 0 x
  | .vshuf x => xok 5 1 x
  | .vrot x => xok 5 2 x
  | .vslide x => xok 5 3 x
  | .vzip x => xok 5 4 x
  | .vunzip x => xok 5 5 x
  | .vins x => xok 5 6 x
  | .vextr x => xok 5 7 x
  | .vcomp x => xok 5 8 x
  | .vexpd x => xok 5 9 x
  | .vrsum x => xok 6 0 x
  | .vrmin x => xok 6 1 x
  | .vrmax x => xok 6 2 x
  | .vrdot x => xok 6 3 x
  | .vld x => xok 7 0 x
  | .vst x => xok 7 1 x
  | .vldr x => xok 7 2 x
  | .vstr x => xok 7 3 x
  | .vldbc x => xok 7 4 x
  | .mldb x => xok 8 0 x
  | .mmul x => xok 8 1 x
  | .mmac x => xok 8 2 x
  | .mrd x => xok 8 3 x
  | .mclr x => xok 8 4 x
  | .mshr x => xok 8 5 x
  | .mrel x => xok 8 6 x
  | .vscalc x => xok 8 7 x
  | .gang x => xok 9 0 x
  | .split x => xok 9 1 x
  | .aadd x => xok 10 0 x && !x.x
  | .aand x => xok 10 1 x && !x.x
  | .aor x => xok 10 2 x && !x.x
  | .axor x => xok 10 3 x && !x.x
  | .amin x => xok 10 4 x && !x.x
  | .amax x => xok 10 5 x && !x.x
  | .aminu x => xok 10 6 x && !x.x
  | .amaxu x => xok 10 7 x && !x.x
  | .aswap x => xok 10 8 x && !x.x
  | .acas x => xok 10 9 x
  | .afadd x => xok 10 10 x && !x.x
  | .aaddp x => xok 10 0 x && x.x
  | .aandp x => xok 10 1 x && x.x
  | .aorp x => xok 10 2 x && x.x
  | .axorp x => xok 10 3 x && x.x
  | .aminp x => xok 10 4 x && x.x
  | .amaxp x => xok 10 5 x && x.x
  | .aminup x => xok 10 6 x && x.x
  | .amaxup x => xok 10 7 x && x.x
  | .aswapp x => xok 10 8 x && x.x
  | .afaddp x => xok 10 10 x && x.x
  | .expect x => xok 11 0 x
  | .waitg x => xok 11 1 x
  | .bar x => xok 11 2 x
  | .bararr x => xok 11 3 x
  | .barwt x => xok 11 4 x
  | .qfence x => xok 11 5 x
  | .swinit x => xok 11 6 x
  | .send x => xok 12 0 x
  | .sendl x => xok 12 1 x
  | .gath x => xok 12 2 x
  | .scat x => xok 12 3 x
  | .treduce x => xok 12 4 x
  | .scop x => xok 13 0 x && decide (x.w2f 28 4 ≤ 11)
  | .scophdr x => xok 13 0 x && x.w2f 28 4 == 12
  | .scopid x => xok 13 0 x && x.w2f 28 4 == 13
  | .scan x => xok 13 1 x
  | .scanc x => xok 13 2 x
  | .ride x => xok 13 3 x
  | .rbar x => xok 13 4 x
  | .scwait x => xok 13 5 x
  | .lld x => xok 14 0 x
  | .lst x => xok 14 1 x
  | .ladd x => xok 14 2 x
  | .lreb x => xok 14 3 x
  | .lset x => xok 14 4 x
  | .lget x => xok 14 5 x
  | .ltick x => xok 14 6 x
  | .lnow x => xok 14 7 x
  | .lreg x => xok 14 8 x && x.w2f 1 1 == 0
  | .lregf x => xok 14 8 x && x.w2f 1 1 == 1
  | .sendm x => xok 15 0 x
  | .mbox x => xok 15 1 x
  | .maskc x => xok 15 2 x
  | .unmc x => xok 15 3 x
  | .spawn x => xok 16 0 x
  | .hset x => xok 16 1 x
  | .hclr x => xok 16 2 x
  | .wset x => xok 16 3 x
  | .wclr x => xok 16 4 x
  | .adest x => xok 16 5 x
  | .launch x => xok 17 0 x
  | .widf x => xok 17 1 x
  | .nmld x => xok 18 0 x
  | .nmrun x => xok 18 1 x
  | .nmwait x => xok 18 2 x
  | .nmfence x => xok 18 3 x
  | .nmred x => xok 18 4 x
  | .tld x => xok 18 5 x
  | .tq x => xok 18 6 x
  | .dbset x => xok 19 0 x
  | .dbclr x => xok 19 1 x
  | .dwset x => xok 19 2 x
  | .dwclr x => xok 19 3 x
  | .trmark x => xok 19 4 x
  | .trctl x => xok 19 5 x
  | .dacc x => xok 19 6 x
  | .ctxsv x => xok 20 0 x
  | .ctxld x => xok 20 1 x
  | .tlbinv x => xok 20 2 x
  | .clrset x => xok 20 3 x
  | .ltmode x => xok 20 4 x
  | .crset x => xok 20 5 x
  | .nldr x | .nstr x | .npush x => x.ok
  | .nldi x => decide (x.ty.val ≤ 5) && nreg x.d
  | .nadd x | .nsub x | .nmul x => x.ok true true true 1
  | .nfma x => x.ok true true true 1
  | .nmin x | .nmax x => x.ok false false true 1
  | .ncmp x => x.ok false false true 6
  | .nsel x | .nand x | .nor x | .nxor x => x.ok false false true 1
  | .nshf x => x.ok false false false 3
  | .ncvt x => x.cvtOk
  | .nlaw x => nreg x.d && decide (x.mode.val ≤ 1) && decide (x.rm.val ≤ 4)
  | .ntq x => nreg x.d && nreg x.a && handleOk x.handle.toNat
  | .nred x => x.redOk
  | .nloop0 x | .nloop1 x => decide (1 ≤ x.len.toNat) && decide (x.len.toNat ≤ 95)
  | .nadda _ | .nend => true
  | .nmuRunEnd | .nmuParityReload | .nmuClearingRequest | .packageReset _ | .bringupComplete | .groveReset
  | .domainBringup _ | .linkResend _ | .fabricPortFailure _ | .pairMove _ _ | .codeLoad _ _ | .allocate _ | .free _ _
  | .writeRequest _ _ _ | .readRequest _ _ _ | .launchRequest _ | .waitRequest _ _ | .evictRequest _ _ | .attestRequest _ _
  | .setCapRequest _ | .debugStopRequest | .debugStepRequest | .debugRunRequest | .debugRegisterWrite _ _ | .whitWrite _
  | .mgmtInstruction _ | .overflowRingFeed _ | .messageDispatch _ _ | .taskDispatch _ | .retryDispatch | .placerAnswer _
  | .gangJoin _ | .gangTimeout | .deferredTrap | .kill _ | .preemption | .contextSaveDone | .actorReload _ _ _
  | .launchCompletion _ | .remoteStoreArrival _ | .remoteLoadArrival _ | .atomicArrival _ | .pushFlitArrival _
  | .messageHeaderArrival _ | .messageLastFlit _ _ | .roomNotice _ | .unlistedRetry _ | .ackReturn _ | .loadDataReturn _
  | .nackReturn _ _ | .treeRoundTotal _ _ | .rideCarryArrival _ _ _ | .rbarRelease _ _ | .barrierRelease _ | .barrierTimeout _
  | .waitgTimeout | .commandCommit _ | .commandReplay _ | .walkComplete _ | .clearingRefill | .clearingGrant
  | .lawnowAdvance | .sweeperVisit _ | .crossingSearchEnd | .dramRefresh _ | .targetedRefresh _ _ | .debugStop
  | .stepHoldTimeout | .traceDrain _ | .grovePowerGate | .groveWake | .illegalEncoding _ | .destroyRequest _ _
  | .gatherRowLanding _ | .failedBankMarkClear _ => true

end Sys2Proof
end

