-- ==== Sys2Proof/Decode.lean ====
section
/-!
DEFINITION. From words to instructions and back (04_formats.md R61 to R76; 20_nearmem.md R317, R318). decode is total and
rejects by name; encode writes the words of an instruction from the same tables.
-/
namespace Sys2Proof

/-! ### Bit fields -/

/-- The fields of a number, the lowest first, of the given widths. -/
def unpackF : List Nat → Nat → List Nat
  | [], _ => []
  | w :: ws, n => n % 2 ^ w :: unpackF ws (n / 2 ^ w)

/-- The number of fields given with their widths, the lowest first. -/
def packF : List (Nat × Nat) → Nat
  | [] => 0
  | (w, v) :: t => v % 2 ^ w + 2 ^ w * packF t

/-- The widths of a list of fields. -/
def widths (l : List (Nat × Nat)) : List Nat := l.map Prod.fst

/-- Reading back what was packed gives every field, cut to its width. -/
theorem unpackF_packF (l : List (Nat × Nat)) : unpackF (widths l) (packF l) = l.map fun f => f.2 % 2 ^ f.1 := by
  induction l with
  | nil => rfl
  | cons f t ih =>
    obtain ⟨w, v⟩ := f
    have h : v % 2 ^ w < 2 ^ w := Nat.mod_lt _ (Nat.two_pow_pos w)
    simp only [widths] at ih
    simp only [widths, List.map_cons, unpackF, packF, Nat.add_mul_mod_self_left, Nat.mod_mod,
      Nat.add_mul_div_left _ _ (Nat.two_pow_pos w), Nat.div_eq_of_lt h, Nat.zero_add, ih]

/-- A guard from its four bits (R64). -/
def guardOf (n : Nat) : Guard := { neg := n / 8 % 2 == 1, p := Fin.ofNat 8 n }

/-- The four bits of a guard. -/
def Guard.bits (g : Guard) : Nat := g.p.val + (if g.neg then 8 else 0)

/-- A Boolean as a bit. -/
def bit (b : Bool) : Nat := if b then 1 else 0

/-! ### What decoding answers -/

/-- Why words are no instruction. -/
inductive Reject where
  /-- Fewer words than the first one asks for (R61). -/
  | tooShort
  /-- An encoding of R76 that is no instruction, or a field against its table. -/
  | illegal
deriving DecidableEq, Repr

/-- The number of words of an instruction, from its first word (R61). -/
def wordsOf (w0 : Nat) : Nat :=
  match w0 % 4 with
  | 0 => 1
  | 1 => 3
  | 2 => 3
  | _ => 5

/-! ### The 32-bit forms (R66 to R69) -/

/-- A 32-bit form with its layout field apart: major, guard, literal and bits [31:12]. -/
structure Raw where
  maj : Nat
  g : Guard
  lit : Option Word
  body : Nat
deriving DecidableEq, Repr

/-- The header of a form whose literal is ignored (R63). -/
def Raw.hdr (r : Raw) : Hdr := { g := r.g, lit := r.lit }

/-- Five-bit register numbers and other small fields. -/
def f32 (n : Nat) : Fin 32 := Fin.ofNat 32 n
/-- A three-bit field. -/
def f8 (n : Nat) : Fin 8 := Fin.ofNat 8 n
/-- A two-bit field. -/
def f4 (n : Nat) : Fin 4 := Fin.ofNat 4 n
/-- A four-bit field. -/
def f16 (n : Nat) : Fin 16 := Fin.ofNat 16 n

/-- Layout A3 without a rounding mode. -/
def rawA3 (r : Raw) (k : Nat → A3 → Option Instr) : Option Instr :=
  match unpackF [5, 5, 5, 2, 3] r.body with
  | [d, a, b, f, rm] => if rm = 0 then k f { h := r.hdr, d := f32 d, a := f32 a, b := f32 b } else none
  | _ => none

/-- Layout A3 with b and rm reserved. -/
def rawA2 (r : Raw) (k : Nat → A2 → Option Instr) : Option Instr :=
  match unpackF [5, 5, 5, 2, 3] r.body with
  | [d, a, b, f, rm] => if rm = 0 ∧ b = 0 then k f { h := r.hdr, d := f32 d, a := f32 a } else none
  | _ => none

/-- Layout A3 with a rounding mode in f = 0 to 3 as sel says, and none otherwise. -/
def rawFA3 (r : Raw) (k : Nat → FA3 → Option Instr) : Option Instr :=
  match unpackF [5, 5, 5, 2, 3] r.body with
  | [d, a, b, f, rm] => k f { h := r.hdr, rm := f8 rm, d := f32 d, a := f32 a, b := f32 b }
  | _ => none

/-- An FA3 whose rm is reserved. -/
def FA3.plain (x : FA3) (k : A3 → Instr) : Option Instr :=
  if x.rm = 0 then some (k { h := x.h, d := x.d, a := x.a, b := x.b }) else none

/-- Layout AI. -/
def rawAI (r : Raw) (k : AiF → Instr) (kl : AiL → Instr) : Option Instr :=
  match unpackF [5, 5, 10] r.body with
  | [d, a, imm] =>
    match r.lit with
    | none => some (k { g := r.g, d := f32 d, a := f32 a, imm := BitVec.ofNat 10 imm })
    | some l => if imm = 0 then some (kl { g := r.g, d := f32 d, a := f32 a, imm := l }) else none
  | _ => none

/-- Layout AI of the shifts. -/
def rawSh (r : Raw) (k kl : ShF → Instr) : Option Instr :=
  match unpackF [5, 5, 6, 4] r.body with
  | [d, a, cnt, z] =>
    match r.lit with
    | none => if z = 0 then some (k { g := r.g, d := f32 d, a := f32 a, cnt := Fin.ofNat 64 cnt }) else none
    | some l =>
      if z = 0 ∧ cnt = 0 ∧ l.toNat < 64 then some (kl { g := r.g, d := f32 d, a := f32 a, cnt := Fin.ofNat 64 l.toNat })
      else none
  | _ => none

/-- Layout LI. -/
def rawLI (r : Raw) : Option Instr :=
  match unpackF [5, 15] r.body with
  | [d, imm] =>
    match r.lit with
    | none => some (.lis { g := r.g, d := f32 d, imm := BitVec.ofNat 15 imm })
    | some l => if imm = 0 then some (.lisLit { g := r.g, d := f32 d, imm := l }) else none
  | _ => none

/-- Layout CMP. -/
def rawCmp (r : Raw) (k : CmpF → Instr) : Option Instr :=
  match unpackF [3, 3, 5, 5, 4] r.body with
  | [pd, pe, a, b, cond] => some (k { h := r.hdr, cond := f16 cond, pd := f8 pd, pe := f8 pe, a := f32 a, b := f32 b })
  | _ => none

/-- Layout CI. -/
def rawCI (r : Raw) : Option Instr :=
  match unpackF [3, 3, 5, 5, 4] r.body with
  | [pd, pe, a, imm, cond] =>
    match r.lit with
    | none =>
      some (.cmpi { g := r.g, cond := f16 cond, pd := f8 pd, pe := f8 pe, a := f32 a, imm := BitVec.ofNat 5 imm })
    | some l =>
      if imm = 0 then some (.cmpiLit { g := r.g, cond := f16 cond, pd := f8 pd, pe := f8 pe, a := f32 a, imm := l }) else none
  | _ => none

/-- Layout PL. -/
def rawPL (r : Raw) : Option Instr :=
  match unpackF [3, 3, 3, 3, 4, 4] r.body with
  | [pd, pe, pa, pb, tt, z] =>
    if z = 0 then some (.plog { h := r.hdr, tt := f16 tt, pd := f8 pd, pe := f8 pe, pa := f8 pa, pb := f8 pb }) else none
  | _ => none

/-- Layout SL. -/
def rawSL (r : Raw) : Option Instr :=
  match unpackF [5, 5, 5, 3, 2] r.body with
  | [d, a, b, ps, z] => if z = 0 then some (.sel { h := r.hdr, ps := f8 ps, d := f32 d, a := f32 a, b := f32 b }) else none
  | _ => none

/-- Layout PM. -/
def rawPM (r : Raw) : Option Instr :=
  match unpackF [5, 1, 14] r.body with
  | [d, dir, z] =>
    if z = 0 then some (if dir = 1 then .pput { h := r.hdr, d := f32 d } else .pget { h := r.hdr, d := f32 d }) else none
  | _ => none

/-- Layout CV. -/
def rawCV (r : Raw) : Option Instr :=
  match unpackF [5, 5, 3, 3, 1, 3] r.body with
  | [d, a, fr, dt, sat, rm] =>
    some (.fcvt { h := r.hdr, rm := f8 rm, sat := sat == 1, dst := f8 dt, src := f8 fr, d := f32 d, a := f32 a })
  | _ => none

/-- Layout MEM. -/
def rawMem (r : Raw) (k : MemF → Instr) (kl : MemL → Instr) : Option Instr :=
  match unpackF [5, 5, 8, 2] r.body with
  | [d, a, off, w] =>
    match r.lit with
    | none => some (k { g := r.g, wait := f4 w, off := BitVec.ofNat 8 off, a := f32 a, d := f32 d })
    | some l => if off = 0 then some (kl { g := r.g, wait := f4 w, off := l, a := f32 a, d := f32 d }) else none
  | _ => none

/-- Layout BR. -/
def rawBR (r : Raw) (k : BrF → Instr) (kl : BrL → Instr) : Option Instr :=
  match r.lit with
  | none => some (k { g := r.g, off := BitVec.ofNat 20 r.body })
  | some l => if r.body = 0 then some (kl { g := r.g, target := l }) else none

/-- Layout JR. -/
def rawJR (r : Raw) : Option Instr :=
  match unpackF [5, 5, 10] r.body with
  | [d, a, z] => if z = 0 then some (.jr { h := r.hdr, d := f32 d, a := f32 a }) else none
  | _ => none

/-- Layout LP. -/
def rawLP (r : Raw) : Option Instr :=
  match unpackF [2, 3, 5, 10] r.body with
  | [lc, z, a, off] =>
    if z = 0 ∧ r.g = Guard.none then some (.loop { lit := r.lit, lc := f4 lc, a := f32 a, off := BitVec.ofNat 10 off })
    else none
  | _ => none

/-- Layout CR. -/
def rawCR (r : Raw) (k : CrF → Instr) : Option Instr :=
  match unpackF [5, 12, 3] r.body with
  | [d, idx, z] => if z = 0 then some (k { h := r.hdr, idx := Fin.ofNat 4096 idx, d := f32 d }) else none
  | _ => none

/-- Layout FK of FORK. -/
def rawFork (r : Raw) : Option Instr :=
  match unpackF [5, 15] r.body with
  | [a, off] => some (.fork { h := r.hdr, a := f32 a, off := BitVec.ofNat 15 off })
  | _ => none

/-- Layout FK of JOIN. -/
def rawJoin (r : Raw) : Option Instr :=
  match unpackF [5, 15] r.body with
  | [a, off] => if r.g = Guard.none then some (.join { lit := r.lit, a := f32 a, off := BitVec.ofNat 15 off }) else none
  | _ => none

/-- Layout SYS (R69). -/
def rawSys (r : Raw) : Option Instr :=
  match unpackF [8, 12] r.body with
  | [f, imm] =>
    let z (i : Instr) : Option Instr := if imm = 0 then some i else none
    match f with
    | 0 => z (.nop { h := r.hdr })
    | 1 => z (.endAct { h := r.hdr })
    | 2 => z (.yield { h := r.hdr })
    | 3 => some (.trap { h := r.hdr, imm := BitVec.ofNat 12 imm })
    | 4 => if r.g = Guard.none then z (.eret { lit := r.lit }) else none
    | 5 => some (.brk { h := r.hdr, imm := BitVec.ofNat 12 imm })
    | 6 => some (.pause { h := r.hdr, imm := BitVec.ofNat 12 imm })
    | 7 => if r.g = Guard.none then z (.fencei { lit := r.lit }) else none
    | _ => none
  | _ => none

/-- The major map (R68). -/
def ofRaw (r : Raw) : Option Instr :=
  match r.maj with
  | 0x01 => rawA3 r fun f x => match f with | 0 => some (.add x) | 1 => some (.sub x) | 2 => some (.min x) | _ => some (.max x)
  | 0x02 => rawA3 r fun f x => match f with | 0 => some (.and x) | 1 => some (.or x) | 2 => some (.xor x) | _ => some (.andn x)
  | 0x03 => rawA3 r fun f x => match f with | 0 => some (.shl x) | 1 => some (.shr x) | 2 => some (.sra x) | _ => some (.rotr x)
  | 0x04 =>
    rawA3 r fun f x => match f with | 0 => some (.mul x) | 1 => some (.mulhs x) | 2 => some (.mulhu x) | _ => some (.mulhsu x)
  | 0x05 => rawA3 r fun f x => match f with | 0 => some (.divs x) | 1 => some (.divu x) | 2 => some (.rems x) | _ => some (.remu x)
  | 0x06 => rawA3 r fun f x => match f with | 0 => some (.minu x) | 1 => some (.maxu x) | 2 => some (.absd x) | _ => none
  | 0x07 => rawA2 r fun f x => match f with | 0 => some (.clz x) | 1 => some (.ctz x) | 2 => some (.popc x) | _ => some (.brev x)
  | 0x08 => rawAI r .addi .addiLit
  | 0x09 => rawAI r .andi .andiLit
  | 0x0A => rawAI r .ori .oriLit
  | 0x0B => rawAI r .xori .xoriLit
  | 0x0C => rawSh r .shli .shliLit
  | 0x0D => rawSh r .shri .shriLit
  | 0x0E => rawSh r .srai .sraiLit
  | 0x0F => rawLI r
  | 0x10 => rawCmp r .cmp
  | 0x11 => rawCI r
  | 0x12 => rawCmp r .fcmpF32
  | 0x13 => rawCmp r .fcmpF16
  | 0x14 => rawCmp r .fcmpBf16
  | 0x15 => rawPL r
  | 0x16 =>
    rawFA3 r fun f x =>
      match f with | 0 => some (.faddF32 x) | 1 => some (.fsubF32 x) | 2 => some (.fmulF32 x) | _ => some (.fmacF32 x)
  | 0x17 =>
    rawFA3 r fun f x =>
      match f with | 0 => x.plain .fminF32 | 1 => x.plain .fmaxF32 | 2 => some (.fmscF32 x) | _ => x.plain .fcpsF32
  | 0x18 =>
    rawFA3 r fun f x =>
      match f with | 0 => some (.faddF16 x) | 1 => some (.fsubF16 x) | 2 => some (.fmulF16 x) | _ => some (.fmacF16 x)
  | 0x19 =>
    rawFA3 r fun f x =>
      match f with | 0 => x.plain .fminF16 | 1 => x.plain .fmaxF16 | 2 => some (.fmscF16 x) | _ => x.plain .fcpsF16
  | 0x1A =>
    rawFA3 r fun f x =>
      match f with | 0 => some (.faddBf16 x) | 1 => some (.fsubBf16 x) | 2 => some (.fmulBf16 x) | _ => some (.fmacBf16 x)
  | 0x1B =>
    rawFA3 r fun f x =>
      match f with | 0 => x.plain .fminBf16 | 1 => x.plain .fmaxBf16 | 2 => some (.fmscBf16 x) | _ => x.plain .fcpsBf16
  | 0x1C => rawCV r
  | 0x1D => rawSL r
  | 0x1E => rawPM r
  | 0x20 => rawMem r .ldb .ldbLit
  | 0x21 => rawMem r .ldh .ldhLit
  | 0x22 => rawMem r .ldw .ldwLit
  | 0x23 => rawMem r .ldd .lddLit
  | 0x24 => rawMem r .ldbu .ldbuLit
  | 0x25 => rawMem r .ldhu .ldhuLit
  | 0x26 => rawMem r .ldwu .ldwuLit
  | 0x28 => rawMem r .stb .stbLit
  | 0x29 => rawMem r .sth .sthLit
  | 0x2A => rawMem r .stw .stwLit
  | 0x2B => rawMem r .std .stdLit
  | 0x30 => rawBR r .br .brLit
  | 0x31 => rawBR r .brl .brlLit
  | 0x32 => rawJR r
  | 0x33 => rawLP r
  | 0x34 => rawSys r
  | 0x35 => rawCR r .getc
  | 0x36 => rawCR r .putc
  | 0x37 => rawFork r
  | 0x38 => rawJoin r
  | _ => none

/-! The encoder's half: layout fields of [31:12]. -/

/-- The body of layout A3. -/
def bodyA3 (f rm d a b : Nat) : Nat := packF [(5, d), (5, a), (5, b), (2, f), (3, rm)]

/-- Raw form of an A3 instruction. -/
def A3.raw (x : A3) (maj f : Nat) : Option Raw := some { maj := maj, g := x.h.g, lit := x.h.lit, body := bodyA3 f 0 x.d x.a x.b }
/-- Raw form of an A2 instruction. -/
def A2.raw (x : A2) (maj f : Nat) : Option Raw := some { maj := maj, g := x.h.g, lit := x.h.lit, body := bodyA3 f 0 x.d x.a 0 }
/-- Raw form of a rounding A3 instruction. -/
def FA3.raw (x : FA3) (maj f : Nat) : Option Raw :=
  some { maj := maj, g := x.h.g, lit := x.h.lit, body := bodyA3 f x.rm x.d x.a x.b }
/-- Raw form of an AI instruction. -/
def AiF.raw (x : AiF) (maj : Nat) : Option Raw :=
  some { maj := maj, g := x.g, lit := none, body := packF [(5, x.d), (5, x.a), (10, x.imm.toNat)] }
/-- Raw form of an AI instruction with a literal. -/
def AiL.raw (x : AiL) (maj : Nat) : Option Raw :=
  some { maj := maj, g := x.g, lit := some x.imm, body := packF [(5, x.d), (5, x.a), (10, 0)] }
/-- Raw form of a shift by an immediate. -/
def ShF.raw (x : ShF) (maj : Nat) : Option Raw :=
  some { maj := maj, g := x.g, lit := none, body := packF [(5, x.d), (5, x.a), (6, x.cnt), (4, 0)] }
/-- Raw form of a shift by a literal count. -/
def ShF.rawLit (x : ShF) (maj : Nat) : Option Raw :=
  some { maj := maj, g := x.g, lit := some (BitVec.ofNat 64 x.cnt), body := packF [(5, x.d), (5, x.a), (6, 0), (4, 0)] }
/-- Raw form of a compare. -/
def CmpF.raw (x : CmpF) (maj : Nat) : Option Raw :=
  some { maj := maj, g := x.h.g, lit := x.h.lit, body := packF [(3, x.pd), (3, x.pe), (5, x.a), (5, x.b), (4, x.cond)] }
/-- Raw form of a load or store. -/
def MemF.raw (x : MemF) (maj : Nat) : Option Raw :=
  some { maj := maj, g := x.g, lit := none, body := packF [(5, x.d), (5, x.a), (8, x.off.toNat), (2, x.wait)] }
/-- Raw form of a load or store with a literal offset. -/
def MemL.raw (x : MemL) (maj : Nat) : Option Raw :=
  some { maj := maj, g := x.g, lit := some x.off, body := packF [(5, x.d), (5, x.a), (8, 0), (2, x.wait)] }
/-- Raw form of a SYS function. -/
def rawOfSys (g : Guard) (lit : Option Word) (f imm : Nat) : Option Raw :=
  some { maj := 0x34, g := g, lit := lit, body := packF [(8, f), (12, imm)] }

/-- The 32-bit form of an instruction. -/
def toRaw : Instr → Option Raw
  | .add x => x.raw 1 0
  | .sub x => x.raw 1 1
  | .min x => x.raw 1 2
  | .max x => x.raw 1 3
  | .and x => x.raw 2 0
  | .or x => x.raw 2 1
  | .xor x => x.raw 2 2
  | .andn x => x.raw 2 3
  | .shl x => x.raw 3 0
  | .shr x => x.raw 3 1
  | .sra x => x.raw 3 2
  | .rotr x => x.raw 3 3
  | .mul x => x.raw 4 0
  | .mulhs x => x.raw 4 1
  | .mulhu x => x.raw 4 2
  | .mulhsu x => x.raw 4 3
  | .divs x => x.raw 5 0
  | .divu x => x.raw 5 1
  | .rems x => x.raw 5 2
  | .remu x => x.raw 5 3
  | .minu x => x.raw 6 0
  | .maxu x => x.raw 6 1
  | .absd x => x.raw 6 2
  | .clz x => x.raw 7 0
  | .ctz x => x.raw 7 1
  | .popc x => x.raw 7 2
  | .brev x => x.raw 7 3
  | .addi x => x.raw 8
  | .andi x => x.raw 9
  | .ori x => x.raw 0xA
  | .xori x => x.raw 0xB
  | .shli x => x.raw 0xC
  | .shri x => x.raw 0xD
  | .srai x => x.raw 0xE
  | .lis x => some { maj := 0xF, g := x.g, lit := none, body := packF [(5, x.d), (15, x.imm.toNat)] }
  | .addiLit x => x.raw 8
  | .andiLit x => x.raw 9
  | .oriLit x => x.raw 0xA
  | .xoriLit x => x.raw 0xB
  | .shliLit x => x.rawLit 0xC
  | .shriLit x => x.rawLit 0xD
  | .sraiLit x => x.rawLit 0xE
  | .lisLit x => some { maj := 0xF, g := x.g, lit := some x.imm, body := packF [(5, x.d), (15, 0)] }
  | .cmp x => x.raw 0x10
  | .cmpi x =>
    some { maj := 0x11, g := x.g, lit := none,
           body := packF [(3, x.pd), (3, x.pe), (5, x.a), (5, x.imm.toNat), (4, x.cond)] }
  | .cmpiLit x =>
    some { maj := 0x11, g := x.g, lit := some x.imm, body := packF [(3, x.pd), (3, x.pe), (5, x.a), (5, 0), (4, x.cond)] }
  | .fcmpF32 x => x.raw 0x12
  | .fcmpF16 x => x.raw 0x13
  | .fcmpBf16 x => x.raw 0x14
  | .plog x =>
    some { maj := 0x15, g := x.h.g, lit := x.h.lit,
           body := packF [(3, x.pd), (3, x.pe), (3, x.pa), (3, x.pb), (4, x.tt), (4, 0)] }
  | .faddF32 x => x.raw 0x16 0
  | .fsubF32 x => x.raw 0x16 1
  | .fmulF32 x => x.raw 0x16 2
  | .fmacF32 x => x.raw 0x16 3
  | .faddF16 x => x.raw 0x18 0
  | .fsubF16 x => x.raw 0x18 1
  | .fmulF16 x => x.raw 0x18 2
  | .fmacF16 x => x.raw 0x18 3
  | .faddBf16 x => x.raw 0x1A 0
  | .fsubBf16 x => x.raw 0x1A 1
  | .fmulBf16 x => x.raw 0x1A 2
  | .fmacBf16 x => x.raw 0x1A 3
  | .fminF32 x => x.raw 0x17 0
  | .fmaxF32 x => x.raw 0x17 1
  | .fmscF32 x => x.raw 0x17 2
  | .fcpsF32 x => x.raw 0x17 3
  | .fminF16 x => x.raw 0x19 0
  | .fmaxF16 x => x.raw 0x19 1
  | .fmscF16 x => x.raw 0x19 2
  | .fcpsF16 x => x.raw 0x19 3
  | .fminBf16 x => x.raw 0x1B 0
  | .fmaxBf16 x => x.raw 0x1B 1
  | .fmscBf16 x => x.raw 0x1B 2
  | .fcpsBf16 x => x.raw 0x1B 3
  | .fcvt x =>
    some { maj := 0x1C, g := x.h.g, lit := x.h.lit,
           body := packF [(5, x.d), (5, x.a), (3, x.src), (3, x.dst), (1, bit x.sat), (3, x.rm)] }
  | .sel x =>
    some { maj := 0x1D, g := x.h.g, lit := x.h.lit, body := packF [(5, x.d), (5, x.a), (5, x.b), (3, x.ps), (2, 0)] }
  | .pget x => some { maj := 0x1E, g := x.h.g, lit := x.h.lit, body := packF [(5, x.d), (1, 0), (14, 0)] }
  | .pput x => some { maj := 0x1E, g := x.h.g, lit := x.h.lit, body := packF [(5, x.d), (1, 1), (14, 0)] }
  | .ldb x => x.raw 0x20
  | .ldh x => x.raw 0x21
  | .ldw x => x.raw 0x22
  | .ldd x => x.raw 0x23
  | .ldbu x => x.raw 0x24
  | .ldhu x => x.raw 0x25
  | .ldwu x => x.raw 0x26
  | .stb x => x.raw 0x28
  | .sth x => x.raw 0x29
  | .stw x => x.raw 0x2A
  | .std x => x.raw 0x2B
  | .ldbLit x => x.raw 0x20
  | .ldhLit x => x.raw 0x21
  | .ldwLit x => x.raw 0x22
  | .lddLit x => x.raw 0x23
  | .ldbuLit x => x.raw 0x24
  | .ldhuLit x => x.raw 0x25
  | .ldwuLit x => x.raw 0x26
  | .stbLit x => x.raw 0x28
  | .sthLit x => x.raw 0x29
  | .stwLit x => x.raw 0x2A
  | .stdLit x => x.raw 0x2B
  | .br x => some { maj := 0x30, g := x.g, lit := none, body := x.off.toNat }
  | .brl x => some { maj := 0x31, g := x.g, lit := none, body := x.off.toNat }
  | .brLit x => some { maj := 0x30, g := x.g, lit := some x.target, body := 0 }
  | .brlLit x => some { maj := 0x31, g := x.g, lit := some x.target, body := 0 }
  | .jr x => some { maj := 0x32, g := x.h.g, lit := x.h.lit, body := packF [(5, x.d), (5, x.a), (10, 0)] }
  | .loop x =>
    some { maj := 0x33, g := Guard.none, lit := x.lit, body := packF [(2, x.lc), (3, 0), (5, x.a), (10, x.off.toNat)] }
  | .nop x => rawOfSys x.h.g x.h.lit 0 0
  | .endAct x => rawOfSys x.h.g x.h.lit 1 0
  | .yield x => rawOfSys x.h.g x.h.lit 2 0
  | .trap x => rawOfSys x.h.g x.h.lit 3 x.imm.toNat
  | .eret x => rawOfSys Guard.none x.lit 4 0
  | .brk x => rawOfSys x.h.g x.h.lit 5 x.imm.toNat
  | .pause x => rawOfSys x.h.g x.h.lit 6 x.imm.toNat
  | .fencei x => rawOfSys Guard.none x.lit 7 0
  | .getc x => some { maj := 0x35, g := x.h.g, lit := x.h.lit, body := packF [(5, x.d), (12, x.idx), (3, 0)] }
  | .putc x => some { maj := 0x36, g := x.h.g, lit := x.h.lit, body := packF [(5, x.d), (12, x.idx), (3, 0)] }
  | .fork x => some { maj := 0x37, g := x.h.g, lit := x.h.lit, body := packF [(5, x.a), (15, x.off.toNat)] }
  | .join x => some { maj := 0x38, g := Guard.none, lit := x.lit, body := packF [(5, x.a), (15, x.off.toNat)] }
  | _ => none

/-! ### The extended forms (R70, R74) -/

noncomputable section

/-- Class 0x01 (R74). -/
def xVarith (sub : Nat) (x : XOp) : Option Instr :=
  match sub with
  | 0 => some (.vadd x)
  | 1 => some (.vsub x)
  | 2 => some (.vmul x)
  | 3 => some (.vfma x)
  | 4 => some (.vfms x)
  | 5 => some (.vmin x)
  | 6 => some (.vmax x)
  | 7 => some (.vabs x)
  | 8 => some (.vneg x)
  | 9 => some (.vabsd x)
  | 10 => some (.vmulh x)
  | 11 => some (.vdiv x)
  | 12 => some (.vsqrt x)
  | 13 => some (.vscl x)
  | _ => none

/-- Class 0x02 (R74). -/
def xVlogic (sub : Nat) (x : XOp) : Option Instr :=
  match sub with
  | 0 => some (.vand x)
  | 1 => some (.vor x)
  | 2 => some (.vxor x)
  | 3 => some (.vandn x)
  | 4 => some (.vnot x)
  | 5 => some (.vshl x)
  | 6 => some (.vshr x)
  | 7 => some (.vsra x)
  | 8 => some (.vrotr x)
  | 9 => some (.vpopc x)
  | 10 => some (.vclz x)
  | _ => none

/-- Class 0x03 (R74). -/
def xVcmp (sub : Nat) (x : XOp) : Option Instr :=
  match sub with
  | 0 => some (.vceq x)
  | 1 => some (.vcne x)
  | 2 => some (.vclt x)
  | 3 => some (.vcle x)
  | 4 => some (.vcgt x)
  | 5 => some (.vcge x)
  | 6 => some (.vcun x)
  | 7 => some (.vclass x)
  | 8 => some (.vsel x)
  | 9 => some (.vmand x)
  | 10 => some (.vmor x)
  | 11 => some (.vmxor x)
  | 12 => some (.vmnot x)
  | 13 => some (.vmtos x)
  | 14 => some (.vstom x)
  | _ => none

/-- Class 0x04 (R74). -/
def xVcvt (sub : Nat) (x : XOp) : Option Instr :=
  match sub with
  | 0 => some (.vcvt x)
  | 1 => if x.w2f 5 1 = 1 then some (.valignp x) else some (.valign x)
  | 2 => some (.vpke2 x)
  | 3 => some (.vunpe2 x)
  | 4 => some (.vhist x)
  | _ => none

/-- Class 0x05 (R74). -/
def xVperm (sub : Nat) (x : XOp) : Option Instr :=
  match sub with
  | 0 => some (.vbcast x)
  | 1 => some (.vshuf x)
  | 2 => some (.vrot x)
  | 3 => some (.vslide x)
  | 4 => some (.vzip x)
  | 5 => some (.vunzip x)
  | 6 => some (.vins x)
  | 7 => some (.vextr x)
  | 8 => some (.vcomp x)
  | 9 => some (.vexpd x)
  | _ => none

/-- Class 0x06 (R74). -/
def xVred (sub : Nat) (x : XOp) : Option Instr :=
  match sub with
  | 0 => some (.vrsum x)
  | 1 => some (.vrmin x)
  | 2 => some (.vrmax x)
  | 3 => some (.vrdot x)
  | _ => none

/-- Class 0x07 (R74). -/
def xVmem (sub : Nat) (x : XOp) : Option Instr :=
  match sub with
  | 0 => some (.vld x)
  | 1 => some (.vst x)
  | 2 => some (.vldr x)
  | 3 => some (.vstr x)
  | 4 => some (.vldbc x)
  | _ => none

/-- Class 0x08 (R74). -/
def xMatrix (sub : Nat) (x : XOp) : Option Instr :=
  match sub with
  | 0 => some (.mldb x)
  | 1 => some (.mmul x)
  | 2 => some (.mmac x)
  | 3 => some (.mrd x)
  | 4 => some (.mclr x)
  | 5 => some (.mshr x)
  | 6 => some (.mrel x)
  | 7 => some (.vscalc x)
  | _ => none

/-- Class 0x09 (R74). -/
def xGang (sub : Nat) (x : XOp) : Option Instr :=
  match sub with
  | 0 => some (.gang x)
  | 1 => some (.split x)
  | _ => none

/-- Class 0x0A (R74). -/
def xAtomic (sub : Nat) (x : XOp) : Option Instr :=
  match sub with
  | 0 => if x.x then some (.aaddp x) else some (.aadd x)
  | 1 => if x.x then some (.aandp x) else some (.aand x)
  | 2 => if x.x then some (.aorp x) else some (.aor x)
  | 3 => if x.x then some (.axorp x) else some (.axor x)
  | 4 => if x.x then some (.aminp x) else some (.amin x)
  | 5 => if x.x then some (.amaxp x) else some (.amax x)
  | 6 => if x.x then some (.aminup x) else some (.aminu x)
  | 7 => if x.x then some (.amaxup x) else some (.amaxu x)
  | 8 => if x.x then some (.aswapp x) else some (.aswap x)
  | 9 => some (.acas x)
  | 10 => if x.x then some (.afaddp x) else some (.afadd x)
  | _ => none

/-- Class 0x0B (R74). -/
def xSync (sub : Nat) (x : XOp) : Option Instr :=
  match sub with
  | 0 => some (.expect x)
  | 1 => some (.waitg x)
  | 2 => some (.bar x)
  | 3 => some (.bararr x)
  | 4 => some (.barwt x)
  | 5 => some (.qfence x)
  | 6 => some (.swinit x)
  | _ => none

/-- Class 0x0C (R74). -/
def xEngine (sub : Nat) (x : XOp) : Option Instr :=
  match sub with
  | 0 => some (.send x)
  | 1 => some (.sendl x)
  | 2 => some (.gath x)
  | 3 => some (.scat x)
  | 4 => some (.treduce x)
  | _ => none

/-- Class 0x0D (R74). -/
def xScan (sub : Nat) (x : XOp) : Option Instr :=
  match sub with
  | 0 => if x.w2f 28 4 = 12 then some (.scophdr x) else if x.w2f 28 4 = 13 then some (.scopid x) else some (.scop x)
  | 1 => some (.scan x)
  | 2 => some (.scanc x)
  | 3 => some (.ride x)
  | 4 => some (.rbar x)
  | 5 => some (.scwait x)
  | _ => none

/-- Class 0x0E (R74). -/
def xLaw (sub : Nat) (x : XOp) : Option Instr :=
  match sub with
  | 0 => some (.lld x)
  | 1 => some (.lst x)
  | 2 => some (.ladd x)
  | 3 => some (.lreb x)
  | 4 => some (.lset x)
  | 5 => some (.lget x)
  | 6 => some (.ltick x)
  | 7 => some (.lnow x)
  | 8 => if x.w2f 1 1 = 1 then some (.lregf x) else some (.lreg x)
  | _ => none

/-- Class 0x0F (R74). -/
def xMsg (sub : Nat) (x : XOp) : Option Instr :=
  match sub with
  | 0 => some (.sendm x)
  | 1 => some (.mbox x)
  | 2 => some (.maskc x)
  | 3 => some (.unmc x)
  | _ => none

/-- Class 0x10 (R74). -/
def xActor (sub : Nat) (x : XOp) : Option Instr :=
  match sub with
  | 0 => some (.spawn x)
  | 1 => some (.hset x)
  | 2 => some (.hclr x)
  | 3 => some (.wset x)
  | 4 => some (.wclr x)
  | 5 => some (.adest x)
  | _ => none

/-- Class 0x11 (R74). -/
def xTask (sub : Nat) (x : XOp) : Option Instr :=
  match sub with
  | 0 => some (.launch x)
  | 1 => some (.widf x)
  | _ => none

/-- Class 0x12 (R74). -/
def xNear (sub : Nat) (x : XOp) : Option Instr :=
  match sub with
  | 0 => some (.nmld x)
  | 1 => some (.nmrun x)
  | 2 => some (.nmwait x)
  | 3 => some (.nmfence x)
  | 4 => some (.nmred x)
  | 5 => some (.tld x)
  | 6 => some (.tq x)
  | _ => none

/-- Class 0x13 (R74). -/
def xDebug (sub : Nat) (x : XOp) : Option Instr :=
  match sub with
  | 0 => some (.dbset x)
  | 1 => some (.dbclr x)
  | 2 => some (.dwset x)
  | 3 => some (.dwclr x)
  | 4 => some (.trmark x)
  | 5 => some (.trctl x)
  | 6 => some (.dacc x)
  | _ => none

/-- Class 0x14 (R74). -/
def xPriv (sub : Nat) (x : XOp) : Option Instr :=
  match sub with
  | 0 => some (.ctxsv x)
  | 1 => some (.ctxld x)
  | 2 => some (.tlbinv x)
  | 3 => some (.clrset x)
  | 4 => some (.ltmode x)
  | 5 => some (.crset x)
  | _ => none

/-- The instruction of a class and subop (R74). -/
def ofXcode (cls sub : Nat) (x : XOp) : Option Instr :=
  match cls with
  | 1 => xVarith sub x
  | 2 => xVlogic sub x
  | 3 => xVcmp sub x
  | 4 => xVcvt sub x
  | 5 => xVperm sub x
  | 6 => xVred sub x
  | 7 => xVmem sub x
  | 8 => xMatrix sub x
  | 9 => xGang sub x
  | 10 => xAtomic sub x
  | 11 => xSync sub x
  | 12 => xEngine sub x
  | 13 => xScan sub x
  | 14 => xLaw sub x
  | 15 => xMsg sub x
  | 16 => xActor sub x
  | 17 => xTask sub x
  | 18 => xNear sub x
  | 19 => xDebug sub x
  | 20 => xPriv sub x
  | _ => none

end

/-- The class and subop of an extended instruction (R74). -/
def xcode : Instr → Option (Nat × Nat × XOp)
  | .vadd x => some (1, 0, x)
  | .vsub x => some (1, 1, x)
  | .vmul x => some (1, 2, x)
  | .vfma x => some (1, 3, x)
  | .vfms x => some (1, 4, x)
  | .vmin x => some (1, 5, x)
  | .vmax x => some (1, 6, x)
  | .vabs x => some (1, 7, x)
  | .vneg x => some (1, 8, x)
  | .vabsd x => some (1, 9, x)
  | .vmulh x => some (1, 10, x)
  | .vdiv x => some (1, 11, x)
  | .vsqrt x => some (1, 12, x)
  | .vscl x => some (1, 13, x)
  | .vand x => some (2, 0, x)
  | .vor x => some (2, 1, x)
  | .vxor x => some (2, 2, x)
  | .vandn x => some (2, 3, x)
  | .vnot x => some (2, 4, x)
  | .vshl x => some (2, 5, x)
  | .vshr x => some (2, 6, x)
  | .vsra x => some (2, 7, x)
  | .vrotr x => some (2, 8, x)
  | .vpopc x => some (2, 9, x)
  | .vclz x => some (2, 10, x)
  | .vceq x => some (3, 0, x)
  | .vcne x => some (3, 1, x)
  | .vclt x => some (3, 2, x)
  | .vcle x => some (3, 3, x)
  | .vcgt x => some (3, 4, x)
  | .vcge x => some (3, 5, x)
  | .vcun x => some (3, 6, x)
  | .vclass x => some (3, 7, x)
  | .vsel x => some (3, 8, x)
  | .vmand x => some (3, 9, x)
  | .vmor x => some (3, 10, x)
  | .vmxor x => some (3, 11, x)
  | .vmnot x => some (3, 12, x)
  | .vmtos x => some (3, 13, x)
  | .vstom x => some (3, 14, x)
  | .vcvt x => some (4, 0, x)
  | .valign x => some (4, 1, x)
  | .valignp x => some (4, 1, x)
  | .vpke2 x => some (4, 2, x)
  | .vunpe2 x => some (4, 3, x)
  | .vhist x => some (4, 4, x)
  | .vbcast x => some (5, 0, x)
  | .vshuf x => some (5, 1, x)
  | .vrot x => some (5, 2, x)
  | .vslide x => some (5, 3, x)
  | .vzip x => some (5, 4, x)
  | .vunzip x => some (5, 5, x)
  | .vins x => some (5, 6, x)
  | .vextr x => some (5, 7, x)
  | .vcomp x => some (5, 8, x)
  | .vexpd x => some (5, 9, x)
  | .vrsum x => some (6, 0, x)
  | .vrmin x => some (6, 1, x)
  | .vrmax x => some (6, 2, x)
  | .vrdot x => some (6, 3, x)
  | .vld x => some (7, 0, x)
  | .vst x => some (7, 1, x)
  | .vldr x => some (7, 2, x)
  | .vstr x => some (7, 3, x)
  | .vldbc x => some (7, 4, x)
  | .mldb x => some (8, 0, x)
  | .mmul x => some (8, 1, x)
  | .mmac x => some (8, 2, x)
  | .mrd x => some (8, 3, x)
  | .mclr x => some (8, 4, x)
  | .mshr x => some (8, 5, x)
  | .mrel x => some (8, 6, x)
  | .vscalc x => some (8, 7, x)
  | .gang x => some (9, 0, x)
  | .split x => some (9, 1, x)
  | .aadd x => some (10, 0, x)
  | .aaddp x => some (10, 0, x)
  | .aand x => some (10, 1, x)
  | .aandp x => some (10, 1, x)
  | .aor x => some (10, 2, x)
  | .aorp x => some (10, 2, x)
  | .axor x => some (10, 3, x)
  | .axorp x => some (10, 3, x)
  | .amin x => some (10, 4, x)
  | .aminp x => some (10, 4, x)
  | .amax x => some (10, 5, x)
  | .amaxp x => some (10, 5, x)
  | .aminu x => some (10, 6, x)
  | .aminup x => some (10, 6, x)
  | .amaxu x => some (10, 7, x)
  | .amaxup x => some (10, 7, x)
  | .aswap x => some (10, 8, x)
  | .aswapp x => some (10, 8, x)
  | .acas x => some (10, 9, x)
  | .afadd x => some (10, 10, x)
  | .afaddp x => some (10, 10, x)
  | .expect x => some (11, 0, x)
  | .waitg x => some (11, 1, x)
  | .bar x => some (11, 2, x)
  | .bararr x => some (11, 3, x)
  | .barwt x => some (11, 4, x)
  | .qfence x => some (11, 5, x)
  | .swinit x => some (11, 6, x)
  | .send x => some (12, 0, x)
  | .sendl x => some (12, 1, x)
  | .gath x => some (12, 2, x)
  | .scat x => some (12, 3, x)
  | .treduce x => some (12, 4, x)
  | .scop x => some (13, 0, x)
  | .scophdr x => some (13, 0, x)
  | .scopid x => some (13, 0, x)
  | .scan x => some (13, 1, x)
  | .scanc x => some (13, 2, x)
  | .ride x => some (13, 3, x)
  | .rbar x => some (13, 4, x)
  | .scwait x => some (13, 5, x)
  | .lld x => some (14, 0, x)
  | .lst x => some (14, 1, x)
  | .ladd x => some (14, 2, x)
  | .lreb x => some (14, 3, x)
  | .lset x => some (14, 4, x)
  | .lget x => some (14, 5, x)
  | .ltick x => some (14, 6, x)
  | .lnow x => some (14, 7, x)
  | .lreg x => some (14, 8, x)
  | .lregf x => some (14, 8, x)
  | .sendm x => some (15, 0, x)
  | .mbox x => some (15, 1, x)
  | .maskc x => some (15, 2, x)
  | .unmc x => some (15, 3, x)
  | .spawn x => some (16, 0, x)
  | .hset x => some (16, 1, x)
  | .hclr x => some (16, 2, x)
  | .wset x => some (16, 3, x)
  | .wclr x => some (16, 4, x)
  | .adest x => some (16, 5, x)
  | .launch x => some (17, 0, x)
  | .widf x => some (17, 1, x)
  | .nmld x => some (18, 0, x)
  | .nmrun x => some (18, 1, x)
  | .nmwait x => some (18, 2, x)
  | .nmfence x => some (18, 3, x)
  | .nmred x => some (18, 4, x)
  | .tld x => some (18, 5, x)
  | .tq x => some (18, 6, x)
  | .dbset x => some (19, 0, x)
  | .dbclr x => some (19, 1, x)
  | .dwset x => some (19, 2, x)
  | .dwclr x => some (19, 3, x)
  | .trmark x => some (19, 4, x)
  | .trctl x => some (19, 5, x)
  | .dacc x => some (19, 6, x)
  | .ctxsv x => some (20, 0, x)
  | .ctxld x => some (20, 1, x)
  | .tlbinv x => some (20, 2, x)
  | .clrset x => some (20, 3, x)
  | .ltmode x => some (20, 4, x)
  | .crset x => some (20, 5, x)
  | _ => none
/-! ### Words -/

/-- The first word of a 32-bit form. -/
def Raw.word (r : Raw) : Nat := packF [(1, bit r.lit.isSome), (1, 0), (6, r.maj), (4, r.g.bits), (20, r.body)]

/-- The two words of a literal, the low one first (R61). -/
def litWords (lit : Option Word) : List IWord :=
  match lit with
  | none => []
  | some l => [BitVec.ofNat 32 l.toNat, BitVec.ofNat 32 (l.toNat / 2 ^ 32)]

/-- The literal of two words. -/
def litOf (a b : IWord) : Word := BitVec.ofNat 64 (a.toNat + 2 ^ 32 * b.toNat)

/-- Word 0 of an extended form (R70). -/
def XOp.word0 (cls sub : Nat) (x : XOp) : Nat :=
  packF [(1, bit x.h.lit.isSome), (1, 1), (6, cls), (4, x.h.g.bits), (10, sub), (4, x.ty), (3, x.rm), (3, x.mask)]

/-- Word 1 of an extended form (R70). -/
def XOp.word1 (x : XOp) : Nat :=
  packF [(5, x.d), (5, x.a), (5, x.b), (5, x.c), (4, x.hist), (1, bit x.sat), (2, x.wait), (2, x.l), (2, x.aw), (1, bit x.x)]

/-- The words of a core instruction; an instruction with no encoding has none. -/
def encode (i : Instr) : List IWord :=
  match toRaw i with
  | some r => BitVec.ofNat 32 r.word :: litWords r.lit
  | none =>
    match xcode i with
    | some (cls, sub, x) => BitVec.ofNat 32 (x.word0 cls sub) :: BitVec.ofNat 32 x.word1 :: x.w2 :: litWords x.h.lit
    | none => []

/-- The first word, which ILLOP and PRIVOP put into TVAL (R77); for an encoding that is no instruction it is the word itself. -/
def firstWord (i : Instr) : IWord :=
  match i with
  | .illegalEncoding w => w
  | j => (encode j).headD 0

/-- The length in bytes (R61). -/
def Instr.bytes (i : Instr) : Nat := 4 * (encode i).length

noncomputable section

/-- The extended form of its first three words and literal. -/
def ofExt (w0 w1 : Nat) (w2 : IWord) (lit : Option Word) : Option Instr :=
  match unpackF [2, 6, 4, 10, 4, 3, 3] w0, unpackF [5, 5, 5, 5, 4, 1, 2, 2, 2, 1] w1 with
  | [_, cls, g, sub, ty, rm, mask], [d, a, b, c, hist, sat, wait, l, aw, x] =>
    ofXcode cls sub
      { h := { g := guardOf g, lit := lit }, mask := f8 mask, rm := f8 rm, ty := f16 ty, x := x == 1, aw := f4 aw, l := f4 l,
        wait := f4 wait, sat := sat == 1, hist := f16 hist, c := f32 c, b := f32 b, a := f32 a, d := f32 d, w2 := w2 }
  | _, _ => none

/-- The 32-bit form of its first word and literal. -/
def of32 (w0 : Nat) (lit : Option Word) : Option Instr :=
  match unpackF [2, 6, 4, 20] w0 with
  | [_, maj, g, body] => ofRaw { maj := maj, g := guardOf g, lit := lit, body := body }
  | _ => none

/-- The fields read without the checks of Instr.wf. -/
def decodeRaw (ws : List IWord) : Except Reject Instr :=
  let ans (o : Option Instr) : Except Reject Instr :=
    match o with
    | some i => .ok i
    | none => .error .illegal
  match ws with
  | [] => .error .tooShort
  | w0 :: t =>
    match w0.toNat % 4, t with
    | 0, _ => ans (of32 w0.toNat none)
    | 1, l0 :: l1 :: _ => ans (of32 w0.toNat (some (litOf l0 l1)))
    | 2, w1 :: w2 :: _ => ans (ofExt w0.toNat w1.toNat w2 none)
    | 3, w1 :: w2 :: l0 :: l1 :: _ => ans (ofExt w0.toNat w1.toNat w2 (some (litOf l0 l1)))
    | _, _ => .error .tooShort

/-- The instruction at the front of a list of words, which must be well formed (R76). -/
def decode (ws : List IWord) : Except Reject Instr :=
  match decodeRaw ws with
  | .ok i => if i.wf then .ok i else .error .illegal
  | .error e => .error e

/-! ### The NMU's words (20_nearmem.md R317, R318) -/

/-- The arithmetic instructions of layout NA by opcode. -/
def nmuNA (op : Nat) (x : NaF) : Option Instr :=
  match op with
  | 4 => some (.nadd x)
  | 5 => some (.nsub x)
  | 6 => some (.nmul x)
  | 7 => some (.nfma x)
  | 8 => some (.nmin x)
  | 9 => some (.nmax x)
  | 10 => some (.ncmp x)
  | 11 => some (.nsel x)
  | 12 => some (.nand x)
  | 13 => some (.nor x)
  | 14 => some (.nxor x)
  | 15 => some (.nshf x)
  | 16 => some (.ncvt x)
  | 19 => some (.nred x)
  | _ => none

/-- An NMU word's fields, without the checks of Instr.wf. -/
def nmuRaw (w : Nat) : Option Instr :=
  let op := w / 2 ^ 27 % 32
  match op with
  | 1 | 2 | 17 | 20 =>
    match unpackF [14, 2, 5, 3, 3, 5] w with
    | [off, ai, d, rm, mode, _] =>
      let x : NmF := { mode := f8 mode, rm := f8 rm, d := f32 d, ai := f4 ai, off := BitVec.ofNat 14 off }
      match op with
      | 1 => some (.nldr x)
      | 2 => some (.nstr x)
      | 17 => some (.nlaw x)
      | _ => some (.npush x)
    | _ => none
  | 3 =>
    match unpackF [16, 5, 3, 3, 5] w with
    | [imm, d, z, ty, _] => if z = 0 then some (.nldi { ty := f8 ty, d := f32 d, imm := BitVec.ofNat 16 imm }) else none
    | _ => none
  | 18 =>
    match unpackF [11, 5, 5, 6, 5] w with
    | [h, a, d, z, _] => if z = 0 then some (.ntq { d := f32 d, a := f32 a, handle := BitVec.ofNat 11 h }) else none
    | _ => none
  | 21 | 22 =>
    match unpackF [16, 8, 3, 5] w with
    | [cnt, len, z, _] =>
      let x : NlF := { len := BitVec.ofNat 8 len, count := BitVec.ofNat 16 cnt }
      if z = 0 then some (if op = 21 then .nloop0 x else .nloop1 x) else none
    | _ => none
  | 23 =>
    match unpackF [16, 2, 9, 5] w with
    | [imm, ai, z, _] => if z = 0 then some (.nadda { ai := f4 ai, imm := BitVec.ofNat 16 imm }) else none
    | _ => none
  | 24 => if w % 2 ^ 27 = 0 then some .nend else none
  | _ =>
    match unpackF [5, 1, 5, 5, 5, 3, 3, 5] w with
    | [x, sat, b, a, d, rm, ty, _] =>
      nmuNA op { ty := f8 ty, rm := f8 rm, d := f32 d, a := f32 a, b := f32 b, sat := sat == 1, x := f32 x }
    | _ => none

/-- The NMU's decoder: none is NILL (R322). -/
def nmuDecode (w : IWord) : Option Instr :=
  match nmuRaw w.toNat with
  | some i => if i.wf then some i else none
  | none => none

end

/-- A word of layout NA. -/
def NaF.word (x : NaF) (op : Nat) : Nat :=
  packF [(5, x.x), (1, bit x.sat), (5, x.b), (5, x.a), (5, x.d), (3, x.rm), (3, x.ty), (5, op)]

/-- A word of layout NM. -/
def NmF.word (x : NmF) (op : Nat) : Nat :=
  packF [(14, x.off.toNat), (2, x.ai), (5, x.d), (3, x.rm), (3, x.mode), (5, op)]

/-- The word of an NMU instruction. -/
def nmuEncode : Instr → Option IWord
  | .nldr x => some (BitVec.ofNat 32 (x.word 1))
  | .nstr x => some (BitVec.ofNat 32 (x.word 2))
  | .nldi x => some (BitVec.ofNat 32 (packF [(16, x.imm.toNat), (5, x.d), (3, 0), (3, x.ty), (5, 3)]))
  | .nadd x => some (BitVec.ofNat 32 (x.word 4))
  | .nsub x => some (BitVec.ofNat 32 (x.word 5))
  | .nmul x => some (BitVec.ofNat 32 (x.word 6))
  | .nfma x => some (BitVec.ofNat 32 (x.word 7))
  | .nmin x => some (BitVec.ofNat 32 (x.word 8))
  | .nmax x => some (BitVec.ofNat 32 (x.word 9))
  | .ncmp x => some (BitVec.ofNat 32 (x.word 10))
  | .nsel x => some (BitVec.ofNat 32 (x.word 11))
  | .nand x => some (BitVec.ofNat 32 (x.word 12))
  | .nor x => some (BitVec.ofNat 32 (x.word 13))
  | .nxor x => some (BitVec.ofNat 32 (x.word 14))
  | .nshf x => some (BitVec.ofNat 32 (x.word 15))
  | .ncvt x => some (BitVec.ofNat 32 (x.word 16))
  | .nlaw x => some (BitVec.ofNat 32 (x.word 17))
  | .ntq x => some (BitVec.ofNat 32 (packF [(11, x.handle.toNat), (5, x.a), (5, x.d), (6, 0), (5, 18)]))
  | .nred x => some (BitVec.ofNat 32 (x.word 19))
  | .npush x => some (BitVec.ofNat 32 (x.word 20))
  | .nloop0 x => some (BitVec.ofNat 32 (packF [(16, x.count.toNat), (8, x.len.toNat), (3, 0), (5, 21)]))
  | .nloop1 x => some (BitVec.ofNat 32 (packF [(16, x.count.toNat), (8, x.len.toNat), (3, 0), (5, 22)]))
  | .nadda x => some (BitVec.ofNat 32 (packF [(16, x.imm.toNat), (2, x.ai), (9, 0), (5, 23)]))
  | .nend => some (BitVec.ofNat 32 (24 * 2 ^ 27))
  | _ => none

/-! ### The host's question -/

/-- The words of a number of the opcode table: bit 0 of the first word is bit 0 of the number. -/
def tableWords (w : Nat) : List IWord :=
  [BitVec.ofNat 32 w, BitVec.ofNat 32 (w / 2 ^ 32), BitVec.ofNat 32 (w / 2 ^ 64), BitVec.ofNat 32 (w / 2 ^ 96),
   BitVec.ofNat 32 (w / 2 ^ 128)]

noncomputable section

/-- The instruction whose bits are w: one of the core's, or else one of the NMU's (the NMU's words never stand in the core's
instruction stream; log entry 16). -/
def decodeTableWord (nbits w : Nat) : Option Instr :=
  let w := w % 2 ^ nbits
  match decode (tableWords w) with
  | .ok i => some i
  | .error _ => nmuDecode (BitVec.ofNat 32 w)

end

end Sys2Proof
end

