-- ==== Sys2Proof/Machine/Bits.lean ====
section
/-!
DEFINITION. Bytes, bit fields and little-endian values (00_scope.md R3).
-/
namespace Sys2Proof.Machine

/-- The n-bit field of x at bit lo. -/
def bitsOf (x lo n : Nat) : Nat := x / 2 ^ lo % 2 ^ n

/-- Bit i of x. -/
def bitAt (x i : Nat) : Bool := x / 2 ^ i % 2 == 1

/-- The n bytes of a value, the least significant first (R3). -/
def leBytes : Nat → Nat → List Byte
  | 0, _ => []
  | n + 1, x => BitVec.ofNat 8 x :: leBytes n (x / 256)

/-- The value of bytes, the first the least significant (R3). -/
def leNat : List Byte → Nat
  | [] => 0
  | b :: t => b.toNat + 256 * leNat t

/-- Sign extension of an n-bit field to an integer. -/
def sxt (n x : Nat) : Int :=
  let v := x % 2 ^ n
  if 2 ^ (n - 1) ≤ v then (v : Int) - 2 ^ n else v

/-- The word of an integer modulo 2^64. -/
def wordOfInt (i : Int) : Word := BitVec.ofInt 64 i

/-- The low n bits of a word, sign-extended to 64. -/
def sxtWord (n : Nat) (x : Nat) : Word := wordOfInt (sxt n x)

/-- n copies of a byte. -/
def fillBytes (n : Nat) (b : Byte) : List Byte := List.replicate n b

/-- The smallest multiple of k that is at least n. -/
def ceilTo (n k : Nat) : Nat := (n + k - 1) / k * k

/-- The number of cuts of k that cover n. -/
def ceilDiv (n k : Nat) : Nat := (n + k - 1) / k

/-- Two ranges of addresses share a byte. -/
def overlaps (a n b m : Nat) : Bool := decide (a < b + m) && decide (b < a + n) && decide (0 < n) && decide (0 < m)

/-- Replace the bits [lo, lo + n) of x by v. -/
def setBits (x lo n v : Nat) : Nat := x - bitsOf x lo n * 2 ^ lo + v % 2 ^ n * 2 ^ lo

/-- Set or clear bit i of x. -/
def setBit (x i : Nat) (b : Bool) : Nat := setBits x i 1 (if b then 1 else 0)

end Sys2Proof.Machine
end

