-- ==== Sys2Proof/Machine/Num.lean ====
section
/-!
DEFINITION. Exact numbers and the one rounding function (06_numbers.md R98, R107 to R109, R120).
A magnitude is an exact rational times a power of two; Round brings it to the grid of a format.
-/
namespace Sys2Proof.Machine

/-- The accrued flags of FPCTL (R59, R115). -/
structure Flags where
  nv : Bool := false
  dz : Bool := false
  ov : Bool := false
  uf : Bool := false
  nx : Bool := false
  sat : Bool := false
deriving DecidableEq, Repr

/-- The union of two sets of flags. -/
def Flags.or (a b : Flags) : Flags :=
  { nv := a.nv || b.nv, dz := a.dz || b.dz, ov := a.ov || b.ov, uf := a.uf || b.uf, nx := a.nx || b.nx, sat := a.sat || b.sat }

/-- No flag raised. -/
def noFlags : Flags := {}
/-- NV alone. -/
def flagNV : Flags := { nv := true }
/-- SAT alone. -/
def flagSAT : Flags := { sat := true }
/-- NX alone. -/
def flagNX : Flags := { nx := true }

/-- The flags in their places of FPCTL [9:4] (R59). -/
def Flags.toNat (f : Flags) : Nat :=
  (if f.nv then 16 else 0) + (if f.dz then 32 else 0) + (if f.ov then 64 else 0) + (if f.uf then 128 else 0)
    + (if f.nx then 256 else 0) + (if f.sat then 512 else 0)

/-- A resolved rounding mode (R107); DYN is resolved at issue. -/
inductive RMode where
  | rne | rtz | rdn | rup | rna | sr
deriving DecidableEq, Repr

/-- Codes 0 to 5 of R107; 6 and 7 name no mode. -/
def rmodeOf : Nat → Option RMode
  | 0 => some .rne
  | 1 => some .rtz
  | 2 => some .rdn
  | 3 => some .rup
  | 4 => some .rna
  | 5 => some .sr
  | _ => none

/-- The floating formats of R98 and E2M1 (R100). -/
inductive FFmt where
  | fp32 | fp16 | bf16 | e4m3 | e5m2 | e2m1
deriving DecidableEq, Repr

/-- Mantissa bits (R98). -/
def FFmt.mbits : FFmt → Nat
  | .fp32 => 23 | .fp16 => 10 | .bf16 => 7 | .e4m3 => 3 | .e5m2 => 2 | .e2m1 => 1

/-- Exponent bits (R98). -/
def FFmt.ebits : FFmt → Nat
  | .fp32 => 8 | .fp16 => 5 | .bf16 => 8 | .e4m3 => 4 | .e5m2 => 5 | .e2m1 => 2

/-- Exponent bias (R98). -/
def FFmt.bias : FFmt → Nat
  | .fp32 => 127 | .fp16 => 15 | .bf16 => 127 | .e4m3 => 7 | .e5m2 => 15 | .e2m1 => 1

/-- Width in bits. -/
def FFmt.width (f : FFmt) : Nat := 1 + f.ebits + f.mbits

/-- Canonical NaN (R98); E2M1 has none. -/
def FFmt.qnan : FFmt → Nat
  | .fp32 => 0x7FC00000 | .fp16 => 0x7E00 | .bf16 => 0x7FC0 | .e4m3 => 0x7F | .e5m2 => 0x7E | .e2m1 => 0

/-- Exponent of the unit of the subnormals. -/
def FFmt.emin (f : FFmt) : Int := 1 - (f.bias : Int) - f.mbits

/-- A format has infinities (R98). -/
def FFmt.hasInf : FFmt → Bool
  | .fp32 | .fp16 | .bf16 | .e5m2 => true
  | .e4m3 | .e2m1 => false

/-- The magnitude code of the largest finite value (R98). -/
def FFmt.maxCode : FFmt → Nat
  | .fp32 => 0x7F7FFFFF | .fp16 => 0x7BFF | .bf16 => 0x7F7F | .e4m3 => 0x7E | .e5m2 => 0x7B | .e2m1 => 7

/-- A value of a format or an exact result: NaN, an infinity, or (−1)^neg × mag × 2^exp (zero keeps its sign). -/
inductive FVal where
  | nan
  | inf (neg : Bool)
  | num (neg : Bool) (mag : Nat) (exp : Int)
deriving DecidableEq, Repr

/-- The exact value of an integer; zero is +0. -/
def FVal.ofInt (i : Int) : FVal := .num (i < 0) i.natAbs 0

/-- +0. -/
def FVal.pzero : FVal := .num false 0 0

/-- The value is NaN. -/
def FVal.isNan : FVal → Bool
  | .nan => true
  | _ => false

/-- The value is an infinity. -/
def FVal.isInf : FVal → Bool
  | .inf _ => true
  | _ => false

/-- The value is a zero of either sign. -/
def FVal.isZero : FVal → Bool
  | .num _ 0 _ => true
  | _ => false

/-- The sign; NaN has none. -/
def FVal.neg : FVal → Bool
  | .nan => false
  | .inf s => s
  | .num s _ _ => s

/-- The value with its sign turned; NaN stays NaN. -/
def FVal.negate : FVal → FVal
  | .nan => .nan
  | .inf s => .inf (!s)
  | .num s m e => .num (!s) m e

/-- The magnitude. -/
def FVal.absv : FVal → FVal
  | .nan => .nan
  | .inf _ => .inf false
  | .num _ m e => .num false m e

/-- x × 2^k exactly. -/
def FVal.scale (x : FVal) (k : Int) : FVal :=
  match x with
  | .num s m e => .num s m (e + k)
  | y => y

/-- The magnitude mag × 2^exp of magnitude code c (exponent and mantissa fields of a finite value). -/
def FFmt.magOf (f : FFmt) (c : Nat) : Nat × Int :=
  let e := c / 2 ^ f.mbits
  let m := c % 2 ^ f.mbits
  if e = 0 then (m, f.emin) else (m + 2 ^ f.mbits, f.emin + (e - 1 : Nat))

/-- The value of a bit pattern of format f (R98, R100; the escape of E2M1 reads as 0 here, R102 resolves it). -/
def FFmt.unpack (f : FFmt) (bits : Nat) : FVal :=
  let w := f.width
  let s := (bits / 2 ^ (w - 1)) % 2 == 1
  let c := bits % 2 ^ (w - 1)
  match f with
  | .e2m1 => if bits % 16 = 8 then .pzero else .num s (f.magOf c).1 (f.magOf c).2
  | .e4m3 => if c = 0x7F then .nan else .num s (f.magOf c).1 (f.magOf c).2
  | _ =>
    let top := 2 ^ f.ebits - 1
    if c / 2 ^ f.mbits = top then (if c % 2 ^ f.mbits = 0 then .inf s else .nan)
    else .num s (f.magOf c).1 (f.magOf c).2

/-- The largest finite value of f, with sign. -/
def FFmt.maxFin (f : FFmt) (neg : Bool) : FVal := .num neg (f.magOf f.maxCode).1 (f.magOf f.maxCode).2

/-- floor(log2 (num ÷ den)) for num, den > 0. -/
def ilog2 (num den : Nat) : Int :=
  let k : Int := (Nat.log2 num : Int) - (Nat.log2 den : Int)
  let ge : Bool := if 0 ≤ k then den * 2 ^ k.toNat ≤ num else den ≤ num * 2 ^ (-k).toNat
  if ge then k else k - 1

/-- The choice between the two neighbours q and q + 1 of a magnitude q + r ÷ b (0 ≤ r < b; with sticky, a little more)
on the grid of units (R107, R109). u is the 16-bit draw. Answers the rounded magnitude and whether it is inexact. -/
def roundMag (neg : Bool) (q r b : Nat) (sticky : Bool) (mode : RMode) (u : Nat) : Nat × Bool :=
  if r = 0 ∧ sticky = false then (q, false)
  else
    let up : Bool :=
      match mode with
      | .rne => b < 2 * r || (2 * r == b && (sticky || q % 2 == 1))
      | .rtz => false
      | .rdn => neg
      | .rup => !neg
      | .rna => b ≤ 2 * r
      | .sr =>
        if neg then !(u < (if sticky then (2 ^ 16 * (b - r) - 1) / b else 2 ^ 16 * (b - r) / b))
        else u < 2 ^ 16 * r / b
    (if up then q + 1 else q, true)

/-- num ÷ den × 2^exp in units of 2^ulp: quotient, remainder and divisor. -/
def inUnits (num den : Nat) (exp ulp : Int) : Nat × Nat × Nat :=
  let d := exp - ulp
  let a := if 0 ≤ d then num * 2 ^ d.toNat else num
  let b := if 0 ≤ d then den else den * 2 ^ (-d).toNat
  (a / b, a % b, b)

/-- The overflow result of R107. -/
def overflowVal (f : FFmt) (neg : Bool) (mode : RMode) : FVal :=
  match mode with
  | .rne | .rna | .sr => .inf neg
  | .rtz => f.maxFin neg
  | .rdn => if neg then .inf true else f.maxFin false
  | .rup => if neg then f.maxFin true else .inf false

/-- mag × 2^e ≤ mag' × 2^e' for exact magnitudes. -/
def magLe (m : Nat) (e : Int) (m' : Nat) (e' : Int) : Bool :=
  let d := e - e'
  if 0 ≤ d then m * 2 ^ d.toNat ≤ m' else m ≤ m' * 2 ^ (-d).toNat

/-- mag × 2^e < mag' × 2^e'. -/
def magLt (m : Nat) (e : Int) (m' : Nat) (e' : Int) : Bool := !magLe m' e' m e

/-- A rounded value before its range is judged: magnitude q × 2^ulp, and inexact. -/
structure Rnd where
  neg : Bool
  q : Nat
  ulp : Int
  inexact : Bool
deriving DecidableEq, Repr

/-- Rounding of the nonzero magnitude num ÷ den × 2^exp (a little more with sticky) to the grid of f, its exponent
range unbounded above (R107). -/
def roundGrid (f : FFmt) (neg : Bool) (num den : Nat) (exp : Int) (sticky : Bool) (mode : RMode) (u : Nat) : Rnd :=
  let lg := ilog2 num den + exp
  let ulp := max (lg - f.mbits) f.emin
  let t := inUnits num den exp ulp
  let r := roundMag neg t.1 t.2.1 t.2.2 sticky mode u
  { neg := neg, q := r.1, ulp := ulp, inexact := r.2 }

/-- The rounded value lies beyond the largest finite value of f. -/
def Rnd.beyond (f : FFmt) (r : Rnd) : Bool :=
  magLt (f.magOf f.maxCode).1 (f.magOf f.maxCode).2 r.q r.ulp

/-- The rounded value lies below the smallest normal value of f (R108). -/
def Rnd.tiny (f : FFmt) (r : Rnd) : Bool := magLt r.q r.ulp (2 ^ f.mbits) f.emin

/-- Round of R120 for a nonzero rational magnitude, with the flags of R108. -/
def roundQ (f : FFmt) (neg : Bool) (num den : Nat) (exp : Int) (sticky : Bool) (mode : RMode) (u : Nat) : FVal × Flags :=
  let r := roundGrid f neg num den exp sticky mode u
  if r.beyond f then (overflowVal f neg mode, { ov := true, nx := true })
  else (.num neg r.q r.ulp, { uf := r.tiny f && r.inexact, nx := r.inexact })

/-- Round of R120: NaN gives the canonical NaN, infinities and zeros stand, a finite value is rounded once. -/
def roundF (f : FFmt) (mode : RMode) (u : Nat) (x : FVal) : FVal × Flags :=
  match x with
  | .nan => (.nan, noFlags)
  | .inf s => (.inf s, noFlags)
  | .num s 0 _ => (.num s 0 0, noFlags)
  | .num s m e => roundQ f s m 1 e false mode u

/-- RoundInt of R120 for a finite value: the integer and whether it differs from x. -/
def roundInt (mode : RMode) (u : Nat) (neg : Bool) (mag : Nat) (exp : Int) : Int × Bool :=
  let t := inUnits mag 1 exp 0
  let r := roundMag neg t.1 t.2.1 t.2.2 false mode u
  (if neg then -(r.1 : Int) else (r.1 : Int), r.2)

/-- The bit pattern of a value that lies on the grid of f. -/
def FFmt.pack (f : FFmt) (x : FVal) : Nat :=
  let sb (s : Bool) : Nat := if s then 2 ^ (f.width - 1) else 0
  match x with
  | .nan => f.qnan
  | .inf s => sb s + (2 ^ f.ebits - 1) * 2 ^ f.mbits
  | .num s 0 _ => if f = .e2m1 then 0 else sb s
  | .num s m e =>
    let lg := ilog2 m 1 + e
    let ulp := max (lg - f.mbits) f.emin
    let q := (inUnits m 1 e ulp).1
    let c := if q < 2 ^ f.mbits then q else (ulp - f.emin).toNat * 2 ^ f.mbits + q
    sb s + c

/-- The exact product (R99, R133): 0 × ∞ is invalid. -/
def mulV (x y : FVal) : FVal × Flags :=
  match x, y with
  | .nan, _ => (.nan, noFlags)
  | _, .nan => (.nan, noFlags)
  | .inf s, .inf t => (.inf (s != t), noFlags)
  | .inf s, .num t m _ => if m = 0 then (.nan, flagNV) else (.inf (s != t), noFlags)
  | .num s m _, .inf t => if m = 0 then (.nan, flagNV) else (.inf (s != t), noFlags)
  | .num s m e, .num t n k => (.num (s != t) (m * n) (e + k), noFlags)

/-- The signed integer of a magnitude brought to exponent k ≤ e. -/
def signedAt (s : Bool) (m : Nat) (e k : Int) : Int :=
  let v : Int := (m * 2 ^ (e - k).toNat : Nat)
  if s then -v else v

/-- The exact sum (R133): opposite infinities are invalid; an exact zero of opposite signs is +0, −0 under RDN. -/
def addV (mode : RMode) (x y : FVal) : FVal × Flags :=
  match x, y with
  | .nan, _ => (.nan, noFlags)
  | _, .nan => (.nan, noFlags)
  | .inf s, .inf t => if s = t then (.inf s, noFlags) else (.nan, flagNV)
  | .inf s, .num .. => (.inf s, noFlags)
  | .num .., .inf t => (.inf t, noFlags)
  | .num s m e, .num t n k =>
    if m = 0 ∧ n = 0 then (if s = t then .num s 0 0 else .num (mode == .rdn) 0 0, noFlags)
    else
      let c := min e k
      let v := signedAt s m e c + signedAt t n k c
      if v = 0 then (.num (mode == .rdn) 0 0, noFlags) else (.num (v < 0) v.natAbs c, noFlags)

/-- Round after an exact operation, its flags joined. -/
def finish (f : FFmt) (mode : RMode) (u : Nat) (x : FVal × Flags) : FVal × Flags :=
  let r := roundF f mode u x.1
  (r.1, x.2.or r.2)

/-- a + b, rounded once. -/
def fadd (f : FFmt) (mode : RMode) (u : Nat) (a b : FVal) : FVal × Flags := finish f mode u (addV mode a b)
/-- a − b, rounded once. -/
def fsub (f : FFmt) (mode : RMode) (u : Nat) (a b : FVal) : FVal × Flags := finish f mode u (addV mode a b.negate)
/-- a × b, rounded once. -/
def fmul (f : FFmt) (mode : RMode) (u : Nat) (a b : FVal) : FVal × Flags := finish f mode u (mulV a b)

/-- a × b + c, rounded once; 0 × ∞ is invalid even with a NaN addend (R133). -/
def ffma (f : FFmt) (mode : RMode) (u : Nat) (a b c : FVal) : FVal × Flags :=
  let p := mulV a b
  let s := addV mode p.1 c
  finish f mode u (s.1, p.2.or s.2)

/-- c − a × b, rounded once. -/
def ffms (f : FFmt) (mode : RMode) (u : Nat) (a b c : FVal) : FVal × Flags := ffma f mode u a.negate b c

/-- a ÷ b, rounded once (R161). -/
def fdiv (f : FFmt) (mode : RMode) (u : Nat) (a b : FVal) : FVal × Flags :=
  match a, b with
  | .nan, _ => (.nan, noFlags)
  | _, .nan => (.nan, noFlags)
  | .inf _, .inf _ => (.nan, flagNV)
  | .inf s, .num t _ _ => (.inf (s != t), noFlags)
  | .num s _ _, .inf t => (.num (s != t) 0 0, noFlags)
  | .num s m e, .num t n k =>
    if n = 0 then (if m = 0 then (.nan, flagNV) else (.inf (s != t), { dz := true }))
    else if m = 0 then (.num (s != t) 0 0, noFlags)
    else roundQ f (s != t) m n (e - k) false mode u

/-- Integer square root: the largest r with r × r ≤ n, found bit by bit from bit k down. -/
def isqrtFrom : Nat → Nat → Nat → Nat
  | 0, n, r => if (r + 1) * (r + 1) ≤ n then r + 1 else r
  | k + 1, n, r =>
    let c := r + 2 ^ (k + 1)
    isqrtFrom k n (if c * c ≤ n then c else r)

/-- floor(√n). -/
def isqrt (n : Nat) : Nat := isqrtFrom (Nat.log2 n / 2 + 1) n 0

/-- √a, rounded once (R161). The magnitude is taken to 64 bits below its leading bit and the rest goes to sticky. -/
def fsqrt (f : FFmt) (mode : RMode) (u : Nat) (a : FVal) : FVal × Flags :=
  match a with
  | .nan => (.nan, noFlags)
  | .inf s => if s then (.nan, flagNV) else (.inf false, noFlags)
  | .num s m e =>
    if m = 0 then (.num s 0 0, noFlags)
    else if s then (.nan, flagNV)
    else
      let odd := e % 2 == 1
      let m' := (if odd then 2 * m else m) * 2 ^ 128
      let e' := (if odd then e - 1 else e) / 2 - 64
      let r := isqrt m'
      roundQ f false r 1 e' (r * r != m') mode u

/-- a < b for values that are not NaN; −0 = +0 (R130). -/
def vlt (a b : FVal) : Bool :=
  match a, b with
  | .nan, _ => false
  | _, .nan => false
  | .inf s, .inf t => s && !t
  | .inf s, .num .. => s
  | .num .., .inf t => !t
  | .num s m e, .num t n k =>
    let c := min e k
    signedAt s m e c < signedAt t n k c

/-- a = b for values that are not NaN; −0 = +0. -/
def veq (a b : FVal) : Bool := !a.isNan && !b.isNan && !vlt a b && !vlt b a

/-- Lesser of two values, −0 below +0; a NaN operand gives NaN (R134). -/
def fminV (a b : FVal) : FVal :=
  if a.isNan || b.isNan then .nan
  else if vlt a b then a else if vlt b a then b else if a.neg then a else b

/-- Greater of two values, −0 below +0; a NaN operand gives NaN (R134). -/
def fmaxV (a b : FVal) : FVal :=
  if a.isNan || b.isNan then .nan
  else if vlt a b then b else if vlt b a then a else if a.neg then b else a

/-! ### The bit source (R110) -/

/-- Multiplication modulo 2^64 on naturals. -/
def mul64 (a b : Nat) : Nat := a * b % 2 ^ 64

/-- One round of Mix. -/
def mixRound (x k : Nat) : Nat := mul64 (Nat.xor x (x / 2 ^ 32)) k

/-- Mix(seed, stream, ctr) of R110, exactly as its pseudocode. -/
def mix (seed stream ctr : Nat) : Nat :=
  let x := Nat.xor (seed % 2 ^ 64) (mul64 stream 0x9E6C63D0676A9A99)
  let x := Nat.xor x (mul64 ctr 0xD6E8FEB86659FD93)
  let x := mixRound x 0xA3B195354A39B70D
  let x := mixRound x 0x8CB92BA72F3D8DD7
  let x := mixRound x 0xD1E53A6B0F47C2A9
  let x := Nat.xor x (x / 2 ^ 29)
  x / 2 ^ 48

/-- What a rounding needs: the resolved mode and the captured bit source (R58). -/
structure RCtx where
  mode : RMode
  seed : Word
  stream : Word
  ctr : Word
deriving DecidableEq, Repr

/-- Draw(lane) of R120; no draw is needed outside SR. -/
def RCtx.draw (c : RCtx) (lane : Nat) : Nat :=
  match c.mode with
  | .sr => mix c.seed.toNat c.stream.toNat ((c.ctr.toNat + lane) % 2 ^ 64)
  | _ => 0

/-! ### Conversions (R112, R113) -/

/-- Conversion of a value to a float format with sat (R112). E2M1 always clamps. -/
def cvtToF (f : FFmt) (mode : RMode) (u : Nat) (sat : Bool) (x : FVal) : FVal × Flags :=
  match f with
  | .e4m3 =>
    match x with
    | .nan => (.nan, noFlags)
    | .inf s => if sat then (f.maxFin s, flagSAT) else (.nan, flagNV)
    | .num s 0 _ => (.num s 0 0, noFlags)
    | .num s m e =>
      let r := roundGrid f s m 1 e false mode u
      if r.beyond f then (if sat then (f.maxFin s, { sat := true, nx := true }) else (.nan, { ov := true, nx := true }))
      else (.num s r.q r.ulp, { uf := r.tiny f && r.inexact, nx := r.inexact })
  | .e2m1 =>
    match x with
    | .nan => (.pzero, flagNV)
    | .inf s => (f.maxFin s, flagSAT)
    | .num _ 0 _ => (.pzero, noFlags)
    | .num s m e =>
      let r := roundGrid f s m 1 e false mode u
      if r.beyond f then (f.maxFin s, { sat := true, nx := true })
      else (if r.q = 0 then .pzero else .num s r.q r.ulp, { nx := r.inexact })
  | _ => roundF f mode u x

/-- The range of an integer type of w bits. -/
def intMin (signed : Bool) (w : Nat) : Int := if signed then -(2 ^ (w - 1) : Int) else 0
/-- The greatest value of an integer type of w bits. -/
def intMax (signed : Bool) (w : Nat) : Int := if signed then 2 ^ (w - 1) - 1 else 2 ^ w - 1

/-- The low w bits of an integer. -/
def lowBits (w : Nat) (i : Int) : Nat := (i % (2 ^ w : Int)).toNat

/-- An integer written into w bits with sat (R113, R162): low bits and no flag, or the nearer bound and SAT. -/
def intToInt (signed : Bool) (w : Nat) (sat : Bool) (i : Int) : Nat × Flags :=
  if sat then
    if i < intMin signed w then (lowBits w (intMin signed w), flagSAT)
    else if intMax signed w < i then (lowBits w (intMax signed w), flagSAT)
    else (lowBits w i, noFlags)
  else (lowBits w i, noFlags)

/-- Conversion of a float value to an integer type (R112). A value is beyond range when its rounded integer is: a negative fraction that rounds
to 0 is 0 with NX in an unsigned destination too (DEDUCED, log entry 51). -/
def cvtToInt (signed : Bool) (w : Nat) (mode : RMode) (u : Nat) (sat : Bool) (x : FVal) : Nat × Flags :=
  match x with
  | .nan => (0, flagNV)
  | .inf s => if sat then (lowBits w (if s then intMin signed w else intMax signed w), flagSAT) else (0, flagNV)
  | .num s m e =>
    let r := roundInt mode u s m e
    if r.1 < intMin signed w ∨ intMax signed w < r.1 then
      if sat then (lowBits w (if r.1 < intMin signed w then intMin signed w else intMax signed w), flagSAT)
      else (lowBits w r.1, flagNV)
    else (lowBits w r.1, { nx := r.2 })

/-- The signed or unsigned reading of w bits. -/
def readInt (signed : Bool) (w bits : Nat) : Int :=
  let b := bits % 2 ^ w
  if signed && 2 ^ (w - 1) ≤ b then (b : Int) - 2 ^ w else b

end Sys2Proof.Machine
end

