-- ==== Sys2Proof/Machine/State.lean ====
section
/-!
DEFINITION. The state: one core with its gang neighbours, the grove around it, and the package services. Everything is
plain data. Reset values are those of the spec; where it states none, the value is a log entry's (log entry 1).
-/
namespace Sys2Proof.Machine

/-- Memory in canonical form: addresses strictly rising, no entry equal to 0, which is what an unlisted address reads as
(DESIGN CHOICE, log entry 4). -/
abbrev Mem := List Host.Cell

/-- The canonical form of a memory whose addresses all reach lo. -/
def Mem.wfFrom (lo : Nat) : Mem → Bool
  | [] => true
  | (a, b) :: t => decide (lo ≤ a) && (b != 0) && Mem.wfFrom (a + 1) t

/-- The canonical form. -/
def Mem.wf (m : Mem) : Bool := Mem.wfFrom 0 m

/-! ### Registers (04_formats.md R53 to R59) -/

/-- A special class of a product, a lane or a plane's cell (10_vector_matrix.md R178, R185). -/
inductive Spec where
  | none | pinf | ninf | nan
deriving DecidableEq, Repr

/-- One accumulator lane with its side state (R178). -/
structure AccLane where
  v : BitVec 48 := 0
  ebl : BitVec 16 := 0
  scl : BitVec 8 := 0
  mark : Spec := .none
  poison : Bool := false
deriving DecidableEq, Repr

/-- One accumulator (R178). -/
structure Acc where
  ea : BitVec 16 := 0
  full : Bool := false
  lanes : Vector AccLane 128 := Vector.replicate 128 {}
deriving DecidableEq, Repr

/-- One loop counter with its start, exit and active bit (08_scalar.md R142 to R144); ord orders the active loops by the
time they became active. -/
structure Loop where
  cnt : BitVec 32 := 0
  start : Word := 0
  exit : Word := 0
  active : Bool := false
  ord : Nat := 0
deriving DecidableEq, Repr

/-- What an activation start fixes (02_execution.md R31): the register files and the control registers of activation scope. -/
structure Regs where
  pc : Word := 0
  s : Vector Word 32 := Vector.replicate 32 0
  p : BitVec 8 := 1
  v : Vector VWord 32 := Vector.replicate 32 0
  m : Vector Word 8 := Vector.ofFn fun i => if i = 0 then 0xFFFFFFFFFFFFFFFF else 0
  acc : Vector Acc 4 := Vector.replicate 4 {}
  lc : Vector Loop 4 := Vector.replicate 4 {}
  fpctl : Word := 0
  srseed : Word := 0
  srstream : Word := 0
  srctr : Word := 0
  wid : Word := 0
  aid : BitVec 24 := 0
  gangix : Nat := 0
  bartmo : Word := 0x100000
  tcause : Word := 0
  tpc : Word := 0
  tval : Word := 0
deriving DecidableEq, Repr

/-! ### Records and activations (02_execution.md R24, R25) -/

/-- A task record. A forked record is held until the accesses of core by that stand in hold, and those of its commands before
serial number bound, are performed (08_scalar.md R145); gang is the number of records that are dispatched as one unit with it
(22_scheduling_faults.md R335). -/
structure TaskRec where
  slot : BitVec 12
  cls : Fin 8
  pc : BitVec 48
  wid : Word
  join : Word
  args : Vector Word 5
  hold : List Nat
  bound : Nat
  by_ : Nat
  gang : Nat
deriving DecidableEq, Repr

/-- A layout record of eight captured registers (04_formats.md R78). -/
structure LRec where
  base : Word
  flagI : Bool
  flagS : Bool
  rsv : Nat
  ty : Nat
  e0 : Nat
  e1 : Nat
  e2 : Nat
  st1 : Int
  st2 : Int
  aux0 : Word
  aux1 : Word
deriving DecidableEq, Repr

/-- One micro-op of an operator slot (16_scan.md R260, R262). -/
structure MicroOp where
  op : Fin 16 := 0
  c : Fin 16 := 0
  b : Fin 16 := 0
  a : Fin 16 := 0
  t : Fin 8 := 0
deriving DecidableEq, Repr

/-- An operator slot (R258, R259). -/
structure OpSlot where
  valid : Bool := false
  nst : Nat := 0
  nin : Nat := 0
  out : BitVec 4 := 0
  idn : Vector (BitVec 32) 4 := Vector.replicate 4 0
  ops : Vector MicroOp 16 := Vector.replicate 16 {}
deriving DecidableEq, Repr

/-- A range of scratchpad bytes, from lo up to but not including hi. -/
structure Range where
  lo : Nat
  hi : Nat
deriving DecidableEq, Repr

/-- The stages of a command's clearing request (22_scheduling_faults.md R337). -/
inductive Grant where
  | notNeeded
  | toAsk (e : Nat)
  | asked
  | granted
deriving DecidableEq, Repr

/-- A translation-cache entry (22_scheduling_faults.md R353): the list that holds them stands in order of use, the last used first. -/
structure TlbEntry where
  tenant : BitVec 16
  vpage : Nat
  big : Bool
  pbase : Nat
  w : Bool
  x : Bool
deriving DecidableEq, Repr

/-- What the S engine keeps of a SCANC that has done its pass 1 (16_scan.md R270, R277): for each computed lane its reset mark and its local
prefixes, the last of them the aggregate; the staged flags; the lanes read from the carry record; and the carry in, once it has been taken
and cout handed on. -/
structure ScanWork where
  lanes : List (Nat × List (List Nat))
  fl : Flags
  record : List (List Nat) := []
  cin : Option (List (List Nat)) := none
deriving DecidableEq, Repr

/-- A command in a queue with its journal entry (01_device.md R9, 22_scheduling_faults.md R350): what it captured at issue
(04_formats.md R58, R79; 16_scan.md R264), the local ranges it declares (12_memory.md R197), the scalar registers it will
write, and how far it has come: the rows already counted, the translations that it has collected (R354), the flags of an NMRED
whose results are on their way (20_nearmem.md R331), and what a SCANC has done. mgmt marks a command of the management path. The instruction stands as its class, subop and fields (R70, R74). -/
structure Cmd where
  serial : Nat
  q : Queue
  cls : Nat
  sub : Nat
  x : XOp
  rc : RCtx
  sa : Word
  sb : Word
  sc : Word
  lrec : Option LRec
  rec2 : Option LRec
  op : Option OpSlot
  aid : BitVec 24
  wid : Word
  slot : BitVec 12
  base : Nat
  size : Nat
  g : Nat
  ix : Nat
  jid : Nat
  reads : List Range
  writes : List Range
  dst : List SReg
  grant : Grant
  gate : Bool
  fence : List Nat
  mser : Nat
  counted : List Nat
  abandoned : Bool
  pages : List TlbEntry := []
  pushed : Option Flags := none
  scan : Option ScanWork := none
  mgmt : Bool := false
deriving DecidableEq, Repr

/-- The sync word that a flit counts into: a scratchpad offset of the issuing core, or an actor-space address (R219). -/
inductive SyncAt where
  | own (p : Nat)
  | remote (addr : Word)
deriving DecidableEq, Repr

/-- What a posted access does at its destination (12_memory.md R203). -/
inductive PostKind where
  | store (bytes : List Byte)
  | atomic (op : AtomicArgs) (len : Nat)
  | flit (bytes : List Byte) (sync : Option SyncAt)
  | msg (m : MsgArgs)
  | destroy (slot : BitVec 12)
  | contribution (slot : BitVec 12) (tree : Nat) (wid : Word) (v : VWord)
deriving DecidableEq, Repr

/-- How far a posted access has come: a message whose record is reserved is landing, an access that has left for an actor beyond the
state is sent, a refused message is held (R281, R283). -/
inductive PostStage where
  | inFlight
  | sent
  | landing
  | held (listed : Bool)
  | performed (flags : Flags)
  | refused (why : Refused)
deriving DecidableEq, Repr

/-- A posted access of the core. n is the number of flits it counts as; q and ser are the queue and the serial number of the
command it belongs to, or the serial number that the next command will have. raw is the address as it was issued, said the id of the
actor that issued it (0: a task), ring the scratchpad address of the record that a message has reserved; mgmt marks one of the management path. -/
structure Posted where
  id : Nat
  near : Bool
  n : Nat
  addr : Word
  pa : Nat
  kind : PostKind
  stage : PostStage
  q : Option Queue
  ser : Nat
  raw : Word := addr
  said : BitVec 24 := 0
  ring : Option Nat := none
  mgmt : Bool := false
deriving DecidableEq, Repr

/-- The trap causes of 22_scheduling_faults.md R349, in the order of their codes. -/
inductive Cause where
  | none | illop | privop | ialign | aspace | align | lrange | xfault | memerr | wnack | adead | mown | macc | jaddr | dqfull
  | barto | waitto | gangerr | swbusy | qdead | nodecl | idxr | hnone | hlen | ccode | msgbig | noact | hbad | wbad | lkind
  | ltab | lclock | scslot | nmerr | utrap
deriving DecidableEq, Repr

/-- A trap reported to the core and not yet taken (R347): cause, value, the queue when an engine command caused it, and the cycle
in which it was reported. mgmt marks one of a command or an access of the management path, which goes to Phopol (R358). -/
structure Deferred where
  cause : Cause
  tval : Word
  q : Option Queue
  at_ : Nat
  mgmt : Bool := false
deriving DecidableEq, Repr

/-- What holds issue: the answer to an instruction's own access (08_scalar.md R138, R146; 12_memory.md R216), a generation of the
sync word at scratchpad offset p, a barrier's or a ride phase's release (R209, R212; 16_scan.md R272), or, once a JOIN or YIELD has done its part, the commits and
counts of END. -/
inductive AwaitKind where
  | load (size : Nat) (signed : Bool) (d : SReg)
  | atomic (a : AtomicArgs) (d : SReg)
  | join (target : Word)
  | ringSize (key : Word)
  | spawn (d : SReg) (raw : List Byte) (wid : Word)
  | launch (d : SReg) (raw : List Byte) (comp notify : Word) (ntype : Nat)
  | gen (p g : Nat) (d : SReg)
  | bar (idx : Nat)
  | rbar (ch : Nat)
  | ending
deriving DecidableEq, Repr

/-- The access that holds issue, its address, the length of the instruction that made it, and whether its request has gone out: one of
a pair held at its source has not (26_system.md R388). -/
structure Await where
  kind : AwaitKind
  addr : Word
  len : Nat
  out : Bool := true
deriving DecidableEq, Repr

/-- An activation's source record. -/
inductive ActSrc where
  | task (r : TaskRec)
  | message (aid : BitVec 24) (off : Nat)
deriving DecidableEq, Repr

/-- The running activation (02_execution.md R23, R25): its retained record, launch slot and class, the bounds of carried code
(18_messages.md R289), the retries made (R50), SRCTR at its start (R32), the core's first command serial number of it, and the local range its addresses reach (R28); rs is the retry-safe bit of the handler entry as it
was read at dispatch (R286); split is the split target of its GANG, g the gang size, arrived the tag it waits with (R192); barHold is one more than the
index of a BAR that has arrived and not completed (12_memory.md R212, 24_debug.md R370), rbar the phases RBAR waits for. -/
structure Activation where
  src : ActSrc
  slot : BitVec 12
  cls : Fin 8
  carried : Option Range
  rs : Bool
  retries : Nat
  ctr0 : Word
  base : Nat
  size : Nat
  split : Word
  g : Nat
  arrived : Option (BitVec 16)
  rbar : List (Nat × Nat)
  first : Nat
  barHold : Nat
deriving DecidableEq, Repr

/-! ### Actors and mailboxes (02_execution.md R26; 18_messages.md) -/

/-- A record of a mailbox ring (R281, R282, R286): its place, its header, the payload on its way, the sending core and number of
a message that a core of the state posted, and how far it has come. -/
structure MRec where
  off : Nat
  size : Nat
  pad : Bool
  filed : Fin 8
  typ : Fin 32
  len : Nat
  sender : BitVec 24
  spkg : Byte
  ord : Bool
  h0 : Word
  h1 : Word
  payload : List Byte
  own : Option (Nat × Nat)
  score : Nat
  landed : Bool
  dispatched : Bool
  disposed : Bool
deriving DecidableEq, Repr

/-- A carry: the lanes 0 to 15, each its components (16_scan.md R269). -/
abbrev Carry := List (List (BitVec 32))

/-- A member's place on a ride chain (16_scan.md R268 to R273): its position, the chain's length, the rounds committed, the
RBAR phases arrived in and released, its hop buffer: the predecessor's carries in the order of their rounds, and the rounds handed on. -/
structure Ride where
  pos : Nat
  len : Nat
  rounds : Nat
  arrived : Nat
  released : Nat
  hop : List Carry
  sent : Nat := 0
deriving DecidableEq, Repr

/-- An actor's arrivals at one barrier index (12_memory.md R212). -/
structure BarMember where
  idx : Nat
  arrived : Nat
deriving DecidableEq, Repr

/-! ### The matrix macro's planes (10_vector_matrix.md R178) -/

/-- One cell of a B plane. -/
structure PCell where
  v : BitVec 16
  mark : Spec
deriving DecidableEq, Repr

/-- One column of a B plane: its cells from row 0 up (rows beyond the list are 0 with no mark), exponent and scale. -/
structure PCol where
  cells : List PCell
  eb : BitVec 16
  sc : BitVec 8
deriving DecidableEq, Repr

/-- A B plane: its columns from column 0 up (columns beyond the list have cells 0, EB 0 and SC 0x7F), the record type and width of the MLDB that was
performed last, and those of the MLDB issued last (R183). -/
structure Plane where
  cols : List PCol := []
  ty : Nat := 0
  aw : Nat := 0
  issuedTy : Nat := 0
  issuedAw : Nat := 0
deriving DecidableEq, Repr

/-- A context image (22_scheduling_faults.md R344; 18_messages.md R292): its parts mask, then what each part holds. REG: the
registers, the activation with its gang and its answer still to come, traps reported to it, and the NMU's status word; ACC: the
accumulators in regs; QUEUE and SCAN: the commands saved whole and the ride places; PLANES; REGION: the
actor's region and its control state, law registrations as offsets into it, and LAWNOW. tag tells a task's image from every other. -/
structure Image where
  parts : BitVec 6
  aid : BitVec 24
  regs : Regs
  act : Option Activation
  ganged : Bool
  gseq : Nat
  await : Option Await
  deferred : List Deferred
  status : Word
  cmds : List Cmd
  planes : List Plane
  shared : Bool
  region : List Byte
  handlers : List (BitVec 128)
  windows : List Word
  cmask : BitVec 8
  recs : List MRec
  head : Nat
  tail : Nat
  regions : List Range
  rides : List (Option Ride)
  lawnow : BitVec 48
  tag : Nat
deriving DecidableEq, Repr

/-- A resident actor. evict marks one that Phopol evicts when its activation is over or saved; holding are the accesses of its
holding queue that a reload has not yet performed (18_messages.md R292, R293). early are carries that came before its RIDE, each
with its chain (16_scan.md R269). -/
structure Actor where
  aid : BitVec 24
  wid : Word
  slot : BitVec 12
  base : Nat
  size : Nat
  ringK : Nat
  head : Nat := 0
  tail : Nat := 0
  recs : List MRec := []
  handlers : Vector (BitVec 128) 32 := Vector.replicate 32 0
  windows : Vector Word 8 := Vector.replicate 8 0
  cmask : BitVec 8 := 0
  seed : Word := 0
  stream : Word := 0
  ctr : Word := 0
  mode : Fin 8 := 0
  rides : Vector (Option Ride) 2 := Vector.replicate 2 none
  early : List (Nat × Carry) := []
  bars : List BarMember := []
  doomed : Bool := false
  evict : Bool := false
  holding : List NetAccess := []
deriving DecidableEq, Repr

/-! ### The matrix macro (10_vector_matrix.md R178) -/

/-- The macro: planes, owner and shared bit (R30, R178); resFail are the lanes (accumulator, lane) whose residue fails twice
at the end of the next pass (R188): the storage error's own data, empty unless such an error stands. -/
structure Macro where
  planes : Vector Plane 2 := Vector.replicate 2 {}
  owner : Option (BitVec 24) := none
  shared : Bool := false
  resFail : List (Nat × Nat) := []
deriving DecidableEq, Repr

/-! ### The NMU (20_nearmem.md R316) -/

/-- One loop level of the NMU: the runs left, the first entry of the body and the entry after it. -/
structure NLoop where
  left : Nat
  start : Nat
  stop : Nat
deriving DecidableEq, Repr

/-- A run: the command that issued it, its arguments and sync word, where it stands, the local range, actor and launch of its
issuer, the pushes made and counted (R321, R323), whether it waits for the clearing (R325), and whether it has ended. -/
structure NRun where
  serial : Nat
  start : Nat
  sa : Word
  sb : Word
  sync : Option Nat
  entry : Nat
  base : Nat
  size : Nat
  aid : BitVec 24
  slot : BitVec 12
  pushes : Nat
  counted : Nat
  replayed : Bool
  waiting : Bool
  ended : Bool
deriving DecidableEq, Repr

/-- The NMU: instruction buffer with the health of each parity bit, the entries whose parity fails after a reload too (the
error's own data, R322), shadow copy, registers, loops, flags, the run in progress and the status word of R326. -/
structure Nmu where
  buf : Vector (IWord × Bool) 96 := Vector.replicate 96 (0, true)
  stuck : List Nat := []
  shadow : Vector IWord 96 := Vector.replicate 96 0
  n : Vector (BitVec 256) 24 := Vector.replicate 24 0
  a : Vector (BitVec 32) 4 := Vector.replicate 4 0
  loop0 : Option NLoop := none
  loop1 : Option NLoop := none
  flags : Flags := {}
  run : Option NRun := none
  status : Word := 7
deriving DecidableEq, Repr

/-! ### Statistics, debug, storage -/

/-- Histogram contexts and provenance (06_numbers.md R116 to R118; 24_debug.md R378). -/
structure Stats where
  bins : Vector (Vector (BitVec 32) 64) 16 := Vector.replicate 16 (Vector.replicate 64 0)
  off : BitVec 16 := 0
  maxmag : Vector (BitVec 32) 16 := Vector.replicate 16 0
  nanseen : BitVec 16 := 0
  prov : Vector Word 8 := Vector.replicate 8 0
deriving DecidableEq, Repr

/-- A stop on its way to a core (24_debug.md R366 to R368): its cause and comparator, and the cycle in which it arrives. -/
structure Stop where
  cause : Nat
  n : Nat
  at_ : Nat
deriving DecidableEq, Repr

/-- The debug module (24_debug.md R363 to R372). stop is a stop that is not yet taken; skid counts the instructions issued since it
arrived; step is the hold of a step in progress; pass lets the next instruction pass its own breakpoint after a run or a step; conds
and recs are the trace conditions and records of the present cycle (R371 to R373). -/
structure Debug where
  ctl : Word := 0
  stat : Word := 0
  dpc : Word := 0
  bp : Vector Word 4 := Vector.replicate 4 0
  wp : Vector Word 4 := Vector.replicate 4 0
  whit : Vector Word 4 := Vector.replicate 4 0
  trcfg : Word := 0
  trig : Bool := false
  stop : Option Stop := none
  skid : Nat := 0
  step : Bool := false
  pass : Bool := false
  conds : List Nat := []
  recs : List (Nat × Word) := []
deriving DecidableEq, Repr

/-- Storage health of the scratchpad (22_scheduling_faults.md R355, R356): bytes whose parity fails, marked banks, corrected
errors of each bank since grove reset. -/
structure Health where
  bad : List Nat := []
  failed : BitVec 64 := 0
  corrected : Vector Nat 64 := Vector.replicate 64 0
deriving DecidableEq, Repr

/-- A listing of the room list (18_messages.md R283): who was refused at which actor. -/
structure Listing where
  src : Source
  aid : BitVec 24
deriving DecidableEq, Repr

/-- One core. sliceRows are the activation counts of its slice's coppice rows (20_nearmem.md R309), coppiceBad the 32-byte units of its
coppice rows with an error that cannot be corrected (empty unless such an error stands). pause are the cycles that a PAUSE still
holds issue (08_scalar.md R149); icache are the aligned 16-byte fetch blocks that its instruction cache has taken, by physical address ÷ 16, the last taken first (01_device.md R5,
04_formats.md R62; 08_scalar.md R153); gseq counts the instructions its gang has issued since it joined (it names the commands of one joint
instruction); notices are the room notices on their way to it; halted is a pre-empted core whose context is not yet saved; mgmt marks an
instruction of the management path in progress, and mgmtWord one that has been submitted; begun tells that the core has dispatched since it was
assigned or freed by a pre-emption. -/
structure Core where
  ix : Fin 32 := 0
  pkgIx : Nat := 0
  regs : Regs := {}
  act : Option Activation := none
  await : Option Await := none
  hold : Bool := false
  pause : Nat := 0
  icache : List (Nat × List Byte) := []
  ganged : Bool := false
  gseq : Nat := 0
  deferred : List Deferred := []
  kills : List KillReq := []
  preempt : Bool := false
  halted : Bool := false
  mgmt : Bool := false
  mgmtWord : Option (List IWord) := none
  retry : Option Activation := none
  loopOrd : Nat := 0
  traps : Nat := 0
  cmds : List Cmd := []
  serial : Nat := 0
  mIssued : Nat := 0
  posted : List Posted := []
  postId : Nat := 0
  scratch : Mem := []
  health : Health := {}
  actors : List (Option Actor) := List.replicate 16 none
  served : Vector Nat 8 := Vector.replicate 8 16
  room : List Listing := []
  notices : List (BitVec 24) := []
  ringSizes : List (Word × Nat) := []
  slots : Vector OpSlot 8 := Vector.replicate 8 {}
  mac : Macro := {}
  nmu : Nmu := {}
  coppice : Mem := []
  coppiceBad : List Nat := []
  sliceBase : Nat := 0
  sliceRows : List (Nat × Nat) := []
  stats : Stats := {}
  dbg : Debug := {}
  acctCount : Vector Nat 64 := Vector.replicate 64 0
  acctSum : Vector Nat 64 := Vector.replicate 64 0
  counters : Vector Nat 6 := Vector.replicate 6 0
  troot : Word := 0
  tenant : BitVec 16 := 0
  launchSlot : BitVec 12 := 0
  begun : Bool := false
deriving DecidableEq, Repr

/-! ### The grove (01_device.md R11) -/

/-- How law time moves (14_lawstate.md R228). -/
inductive LawMode where
  | divider (d : Nat)
  | ltickOnly
deriving DecidableEq, Repr

/-- A sweep region (R242): its scratchpad bytes on the core, its owner (0: a task) and its owner's region base; parked is the tag of
the image that a pre-empted task that registered it is saved in. -/
structure Sweep where
  core : Fin 32
  aid : BitVec 24
  base : Nat
  bytes : Range
  parked : Option Nat := none
deriving DecidableEq, Repr

/-- A crossing handed to the crossing unit (R239, R240): stored fields, entry, age, LAWNOW read, place and owner. -/
structure Crossing where
  lo : Word
  hi : Word
  entry : BitVec 256
  age : Nat
  lawnow : BitVec 48
  offset : BitVec 32
  owner : BitVec 24
  slot : BitVec 12
  sweep : Bool
deriving DecidableEq, Repr

/-- A crossing message held by back-pressure (R241): its target, the launch of the word's owner, the message. -/
structure HeldCross where
  tgt : BitVec 24
  slot : BitVec 12
  msg : MsgArgs
deriving DecidableEq, Repr

/-- A waiting clearing request (22_scheduling_faults.md R337). -/
structure ClearReq where
  core : Fin 32
  serial : Nat
  e : Nat
deriving DecidableEq, Repr

/-- A record of a deque or of the overflow ring: a task, or the resume record of a pre-empted task or of a gang's tasks, the
leader's first (R346). -/
inductive QRec where
  | task (r : TaskRec)
  | resume (ims : List Image)
deriving DecidableEq, Repr

/-- The grove around the core. sweepAt is the place of the sweeper's next word among those it visits (14_lawstate.md R242). -/
structure Grove where
  lawnow : BitVec 48 := 0
  lawMode : LawMode := .ltickOnly
  lawTab : Vector (BitVec 256) 256 := Vector.replicate 256 0
  sweeps : Vector (Option Sweep) 16 := Vector.replicate 16 none
  sweepAt : Nat := 0
  crossings : List Crossing := []
  crossSeq : BitVec 16 := 0
  crossHeld : List HeldCross := []
  cnow : Int := 0
  cap : Nat := 0
  rate : Nat := 0
  reqs : List ClearReq := []
  tlb : List TlbEntry := []
  deques : Vector (List QRec) 32 := Vector.replicate 32 []
  overflow : List QRec := []
  overflowCap : Nat := 0
  cycle : Nat := 0
  trace : List (Word × Word) := []
  trlost : Nat := 0
  gateLost : Nat := 0
  traceRing : Nat := 0
  on : Bool := false
deriving DecidableEq, Repr

/-! ### The package -/

/-- A launch header's fields (02_execution.md R33); the last three are its hints to the placer. -/
structure Header where
  code : Word
  lawMode : Nat
  retrySafe : Bool
  n : Nat
  cls : Nat
  gangCode : Nat
  actors : Bool
  w : List Nat
  pol : List Nat
  cnt : List Nat
  div : Nat
  seed : Word
  mode : Nat
  himg : Word
  ringK : Nat
  units : Nat
  plen : Nat
  htype : Nat
  paddr : Word
  ride : List (Option Nat)
  decl : Word
  nbar : Nat
  ntree : Nat
  stackMask : Nat := 0
  affinity : Nat := 7
  nearTo : Word := 0
deriving DecidableEq, Repr

/-- A reduction-tree declaration (12_memory.md R210). -/
structure TreeDecl where
  fan : Nat
  ty : Nat
  op : Nat
  level : Nat
  result : Nat
  sync : Nat
deriving DecidableEq, Repr

/-- The report of a launch (02_execution.md R52; 18_messages.md R303). -/
structure Report where
  state : Nat
  tcause : Word
  tpc : Word
  tval : Word
  wid : Word
deriving DecidableEq, Repr

/-- A launch that holds a slot (02_execution.md R38). next counts the initial items already made, killed are
the prefixes of which no further item is made (R51); far tells that the placer gave tasks to another grove (01_device.md R21); report stands once it is
complete or aborted; comp, notify and ntype are LAUNCH's operands, slice the place of its core's slice (R302); attach is the debug attachment, given the cores that
the placer gave the launch (24_debug.md R380). -/
structure Launch where
  slot : BitVec 12
  tenant : BitVec 16
  hdr : Header
  trees : List TreeDecl
  bars : List Nat
  next : Nat
  killed : List (Word × Nat)
  ign : Nat
  byDevice : Bool
  comp : Word
  notify : Word
  ntype : Nat
  slice : Nat
  attach : Option Word
  given : List Nat
  report : Option Report
  far : Bool := false
deriving DecidableEq, Repr

/-- Where an actor stands (02_execution.md R51; 18_messages.md R292). -/
inductive Where where
  | here
  | away (near : Bool)
  | evicted
  | destroyed
deriving DecidableEq, Repr

/-- The directory's entry of an actor. -/
structure DirEnt where
  aid : BitVec 24
  wid : Word
  slot : BitVec 12
  at_ : Where
  ringK : Nat
deriving DecidableEq, Repr

/-- What carries a barrier instance (12_memory.md R211): a channel of the grove or of another grove, or a canopy group. -/
inductive BarUnit where
  | channel (inGrove : Bool)
  | group
deriving DecidableEq, Repr

/-- A barrier instance (12_memory.md R211 to R213): launch, index, a member's WID and the lowest bit of the prefix its
members share, the phases released, whether it broke, and what carries it. -/
structure BarInst where
  slot : BitVec 12
  idx : Nat
  share : Word
  low : Nat
  phase : Nat
  broken : Bool
  unit : BarUnit
deriving DecidableEq, Repr

/-- A tree's state (R222): launch, index, a member's WID and the lowest bit of the prefix its members
share, and the contributions of the rounds not yet totalled,
each the round, the member's WID and its vector. -/
structure TreeInst where
  slot : BitVec 12
  idx : Nat
  share : Word
  low : Nat
  parts : List (Nat × Word × VWord)
  rounds : Nat
deriving DecidableEq, Repr

/-- A carry on its way to an item of a chain that is not yet made (16_scan.md R269): launch, WID, chain. -/
structure Stray where
  slot : BitVec 12
  wid : Nat
  ch : Nat
  carry : Carry
deriving DecidableEq, Repr

/-- An interleaved allocation (01_device.md R21; 12_memory.md R202): its pages' physical addresses begin at pa; spread are the 4 KiB granules of
device memory in which its own granules stand, in order (empty: each at its own physical address). -/
structure Alloc where
  tenant : BitVec 16
  va : Nat
  pa : Nat
  pages : Nat
  w : Bool
  x : Bool
  spread : List Nat := []
deriving DecidableEq, Repr

/-- An evicted actor (18_messages.md R292): the saved actor, its image, the accesses held for it in order, and how many its holding
queue takes. -/
structure Evicted where
  actor : Actor
  im : Image
  holding : List NetAccess
  room : Nat
deriving DecidableEq, Repr

/-- An answer of Phopol to a request (26_system.md R385). placed is the relation of an allocation: the 4 KiB granules of device memory in
which its own stand, in order (12_memory.md R202). -/
inductive Answer where
  | notReady
  | refused (why : Int)
  | accepted
  | placed (cells : List Nat)
  | slot (n : Nat)
  | bytes (b : List Byte)
  | report (r : Report) (ign : Nat)
  | attest (signed sig : List Byte)
  | fault (c : Cause) (tval : Word)
  | debug (v : Word)
  | loop (l : Loop)
deriving DecidableEq, Repr

/-- A fabric port (26_system.md R387, R388): its state, whether its pairs are held at their sources, the packages that it leads to, known
from the bring-up on, and, by package, the ports that the pairs it was given first have moved to. -/
structure Port where
  up : Bool := false
  failed : Bool := false
  held : Bool := false
  leads : List Nat := []
  moved : List (Nat × Nat) := []
deriving DecidableEq, Repr

/-- A code load (26_system.md R385, R386): its tenant, its address ranges in the interleaved view, and its digest. -/
structure CodeLoad where
  tenant : BitVec 16
  parts : List Range
  digest : BitVec 512
deriving DecidableEq, Repr

/-- The tenant of the debug requests that follow, and the cores of the grove that it has named to them, a bit each (24_debug.md R369,
26_system.md R385). -/
structure Named where
  tenant : BitVec 16 := 0
  cores : BitVec 32 := 0
deriving DecidableEq, Repr

/-- The package services. named is what the debug requests act for; bootEntry is the address that the management cores started at (R382);
tables counts the page tables that Phopol has made; waiting are the launches for whose report a host waits and evicting the actors whose eviction it waits for, one entry for each request; gone are the ids of the actors destroyed since the
ring-size caches were last cleared (18_messages.md R294); acts are the activation counts of data rows, each by the row's physical address ÷ 1,024 (20_nearmem.md R309). -/
structure Pkg where
  bootStatus : Nat := 0
  started : Bool := false
  bootEntry : Nat := 0
  m0 : BitVec 512 := 0
  version : Nat := 0
  ready : Bool := false
  domain : Option (BitVec 8) := none
  capW : Nat := 2400
  launches : List Launch := []
  dir : List DirEnt := []
  dmem : Mem := []
  badUnits : List Nat := []
  acts : List (Nat × Nat) := []
  allocs : List Alloc := []
  roots : List (BitVec 16 × Nat) := []
  tables : Nat := 0
  loads : List CodeLoad := []
  waiting : List (BitVec 12) := []
  evicting : List (BitVec 24) := []
  answers : List Answer := []
  gone : List (BitVec 24) := []
  ports : Vector Port 64 := Vector.replicate 64 {}
  bars : List BarInst := []
  trees : List TreeInst := []
  strays : List Stray := []
  evicted : List Evicted := []
  images : List (Nat × Image) := []
  named : Named := {}
deriving DecidableEq, Repr

/-- Which agent the next step moves: the core, a gang neighbour (numbered from 1), a member's NMU (0: the core's), or what stands
around the cores: network, engines, grove and package. -/
inductive Turn where
  | core
  | peer (k : Nat)
  | nmu (k : Nat)
  | world
deriving DecidableEq, Repr

/-- The machine: the core the rules are read from, the neighbours of its gang, the grove and the package. agenda holds the
events that come from outside or out of their default turn, each with the number of the machine's own steps that pass before it;
turn, slack and fresh are the model's own: whose move is next, how many of the world's turns do nothing but pass a cycle, which
free value is next. -/
structure State where
  core : Core
  peers : List Core
  grove : Grove
  pkg : Pkg
  agenda : List (Nat × Instr)
  turn : Turn
  slack : Nat
  fresh : Nat
deriving DecidableEq, Repr

/-- The machine right after power-on or package reset, before the boot ROM has run (26_system.md R382). -/
def State.reset : State :=
  { core := {}, peers := [], grove := {}, pkg := {}, agenda := [], turn := .core, slack := 0, fresh := 0 }

/-- Why the machine stops with a fault. -/
inductive Fault where
  /-- Raised by step when the turn names a gang neighbour that the state does not hold: no run reaches such a state (the
  turn is set from the list of neighbours). Safe: the machine stops. -/
  | noSuchNeighbour
deriving DecidableEq, Repr

/-- Why an instruction or an event has no meaning in a state. -/
inductive Refusal where
  /-- Raised by exec's arms that have no meaning yet. Safe. -/
  | notModelled (mnemonic : String)
  /-- Raised by an event that cannot come about in the state (an acknowledgement of an access that is not outstanding, a
  dispatch on a busy core, a grant with no request). Safe: the spec gives such an event no occurrence there. -/
  | notDue
deriving DecidableEq, Repr

/-- The three outcomes over this state. -/
abbrev Out := Host.Outcome State Fault Refusal

end Sys2Proof.Machine
end

