-- ==== Sys2Proof/Machine/Ops.lean ====
section
/-!
DEFINITION. The named operations over memory, registers, addresses, counts, traps and issue that the meanings share.
-/
namespace Sys2Proof.Machine

/-! ### Memory -/

/-- One byte. -/
def Mem.read : Mem → Nat → Byte
  | [], _ => 0
  | (k, v) :: t, a => if k = a then v else Mem.read t a

/-- One byte written; the canonical form stands. -/
def Mem.write : Mem → Nat → Byte → Mem
  | [], a, b => if b = 0 then [] else [(a, b)]
  | (k, v) :: t, a, b =>
    if a < k then (if b = 0 then (k, v) :: t else (a, b) :: (k, v) :: t)
    else if a = k then (if b = 0 then t else (a, b) :: t)
    else (k, v) :: Mem.write t a b

/-- n bytes from a up. -/
def Mem.readN (m : Mem) (a n : Nat) : List Byte := (List.range n).map fun i => m.read (a + i)

/-- Bytes written from a up. -/
def Mem.writeN (m : Mem) (a : Nat) : List Byte → Mem
  | [] => m
  | b :: t => Mem.writeN (m.write a b) (a + 1) t

/-! ### Registers (04_formats.md R53, R54) -/

/-- A scalar register; s0 reads 0. -/
def Regs.rs (r : Regs) (i : SReg) : Word := if i = 0 then 0 else r.s[i]
/-- A scalar register written; a write to s0 is discarded. -/
def Regs.ws (r : Regs) (i : SReg) (v : Word) : Regs := if i = 0 then r else { r with s := r.s.set i v }
/-- A predicate; p0 reads true. -/
def Regs.rp (r : Regs) (i : PReg) : Bool := i == 0 || r.p.getLsbD i
/-- A predicate written; a write to p0 is discarded. -/
def Regs.wp (r : Regs) (i : PReg) (b : Bool) : Regs :=
  if i = 0 then r else { r with p := BitVec.ofNat 8 (setBit r.p.toNat i b) }
/-- A lane mask; m0 reads all ones. -/
def Regs.rm (r : Regs) (i : MReg) : Word := if i = 0 then 0xFFFFFFFFFFFFFFFF else r.m[i]
/-- A lane mask written; a write to m0 is discarded. -/
def Regs.wm (r : Regs) (i : MReg) (v : Word) : Regs := if i = 0 then r else { r with m := r.m.set i v }
/-- A vector register. -/
def Regs.rv (r : Regs) (i : VReg) : VWord := r.v[i]
/-- A vector register written. -/
def Regs.wv (r : Regs) (i : VReg) (x : VWord) : Regs := { r with v := r.v.set i x }

/-- The core's registers changed. -/
def State.mapRegs (s : State) (f : Regs → Regs) : State := { s with core := { s.core with regs := f s.core.regs } }
/-- The core changed. -/
def State.mapCore (s : State) (f : Core → Core) : State := { s with core := f s.core }
/-- A scalar register of the core. -/
def State.rs (s : State) (i : SReg) : Word := s.core.regs.rs i
/-- A scalar register of the core written. -/
def State.ws (s : State) (i : SReg) (v : Word) : State := s.mapRegs fun r => r.ws i v
/-- A free word, and the counter advanced. -/
def State.free (s : State) : Word × State := (Config.freeWord s.fresh, { s with fresh := s.fresh + 1 })

/-- Flags set in FPCTL; they are sticky (R59). -/
def Regs.accrue (r : Regs) (f : Flags) : Regs := { r with fpctl := r.fpctl ||| BitVec.ofNat 64 f.toNat }

/-- The rounding mode a code resolves to: DYN reads FPCTL (06_numbers.md R107). -/
def Regs.mode (r : Regs) (rm : Nat) : RMode :=
  ((if rm = 7 then rmodeOf (r.fpctl.toNat % 8) else rmodeOf rm).getD .rne)

/-- What an instruction captures of the rounding (R58). -/
def Regs.capture (r : Regs) (rm : Nat) : RCtx := { mode := r.mode rm, seed := r.srseed, stream := r.srstream, ctr := r.srctr }

/-- SRCTR advanced by n (06_numbers.md R111). -/
def Regs.advCtr (r : Regs) (n : Nat) : Regs := { r with srctr := r.srctr + BitVec.ofNat 64 n }

/-- SRCTR as an atomic leaves it: an AFADD (operation 10) under SR (mode 5) takes one lane (12_memory.md R217). -/
def Regs.atomicCtr (r : Regs) (a : AtomicArgs) : Regs := if a.op = 10 ∧ a.rm = 5 then r.advCtr 1 else r

/-! ### Members of the gang -/

/-- Members k and the core change places; member 0 is the core. -/
def focus (k : Nat) (s : State) : State :=
  match k with
  | 0 => s
  | j + 1 =>
    match s.peers[j]? with
    | some c => { s with core := c, peers := s.peers.set j s.core }
    | none => s

/-- Two cores are members of one joined gang: they stand as far apart as their places in it (02_execution.md R39, R40). -/
def Core.mate (c d : Core) : Bool := c.ganged && d.ganged && c.ix.val + d.regs.gangix == d.ix.val + c.regs.gangix

/-- The core leads a joined gang, or is in none. -/
def Core.leads (c : Core) : Bool := !c.ganged || c.regs.gangix == 0

/-- A core put among others in the order of their distance from core ix on. -/
def putFrom (ix : Fin 32) (c : Core) : List Core → List Core
  | [] => [c]
  | d :: t => if (c.ix - ix).val < (d.ix - ix).val then c :: d :: t else d :: putFrom ix c t

/-- All cores the state holds. -/
def State.cores (s : State) : List Core := s.core :: s.peers

/-- The state as core ix sees it: that core first, and the others in the order of their distance from it; a core that the state
does not hold changes nothing. -/
def State.facing (s : State) (ix : Fin 32) : State :=
  match s.cores.foldr (putFrom ix) [] with
  | c :: t => if c.ix = ix then { s with core := c, peers := t } else s
  | [] => s

/-- Every core the state holds changed. -/
def State.mapCores (s : State) (f : Core → Core) : State := { s with core := f s.core, peers := s.peers.map f }

/-! ### Actors -/

/-- The place of an actor among resident ones, from place k on. -/
def findActor (aid : BitVec 24) : List (Option Actor) → Nat → Option (Nat × Actor)
  | [], _ => none
  | none :: t, k => findActor aid t (k + 1)
  | some a :: t, k => if a.aid = aid then some (k, a) else findActor aid t (k + 1)

/-- A resident actor of a core. -/
def Core.actor (c : Core) (aid : BitVec 24) : Option Actor := (findActor aid c.actors 0).map Prod.snd

/-- A resident actor changed. -/
def Core.mapActor (c : Core) (aid : BitVec 24) (f : Actor → Actor) : Core :=
  { c with actors := c.actors.map fun o => o.map fun a => if a.aid = aid then f a else a }

/-- The running activation's actor. -/
def Core.self (c : Core) : Option Actor := if c.regs.aid = 0 then none else c.actor c.regs.aid

/-- The member index and actor of an actor that is resident on one of the cores. -/
def residentAt (aid : BitVec 24) : List Core → Nat → Option (Nat × Actor)
  | [], _ => none
  | c :: t, k =>
    match c.actor aid with
    | some a => some (k, a)
    | none => residentAt aid t (k + 1)

/-- The directory's entry of an actor. -/
def Pkg.entry (p : Pkg) (aid : BitVec 24) : Option DirEnt := p.dir.find? fun e => e.aid == aid

/-- A launch by its slot. -/
def Pkg.launch (p : Pkg) (slot : BitVec 12) : Option Launch := p.launches.find? fun l => l.slot == slot

/-- A launch changed. -/
def Pkg.mapLaunch (p : Pkg) (slot : BitVec 12) (f : Launch → Launch) : Pkg :=
  { p with launches := p.launches.map fun l => if l.slot = slot then f l else l }

/-! ### Addresses (04_formats.md R81) -/

/-- What an address names: local bytes, a virtual address, a physical address of the own slice, or an offset into an actor's
windows, in this package (none) or another. -/
inductive Place where
  | loc (off : Nat)
  | inter (va : Nat)
  | linear (pa : Nat)
  | actor (pkg : Option Nat) (aid : BitVec 24) (off : Nat)
deriving DecidableEq, Repr

/-- The physical address of a byte of the core's slice (DESIGN CHOICE: the banks lie one after another, log entry 5). -/
def slicePa (c : Core) (bank off : Nat) : Nat := c.sliceBase + bank * 0xC00000 + off

/-- The view of an address; none is ASPACE. -/
def placeOf (s : State) (ea : Word) : Option Place :=
  let v := ea.toNat
  match bitsOf v 60 4 with
  | 0 => some (.loc (bitsOf v 0 60))
  | 1 => if bitsOf v 48 12 = 0 then some (.inter (bitsOf v 0 48)) else none
  | 2 =>
    if bitsOf v 27 33 = 0 ∧ bitsOf v 0 24 < 0xC00000 then some (.linear (slicePa s.core (bitsOf v 24 3) (bitsOf v 0 24)))
    else none
  | 4 =>
    let p := bitsOf v 52 8
    let aid := BitVec.ofNat 24 (bitsOf v 20 24)
    let off := bitsOf v 0 20
    if bitsOf v 44 8 ≠ 0 ∨ aid = 0 then none
    else if p = 0xFF ∨ s.pkg.domain = some (BitVec.ofNat 8 p) then some (.actor none aid off)
    else if p ≤ 0xBF then some (.actor (some p) aid off)
    else none
  | _ => none

/-- An actor-space address of this package. -/
def actorAddr (aid : BitVec 24) (off : Nat) : Word := BitVec.ofNat 64 (0x4FF * 2 ^ 52 + aid.toNat * 2 ^ 20 + off)

/-- The scratchpad range of local addresses: base and size (02_execution.md R28). -/
def Core.span (c : Core) : Nat × Nat :=
  match c.act with
  | some a => (a.base, a.size)
  | none => (0x3C000, 0x4000)

/-- The scratchpad offset of n local bytes; none is LRANGE. -/
def State.localAt (s : State) (off n : Nat) : Option Nat :=
  if off + n ≤ s.core.span.2 then some (s.core.span.1 + off) else none

/-! ### Translation (22_scheduling_faults.md R352, R353) -/

/-- The right an access needs. -/
inductive Right where
  | read | write | fetch
deriving DecidableEq, Repr

/-- An entry of the cache covers a virtual address. -/
def TlbEntry.covers (e : TlbEntry) (tenant : BitVec 16) (va : Nat) : Bool :=
  e.tenant == tenant && (if e.big then e.vpage == va / 2 ^ 21 else e.vpage == va / 2 ^ 16)

/-- The physical address through an entry. -/
def TlbEntry.pa (e : TlbEntry) (va : Nat) : Nat := e.pbase + (if e.big then va % 2 ^ 21 else va % 2 ^ 16)

/-- The entry grants a right. -/
def TlbEntry.grants (e : TlbEntry) (r : Right) : Bool :=
  match r with
  | .read => true
  | .write => e.w
  | .fetch => e.x

/-- The cache's entry for a virtual address. -/
def tlbFind (l : List TlbEntry) (tenant : BitVec 16) (va : Nat) : Option TlbEntry := l.find? fun e => e.covers tenant va

/-- An entry put in front, as the last used; the cache holds 512. -/
def tlbUse (l : List TlbEntry) (e : TlbEntry) : List TlbEntry := (e :: l.erase e).take 512

/-- A page-table entry's checks that hold at every level. -/
def pteOk (e : Nat) : Bool := bitsOf e 48 16 == 0 && bitsOf e 4 4 == 0 && bitAt e 0

/-- The entry at an index of a table. -/
def pteAt (m : Mem) (tab idx : Nat) : Nat := leNat (m.readN (tab + 8 * idx) 8)

/-- The base a page-table entry names. -/
def pteAddr (e : Nat) : Nat := bitsOf e 8 40 * 2 ^ 8

/-- The leaf of a walk. -/
def pteLeaf (tenant : BitVec 16) (va e : Nat) (big : Bool) : TlbEntry :=
  { tenant := tenant, vpage := if big then va / 2 ^ 21 else va / 2 ^ 16, big := big, pbase := pteAddr e, w := bitAt e 2, x := bitAt e 3 }

/-- The four levels of R352; none is a failed walk. -/
def walk (m : Mem) (root : Nat) (tenant : BitVec 16) (va : Nat) : Option TlbEntry :=
  let e0 := pteAt m root (bitsOf va 39 9)
  if pteOk e0 && !bitAt e0 1 && bitsOf e0 8 4 == 0 then
    let e1 := pteAt m (pteAddr e0) (bitsOf va 30 9)
    if pteOk e1 && !bitAt e1 1 && bitsOf e1 8 4 == 0 then
      let e2 := pteAt m (pteAddr e1) (bitsOf va 21 9)
      if pteOk e2 then
        if bitAt e2 1 then (if bitsOf e2 8 13 == 0 then some (pteLeaf tenant va e2 true) else none)
        else
          let e3 := pteAt m (pteAddr e2) (bitsOf va 16 5)
          if pteOk e3 && bitAt e3 1 && bitsOf e3 8 8 == 0 then some (pteLeaf tenant va e3 false) else none
      else none
    else none
  else none

/-- The table entries that a walk reads, by their addresses. -/
def walkReads (m : Mem) (root va : Nat) : List Nat :=
  let a0 := root + 8 * bitsOf va 39 9
  let e0 := pteAt m root (bitsOf va 39 9)
  if pteOk e0 && !bitAt e0 1 && bitsOf e0 8 4 == 0 then
    let a1 := pteAddr e0 + 8 * bitsOf va 30 9
    let e1 := pteAt m (pteAddr e0) (bitsOf va 30 9)
    if pteOk e1 && !bitAt e1 1 && bitsOf e1 8 4 == 0 then
      let a2 := pteAddr e1 + 8 * bitsOf va 21 9
      let e2 := pteAt m (pteAddr e1) (bitsOf va 21 9)
      if pteOk e2 && !bitAt e2 1 then [a0, a1, a2, pteAddr e2 + 8 * bitsOf va 16 5] else [a0, a1, a2]
    else [a0, a1]
  else [a0]

/-- A walk of the core's tenant meets a table entry that cannot be read (R357). -/
def State.tableLost (s : State) (va : Nat) : Bool :=
  s.pkg.badUnits != [] && (walkReads s.pkg.dmem s.core.troot.toNat va).any fun a => s.pkg.badUnits.contains (a / 32)

/-- The walk of the core's tenant; none: it fails, or a table cannot be read. -/
def State.walk (s : State) (va : Nat) : Option TlbEntry :=
  if s.tableLost va then none else Machine.walk s.pkg.dmem s.core.troot.toNat s.core.tenant va

/-- The cause of an access that finds no translation: XFAULT, or MEMERR where a table cannot be read (R352, R357). -/
def State.missCause (s : State) (va : Nat) : Cause :=
  if (tlbFind s.grove.tlb s.core.tenant va).isNone && s.tableLost va then .memerr else .xfault

/-- The cache with an entry used or filled. -/
def State.useTlb (s : State) (e : TlbEntry) : State := { s with grove := { s.grove with tlb := tlbUse s.grove.tlb e } }

/-- A row's activation counted. -/
def countRow (row : Nat) (l : List (Nat × Nat)) : List (Nat × Nat) :=
  match l.find? fun p => p.1 == row with
  | some p => (row, p.2 + 1) :: l.filter fun q => q.1 != row
  | none => (row, 1) :: l

/-- The counts after an access to n bytes (20_nearmem.md R309; DEDUCED: each access activates its rows, log entry 3). -/
def countRows (pa n : Nat) (l : List (Nat × Nat)) : List (Nat × Nat) :=
  (List.range ((pa + n + 1023) / 1024 - pa / 1024)).foldl (fun l i => countRow (pa / 1024 + i) l) l

/-- A read of device memory counted. -/
def State.activate (s : State) (pa n : Nat) : State := { s with pkg := { s.pkg with acts := countRows pa n s.pkg.acts } }

/-- The table entries that a walk of the core's tenant reads, counted. -/
def State.walked (s : State) (va : Nat) : State := (walkReads s.pkg.dmem s.core.troot.toNat va).foldl (fun t a => t.activate a 8) s

/-- What an access that finds no translation leaves: its walk has read the tables. -/
def State.missed (s : State) (va : Nat) : State := if (tlbFind s.grove.tlb s.core.tenant va).isNone then s.walked va else s

/-- Bytes of an allocation. -/
def Alloc.size (a : Alloc) : Nat := a.pages * 0x10000

/-- The physical address at which a byte of an allocation's pages stands: in the 4 KiB granule that the placer chose for it
(12_memory.md R202). -/
def Pkg.cell (p : Pkg) (pa : Nat) : Nat :=
  match p.allocs.find? fun a => a.spread != [] && decide (a.pa ≤ pa) && decide (pa < a.pa + a.size) with
  | some a => a.spread.getD ((pa - a.pa) / 4096) 0 * 4096 + pa % 4096
  | none => pa

/-- A translation for an access that holds issue through its walk: the physical address, or none for XFAULT. A walk that
succeeds fills the cache (R353); it fails on a missing right (R352). -/
def State.translate (s : State) (r : Right) (va : Nat) : Option (Nat × State) :=
  match tlbFind s.grove.tlb s.core.tenant va with
  | some e => if e.grants r then some (s.pkg.cell (e.pa va), s.useTlb e) else none
  | none =>
    match s.walk va with
    | some e => if e.grants r then some (s.pkg.cell (e.pa va), (s.walked va).useTlb e) else none
    | none => none

/-! ### Scratchpad storage (22_scheduling_faults.md R355, R356) -/

/-- The eight bytes of the codeword of a scratchpad byte. -/
def codeword (a : Nat) : List Nat :=
  (List.range 8).map fun j => a / 512 * 512 + (a / 8 % 8 + 8 * j) * 8 + a % 8

/-- A symbol fails: its parity, or its bank's mark. -/
def Health.fails (h : Health) (a : Nat) : Bool := h.bad.contains a || h.failed.getLsbD (a / 8 % 64)

/-- More than two symbols of the byte's codeword fail. -/
def Health.lost (h : Health) (a : Nat) : Bool := h.fails a && decide (2 < ((codeword a).filter h.fails).length)

/-- No byte's parity fails, and no group has more than two marked banks: every read is corrected. -/
def Health.sound (h : Health) : Bool :=
  h.bad == [] && (List.range 8).all fun i => decide (((List.range 8).filter fun j => h.failed.getLsbD (i + 8 * j)).length ≤ 2)

/-- Some byte of a range cannot be corrected. -/
def Health.lostIn (h : Health) (a n : Nat) : Bool := !h.sound && (List.range n).any fun i => h.lost (a + i)

/-- A read of the word at 8-byte place w, of storage as h0 stands: its failing bytes count where they are corrected; two of them, or
the 16th count, mark the bank. -/
def Health.touch (h0 h : Health) (w : Nat) : Health :=
  let bank := w % 64
  let l := (List.range 8).filter fun i => h0.bad.contains (8 * w + i)
  let n := (l.filter fun i => !h0.lost (8 * w + i)).length
  let was := h.corrected[bank]!
  { h with
    failed := if 2 ≤ l.length ∨ was < 16 ∧ 16 ≤ was + n then h.failed ||| BitVec.ofNat 64 (2 ^ bank) else h.failed
    corrected := if n = 0 then h.corrected else h.corrected.set! bank (was + n) }

/-- A read of n bytes from a. -/
def Health.touchN (h : Health) (a n : Nat) : Health :=
  if h.bad = [] then h
  else (List.range ((a + n + 7) / 8 - a / 8)).foldl (fun g i => h.touch g (a / 8 + i)) h

/-- Bytes a write makes good: writes always succeed. -/
def Health.wrote (h : Health) (a n : Nat) : Health := { h with bad := h.bad.filter fun x => !(decide (a ≤ x) && decide (x < a + n)) }

/-- Scratchpad bytes written. -/
def Core.writeScratch (c : Core) (a : Nat) (bs : List Byte) : Core :=
  { c with scratch := c.scratch.writeN a bs, health := c.health.wrote a bs.length }

/-- Scratchpad bytes. -/
def Core.readScratch (c : Core) (a n : Nat) : List Byte := c.scratch.readN a n

/-! ### Trace (24_debug.md R371 to R374) -/

/-- A condition and a record of the present cycle. -/
def Debug.note (d : Debug) (cs : List Nat) (rs : List (Nat × Word)) : Debug :=
  { d with conds := d.conds ++ cs, recs := d.recs ++ rs }

/-- A condition and a record of the present cycle on the core. -/
def Core.note (c : Core) (cs : List Nat) (rs : List (Nat × Word)) : Core := { c with dbg := c.dbg.note cs rs }

/-- A condition of the present cycle holds. -/
def Debug.cond (d : Debug) (k : Nat) : Bool := decide (1 ≤ k) && decide (k ≤ 12) && d.conds.contains k

/-- Whether the present cycle records, and the trigger's next state (R371, R372). -/
def Debug.trigger (d : Debug) : Bool × Bool :=
  let m := d.trcfg.toNat % 4
  let start := d.cond (bitsOf d.trcfg.toNat 8 4)
  let stop := d.cond (bitsOf d.trcfg.toNat 16 4)
  if m = 1 then (true, d.trig)
  else if m = 2 then
    (if d.trig then (true, !stop) else (start, start && !stop))
  else (false, d.trig)

/-- A record's first eight bytes (R373). -/
def traceHead (kind ix cycle : Nat) : Word := BitVec.ofNat 64 (kind * 2 ^ 59 + ix * 2 ^ 48 + cycle % 2 ^ 48)

/-- Records put into the grove's buffer of 4,096; those that find it full are counted (R374). -/
def Grove.record (g : Grove) : List (Word × Word) → Grove
  | [] => g
  | r :: t =>
    (if g.trace.length < 4096 then { g with trace := g.trace ++ [r] }
      else { g with trlost := min (g.trlost + 1) 0xFFFFFFFF } : Grove).record t

/-- The breakpoint conditions of the trace at the program counter (R371). -/
def Core.pcConds (c : Core) : List Nat :=
  if c.act.isSome ∧ c.regs.pc.toNat / 2 ^ 48 = 0x1000 then
    ([0, 1, 2, 3] : List (Fin 4)).filterMap fun n =>
      if bitsOf c.dbg.bp[n].toNat 2 46 = bitsOf c.regs.pc.toNat 2 46 then some (1 + n.val) else none
  else []

/-- The records of a core's cycle that its trigger and its KINDS let through. -/
def Core.traced (c : Core) (cycle : Nat) : List (Word × Word) :=
  (c.dbg.recs.filter fun r => c.dbg.trigger.1 && bitAt c.dbg.trcfg.toNat (24 + (r.1 - 1))).map fun r => (traceHead r.1 c.ix.val cycle, r.2)

/-- A core's module as a cycle ends: the trigger has moved, DBGSTAT.TRST with it (R367), and the next cycle begins at the program
counter. -/
def Core.flushed (c : Core) : Core :=
  let t := c.dbg.trigger.2
  { c with dbg := { c.dbg with trig := t, stat := BitVec.ofNat 64 (setBit c.dbg.stat.toNat 8 t), conds := c.pcConds, recs := [] } }

/-- The end of a cycle (R372, R374): every core's trigger decides once, and the records go to the grove's buffer in ascending
core. -/
def flush (s : State) : State :=
  let of (i : Nat) : List (Word × Word) := (s.cores.filter fun c => c.ix.val == i).flatMap fun c => c.traced s.grove.cycle
  let t := s.mapCores Core.flushed
  { t with grove := t.grove.record ((List.range 32).flatMap of) }

/-! ### Watchpoints (24_debug.md R364, R365, R368) -/

/-- One access performed on scratchpad bytes, as the watchpoints see it: kind of R365, whether it came from the network, and
its source. An engine command's read or write is told by rd. -/
structure Touch where
  kind : Nat
  rd : Bool
  remote : Bool
  score : Nat
  said : Nat
  lo : Nat
  n : Nat
deriving DecidableEq, Repr

/-- Watchpoint word w is hit (R364). -/
def Touch.hits (t : Touch) (w : Nat) : Bool :=
  bitAt w 63 && overlaps t.lo t.n (bitsOf w 3 15 * 8) 8 && (if t.remote then bitAt w 60 else bitAt w 59)
    && (match t.kind with
        | 0 => bitAt w 56
        | 2 => bitAt w 58
        | 5 => if t.rd then bitAt w 56 else bitAt w 57
        | _ => bitAt w 57)

/-- The record of a hit (R365). -/
def Touch.whit (t : Touch) : Word :=
  BitVec.ofNat 64 (2 ^ 63 + t.kind * 2 ^ 60 + (if t.remote then 2 ^ 59 else 0) + t.score % 4096 * 2 ^ 36 + t.said * 2 ^ 12)

/-- A stop that arrives (R366): the first stands; of watchpoints hit in one cycle, the lowest (R365). -/
def Debug.arrive (d : Debug) (t : Stop) : Debug :=
  match d.stop with
  | none => { d with stop := some t, skid := 0 }
  | some o =>
    if t.at_ < o.at_ then { d with stop := some t, skid := 0 }
    else if t.at_ = o.at_ ∧ t.cause = 3 ∧ o.cause = 3 ∧ t.n < o.n then { d with stop := some t }
    else d

/-- The stop that has arrived by a cycle. -/
def Debug.come (d : Debug) (cycle : Nat) : Option Stop := d.stop.filter fun t => decide (t.at_ ≤ cycle)

/-- A hit on watchpoint n. -/
def Core.hit (c : Core) (cycle : Nat) (t : Touch) (n : Fin 4) : Core :=
  let w := c.dbg.wp[n].toNat
  let whit := if c.dbg.whit[n].getLsbD 63 then c.dbg.whit else c.dbg.whit.set n t.whit
  let d := ({ c.dbg with whit := whit } : Debug).note [5 + n.val] [(6, t.whit)]
  { c with dbg :=
      if c.dbg.ctl.getLsbD 1 && (bitAt w 62 || bitAt w 61) then d.arrive { cause := 3, n := n.val, at_ := cycle } else d }

/-- The watchpoints that an access hits, the lowest first. -/
def Core.hitsOf (c : Core) (t : Touch) : List (Fin 4) := [0, 1, 2, 3].filter fun n => t.hits c.dbg.wp[n].toNat

/-- An access performed on the core's scratchpad. -/
def Core.touched (c : Core) (cycle : Nat) (t : Touch) : Core := (c.hitsOf t).foldl (fun c n => c.hit cycle t n) c

/-- A hit stops the whole grove (R368). -/
def Core.broadcasts (c : Core) (t : Touch) : Bool :=
  c.dbg.ctl.getLsbD 1 && (c.hitsOf t).any fun n => c.dbg.wp[n].getLsbD 61

/-- An access performed on the core's scratchpad, with the grove's debug wire, whose stop arrives 2 cycles after the hit. -/
def State.touched (s : State) (t : Touch) : State :=
  let b := s.core.broadcasts t
  let s := s.mapCore fun c => c.touched s.grove.cycle t
  if b then { s with peers := s.peers.map fun c => { c with dbg := c.dbg.arrive { cause := 4, n := 0, at_ := s.grove.cycle + 2 } } } else s

/-- The core as the source of what a posted access does: the actor is the one that issued it (R365). -/
def Core.sourceOf (c : Core) (p : Posted) : Source := { core := c.pkgIx, aid := p.said.toNat, other := false }

/-- The core as a source (R365). -/
def Core.source (c : Core) : Source := { core := c.pkgIx, aid := c.regs.aid.toNat, other := false }

/-! ### Rings and the end of activations (18_messages.md R281 to R283, 02_execution.md R25) -/

/-- The records HEAD passes over. -/
def dropDisposed : List MRec → List MRec
  | [] => []
  | r :: t => if r.pad || r.disposed then dropDisposed t else r :: t

/-- HEAD advanced over pad and disposed records (R282). -/
def Actor.advance (a : Actor) : Actor :=
  let rest := dropDisposed a.recs
  { a with recs := rest, head := match rest with | [] => a.tail | r :: _ => r.off }

/-- The oldest listing for an actor, and the others. -/
def takeListing (aid : BitVec 24) : List Listing → Option Listing × List Listing
  | [] => (none, [])
  | l :: t =>
    if l.aid = aid then (some l, t)
    else
      let r := takeListing aid t
      (r.1, l :: r.2)

/-- A room notice to a source: to the core itself it stands in its list, to any other it leaves the model. -/
def Core.notify (c : Core) (aid : BitVec 24) (src : Source) : Core :=
  if src.core = c.pkgIx ∧ src.other = false then { c with notices := c.notices ++ [aid] } else c

/-- HEAD of an actor's ring moves, and a notice goes out when it moved (R283). -/
def Core.headAdvance (c : Core) (aid : BitVec 24) : Core :=
  match c.actor aid with
  | none => c
  | some a =>
    let b := a.advance
    let c' := c.mapActor aid fun _ => b
    if b.head = a.head ∧ b.recs.length = a.recs.length then c'
    else
      match takeListing aid c.room with
      | (some l, rest) => ({ c' with room := rest } : Core).notify aid l.src
      | (none, _) => c'

/-- A record disposed of. -/
def Core.dispose (c : Core) (aid : BitVec 24) (off : Nat) : Core :=
  (c.mapActor aid fun a =>
    { a with recs := a.recs.map fun r => if r.off = off ∧ r.pad = false then { r with disposed := true } else r }).headAdvance aid

/-- An actor gone from its core: its region and ring are free, its sweep regions and its claim on the macro end, and the
senders it refused hear of it (R51). -/
def Core.removeActor (c : Core) (aid : BitVec 24) : Core :=
  let mine := c.room.filter fun l => l.aid == aid
  let c1 : Core :=
    { c with
      actors := c.actors.map fun o => match o with | some a => if a.aid = aid then none else some a | none => none
      room := c.room.filter fun l => l.aid != aid
      mac := if c.mac.owner = some aid then { c.mac with owner := none, shared := false } else c.mac }
  mine.foldl (fun c l => c.notify aid l.src) c1

/-! ### Chains (R37; 16_scan.md R268 to R271) -/

/-- The lowest bit of field k of the work identifier (R35). -/
def Header.low (h : Header) (k : Nat) : Nat := ((h.w.take h.n).drop (k + 1)).sum

/-- Two work identifiers agree from bit low up (02_execution.md R36). -/
def sharesFrom (low : Nat) (a b : Word) : Bool := a.toNat / 2 ^ low == b.toNat / 2 ^ low

/-- An item of a launch that is not to be made: its prefix is killed, or the launch is over. -/
def Launch.skips (l : Launch) (wid : Word) : Bool :=
  l.report.isSome || l.killed.any fun p => sharesFrom p.2 p.1 wid

/-- The width of field k. -/
def Header.width (h : Header) (k : Nat) : Nat := h.w.getD k 0

/-- Field k of a work identifier. -/
def Header.field (h : Header) (wid : Word) (k : Nat) : Nat := bitsOf wid.toNat (h.low k) (h.width k)

/-- The gang size. -/
def Header.gang (h : Header) : Nat := 2 ^ h.gangCode

/-- The work identifier is an item of the launch, and leads its gang where leads is asked. -/
def Header.item (h : Header) (wid : Word) (leads : Bool) : Bool :=
  ((List.range h.n).all fun k => decide (h.field wid k < h.cnt.getD k 0)) && wid.toNat / 2 ^ (h.w.take h.n).sum == 0
    && (!leads || wid.toNat % h.gang == 0)

/-- The work identifier's actor stands for its gang in barriers, trees and chains: the leader's item of a gang, and every actor
that is in none (12_memory.md R211). -/
def Launch.leads (l : Launch) (wid : Word) : Bool := decide (l.hdr.gang ≤ 1) || !l.hdr.item wid false || wid.toNat % l.hdr.gang == 0

/-- The same of a launch by its slot. -/
def Pkg.leads (p : Pkg) (slot : BitVec 12) (wid : Word) : Bool :=
  match p.launch slot with
  | some l => l.leads wid
  | none => true

/-- The number of items. -/
def Header.items (h : Header) : Nat := (h.cnt.take h.n).foldl (· * ·) 1

/-- The work identifier of item i of the fields from k on: the last field runs fastest. -/
def itemFields (h : Header) : Nat → Nat → Nat
  | 0, _ => 0
  | k + 1, i =>
    let c := max 1 (h.cnt.getD k 0)
    i % c * 2 ^ h.low k + itemFields h k (i / c)

/-- The work identifier of item i, in ascending order. -/
def Header.itemWid (h : Header) (i : Nat) : Word := BitVec.ofNat 64 (itemFields h h.n i)

/-- The number of a work identifier's item. -/
def Header.itemOf (h : Header) (wid : Word) : Nat := (List.range h.n).foldl (fun i k => i * h.cnt.getD k 0 + h.field wid k) 0

/-- A leader's item of the prefix that share has from bit low up is still to be made. -/
def State.itemsDue (s : State) (slot : BitVec 12) (low : Nat) (share : Word) : Bool :=
  match s.pkg.launch slot with
  | none => false
  | some l =>
    let n := (List.range l.hdr.n).foldl (fun m k => if l.hdr.low k < low then m * l.hdr.cnt.getD k 0 else m) 1
    l.hdr.actors && (List.range n).any fun j =>
      let i := l.hdr.itemOf share / n * n + j
      let w := l.hdr.itemWid i
      decide (l.next ≤ i) && decide (i < l.hdr.items) && sharesFrom low w share && l.leads w && !l.skips w

/-- What divides the field of a chain at level lv into positions: the gang's size at the last level. -/
def Header.chainDiv (h : Header) (lv : Nat) : Nat := if lv + 1 = h.n then h.gang else 1

/-- What a chain at level lv counts by: the members' distance in WID. -/
def Header.chainStep (h : Header) (lv : Nat) : Nat := 2 ^ h.low lv * h.chainDiv lv

/-- The chain an item belongs to. -/
def Header.chain (h : Header) (lv : Nat) (wid : Word) : Nat := setBits (wid.toNat / h.gang * h.gang) (h.low lv) (h.width lv) 0

/-- A member's position. -/
def Header.chainPos (h : Header) (lv : Nat) (wid : Word) : Nat := h.field wid lv / h.chainDiv lv

/-- The chain's length. -/
def Header.chainLen (h : Header) (lv : Nat) : Nat := h.cnt.getD lv 0 / h.chainDiv lv

/-- The declared level of a chain of a launch. -/
def State.rideLevel (s : State) (slot : BitVec 12) (ch : Nat) : Option (Header × Nat) :=
  (s.pkg.launch slot).bind fun l => (l.hdr.ride.getD ch none).map fun lv => (l.hdr, lv)

/-- An actor's place on a chain. -/
def Actor.ride (a : Actor) (ch : Nat) : Option Ride := a.rides[Fin.ofNat 2 ch]

/-- An actor's place on a chain changed. -/
def Actor.mapRide (a : Actor) (ch : Nat) (f : Ride → Ride) : Actor :=
  { a with rides := a.rides.set (Fin.ofNat 2 ch) ((a.ride ch).map f) }

/-- The carries in an actor's hop buffer, those that came before its RIDE too. -/
def Actor.hopOf (a : Actor) (ch : Nat) : List Carry :=
  match a.ride ch with
  | some r => r.hop
  | none => (a.early.filter fun p => p.1 == ch).map Prod.snd

/-- A carry put into an actor's hop buffer. -/
def Actor.takeCarry (a : Actor) (ch : Nat) (carry : Carry) : Actor :=
  match a.ride ch with
  | some _ => a.mapRide ch fun r => { r with hop := r.hop ++ [carry] }
  | none => { a with early := a.early ++ [(ch, carry)] }

/-- An actor joins a chain at a place; its rounds begin with the carries that have come. -/
def Actor.joinRide (a : Actor) (ch : Nat) (h : Header) (lv : Nat) : Actor :=
  { a with
    rides := a.rides.set (Fin.ofNat 2 ch) (some { pos := h.chainPos lv a.wid, len := h.chainLen lv, rounds := 0, arrived := 0, released := 0, hop := a.hopOf ch })
    early := a.early.filter fun p => p.1 != ch }

/-- A resident or evicted actor changed. -/
def State.mapAnyActor (s : State) (aid : BitVec 24) (f : Actor → Actor) : State :=
  { s.mapCores (fun c => c.mapActor aid f) with
    pkg := { s.pkg with evicted := s.pkg.evicted.map fun e => if e.actor.aid = aid then { e with actor := f e.actor } else e } }

/-- The actors that the state holds, evicted ones included. -/
def State.heldActors (s : State) : List Actor := (s.cores.flatMap fun c => c.actors.filterMap id) ++ s.pkg.evicted.map fun e => e.actor

/-- The actor of a launch with a WID, if the directory names it. -/
def State.actorOfWid (s : State) (slot : BitVec 12) (wid : Nat) : Option DirEnt :=
  s.pkg.dir.find? fun e => e.slot == slot && e.wid.toNat == wid

/-- A position of a chain that everything passes through: its member is destroyed, or never to be made (16_scan.md R271). -/
def State.passes (s : State) (slot : BitVec 12) (wid : Nat) : Bool :=
  match s.actorOfWid slot wid with
  | some e => e.at_ == .destroyed
  | none => (match s.pkg.launch slot with | some l => l.skips (BitVec.ofNat 64 wid) | none => true)

/-- Where a carry goes from a position: to no one, to an actor that the state holds, to one beyond it, or to an item not yet made. -/
inductive Hop where
  | last
  | actor (a : Actor)
  | beyond
  | unmade (wid : Nat)
deriving DecidableEq, Repr

/-- The first of n positions after a WID that not everything passes through. -/
def State.hopFrom (s : State) (slot : BitVec 12) (step : Nat) : Nat → Nat → Hop
  | 0, _ => .last
  | n + 1, wid =>
    if s.passes slot (wid + step) then s.hopFrom slot step n (wid + step)
    else
      match s.actorOfWid slot (wid + step) with
      | none => .unmade (wid + step)
      | some e => match s.heldActors.find? fun a => a.aid == e.aid with | some a => .actor a | none => .beyond

/-- Where the carries of an item's position go on a chain. -/
def State.hopAfter (s : State) (slot : BitVec 12) (wid ch : Nat) : Hop :=
  match s.rideLevel slot ch with
  | some (h, lv) => s.hopFrom slot (h.chainStep lv) (h.chainLen lv - 1 - h.chainPos lv (BitVec.ofNat 64 wid)) wid
  | none => .last

/-- Where an actor's carries go on a chain. -/
def State.nextHop (s : State) (a : Actor) (ch : Nat) : Hop := s.hopAfter a.slot a.wid.toNat ch

/-- Every position before an actor's passes everything through: its rounds begin with the identity (DEDUCED, log entry 56). -/
def State.headless (s : State) (a : Actor) (ch : Nat) : Bool :=
  match s.rideLevel a.slot ch with
  | some (h, lv) => (List.range (h.chainPos lv a.wid)).all fun p => s.passes a.slot (h.chain lv a.wid + a.wid.toNat % h.gang + p * h.chainStep lv)
  | none => false

/-- The carries that wait for an item not yet made. -/
def Pkg.straysFor (p : Pkg) (slot : BitVec 12) (wid ch : Nat) : List Carry :=
  (p.strays.filter fun x => x.slot == slot && x.wid == wid && x.ch == ch).map Stray.carry

/-- A carry sent on from an item's position (16_scan.md R269, R271); one that leaves the state is gone from it. -/
def State.sendFrom (s : State) (slot : BitVec 12) (wid ch : Nat) (carry : Carry) : State :=
  match s.hopAfter slot wid ch with
  | .actor b => s.mapAnyActor b.aid fun b => b.takeCarry ch carry
  | .unmade w => { s with pkg := { s.pkg with strays := s.pkg.strays ++ [{ slot := slot, wid := w, ch := ch, carry := carry }] } }
  | .last | .beyond => s

/-- A carry sent on from an actor. -/
def State.sendCarry (s : State) (a : Actor) (ch : Nat) (carry : Carry) : State := s.sendFrom a.slot a.wid.toNat ch carry

/-- The carries that wait for items of which none is made any more go on from there. -/
def State.reroute (s : State) : State :=
  (s.pkg.strays.filter fun x => s.passes x.slot x.wid).foldl (fun t x => t.sendFrom x.slot x.wid x.ch x.carry)
    { s with pkg := { s.pkg with strays := s.pkg.strays.filter fun x => !s.passes x.slot x.wid } }

/-- The carries that stand at a destroyed member's position go on to its successor (16_scan.md R271). -/
def State.passOn (s : State) (aid : BitVec 24) : State :=
  match s.heldActors.find? fun a => a.aid == aid with
  | some a => ([0, 1] : List Nat).foldl (fun s ch => (a.hopOf ch).foldl (fun s c => s.sendCarry a ch c) s) s
  | none => s

/-- Sweep regions freed. -/
def State.freeSweeps (s : State) (p : Sweep → Bool) : State :=
  { s with grove := { s.grove with sweeps := s.grove.sweeps.map fun o => o.bind fun w => if p w then none else some w } }

/-- The evict requests that wait for an actor are answered, in order (26_system.md R385). -/
def Pkg.answerEvicts (p : Pkg) (aid : BitVec 24) (a : Answer) : Pkg :=
  { p with answers := p.answers ++ List.replicate (p.evicting.count aid) a, evicting := p.evicting.filter fun x => x != aid }

/-- An actor destroyed, wherever it stands. An evict request that waits for it is refused: it holds nothing to save. -/
def State.destroy (s : State) (aid : BitVec 24) : State :=
  let s := ((s.passOn aid).mapCores fun c => c.removeActor aid).freeSweeps fun w => w.aid == aid
  { s with
    pkg := { s.pkg.answerEvicts aid (.refused (-1)) with
      dir := s.pkg.dir.map fun e => if e.aid = aid then { e with at_ := .destroyed } else e
      gone := aid :: s.pkg.gone
      evicted := s.pkg.evicted.filter fun e => e.actor.aid != aid } }

/-- The sweep regions of the task that runs are freed (14_lawstate.md R242). -/
def State.freeTaskSweeps (s : State) : State := s.freeSweeps fun w => w.aid == 0 && w.core == s.core.ix && w.parked.isNone

/-- What an activation's end leaves with its actor (R32). -/
def Core.saveActor (c : Core) (ctr : Word) : Core :=
  c.mapActor c.regs.aid fun a => { a with seed := c.regs.srseed, stream := c.regs.srstream, ctr := ctr }

/-- What is reported to the core of the management path, which outlasts an activation. -/
def Core.mgmtTraps (c : Core) : List Deferred := c.deferred.filter Deferred.mgmt

/-- The activation is over and the core runs nothing (R23); its record stands. -/
def State.vacate (s : State) (ctr : Word) : State :=
  (s.mapCore fun c =>
    { c.saveActor ctr with
      act := none, await := none, hold := false, pause := 0, ganged := false, halted := false, deferred := c.mgmtTraps, kills := []
      dbg := { c.dbg with pass := false } }).freeTaskSweeps

/-- The activation ends and its record is released (R25), and a pre-emption request that stands is complete
(23_faults_notes.md R361); an actor that waited for this end to be destroyed goes (R301). -/
def State.endActivation (s : State) : State :=
  match s.core.act with
  | none => s
  | some a =>
    let s := (s.vacate s.core.regs.srctr).mapCore fun c => { c with preempt := false }
    match a.src with
    | .task _ => s
    | .message aid off =>
      let s := s.mapCore fun c => c.dispose aid off
      match s.core.actor aid with
      | some b => if b.doomed then s.destroy aid else s
      | none => s

/-! ### Kills (02_execution.md R51) -/

/-- A slot and WID lie under a killed prefix. -/
def killCovers (k : KillReq) (slot : BitVec 12) (wid : Word) : Bool :=
  slot.toNat == k.slot && wid.toNat / 2 ^ k.low == k.wid.toNat / 2 ^ k.low

/-- The core runs an activation under the prefix. -/
def killRuns (k : KillReq) (c : Core) : Bool :=
  match c.act with
  | some a => killCovers k a.slot c.regs.wid
  | none => false

/-- A re-run that is due on the core lies under the prefix. -/
def killRetry (k : KillReq) (c : Core) : Bool := c.retry.any fun a => killCovers k a.slot c.regs.wid

/-- A saved activation lies under the prefix. -/
def killImage (k : KillReq) (im : Image) : Bool := match im.act with | some a => killCovers k a.slot im.regs.wid | none => false

/-- A saved member of a gang that dissolves: it goes on alone at its split target. -/
def Image.leaveGang (im : Image) : Image :=
  match im.act with
  | some a => { im with ganged := false, regs := { im.regs with pc := a.split, gangix := 0 } }
  | none => im

/-- What a kill leaves of a queued record: nothing of one that lies under the prefix. -/
def killQueued (k : KillReq) (q : QRec) : List QRec :=
  match q with
  | .task r => if killCovers k r.slot r.wid then [] else [q]
  | .resume ims => if ims.any (killImage k) then (ims.filter fun im => !killImage k im).map fun im => .resume [im.leaveGang] else [q]

/-- The actors of a core under a prefix. -/
def killActors (k : KillReq) (c : Core) : List (BitVec 24) :=
  c.actors.filterMap fun o => o.bind fun a => if killCovers k a.slot a.wid then some a.aid else none

/-- The core runs an activation of the actor. -/
def Core.runs (c : Core) (aid : BitVec 24) : Bool := c.act.isSome && c.regs.aid == aid

/-- An actor destroyed at once, or at the end of the activation it runs. -/
def State.doom (s : State) (aid : BitVec 24) : State :=
  if s.cores.any fun c => c.runs aid then s.mapCores fun c => c.mapActor aid fun a => { a with doomed := true }
  else s.destroy aid

/-- The sweep regions of saved tasks whose records are gone are free. -/
def reapSweeps (s : State) : State :=
  let tags := (s.grove.deques.toList.flatten ++ s.grove.overflow).flatMap fun q => match q with | .resume ims => ims.map fun im => im.tag | .task _ => []
  s.freeSweeps fun w => match w.parked with | some t => !tags.contains t | none => false

/-- A kill as it reaches the grove: running activations have it due at their next boundary, queued records go, retained
records of a coming re-run go, actors are destroyed, and no further item of the prefix is made. -/
def State.kill (s : State) (k : KillReq) : State :=
  let s := s.mapCores fun c =>
    if killRetry k c then { c with retry := none, preempt := false } else { c with kills := if killRuns k c then c.kills ++ [k] else c.kills }
  let here := s.cores.flatMap (killActors k)
  let far := (s.pkg.dir.filter fun e => killCovers k e.slot e.wid && !(here.contains e.aid)).map fun e => e.aid
  let s := (here ++ far).foldl (fun s a => s.doom a) s
  (reapSweeps { s with
    grove := { s.grove with
      deques := s.grove.deques.map fun l => l.flatMap (killQueued k)
      overflow := s.grove.overflow.flatMap (killQueued k) }
    pkg := s.pkg.mapLaunch (BitVec.ofNat 12 k.slot) fun l => { l with killed := l.killed ++ [(k.wid, k.low)] } }).reroute

/-! ### Containment (02_execution.md R50 to R52) -/

/-- The activation may be re-run (R50). -/
def retrySafe (a : Activation) (h : Header) : Bool :=
  (match a.src with | .task _ => h.retrySafe | .message _ _ => a.rs) && decide (a.retries < 3)

/-- Policy ignore. -/
def containIgnore (slot : BitVec 12) (s : State) : State :=
  let s := s.endActivation
  { s with pkg := s.pkg.mapLaunch slot fun l => { l with ign := min (l.ign + 1) 0xFFFFFFFF } }

/-- Policy retry: the record stands, and the re-run is due (R32, R48); a record of a prefix that is killed is discarded (R51). -/
def containRetry (a : Activation) (s : State) : State :=
  if s.core.kills ≠ [] then s.endActivation
  else (s.vacate a.ctr0).mapCore fun c => { c with retry := some { a with retries := a.retries + 1, arrived := none, rbar := [] } }

/-- Policy kill self at level k. -/
def containKill (slot : BitVec 12) (h : Header) (k : Nat) (s : State) : State :=
  let wid := s.core.regs.wid
  (s.endActivation).kill { slot := slot.toNat, wid := wid, low := h.low k }

/-- A fault past level 0 (R52): the launch ends and the report of the first such fault stands. -/
def abortLaunch (slot : BitVec 12) (s : State) : State :=
  let r := s.core.regs
  let s := s.endActivation.kill { slot := slot.toNat, wid := 0, low := 64 }
  { s with pkg := s.pkg.mapLaunch slot fun l =>
      if l.report.isSome then l
      else { l with report := some { state := 2, tcause := r.tcause, tpc := r.tpc, tval := r.tval, wid := r.wid } } }

/-- The policies from level k − 1 down to level 0. -/
def containFrom (slot : BitVec 12) (a : Activation) (h : Header) : Nat → State → State
  | 0, s => abortLaunch slot s
  | k + 1, s =>
    match h.pol.getD k 0 with
    | 0 => containIgnore slot s
    | 1 => if retrySafe a h then containRetry a s else containFrom slot a h k s
    | 2 => containKill slot h k s
    | _ => containFrom slot a h k s

/-- The fault of the running activation goes to containment at its own level (R50). An activation whose slot names no launch
has no policy, and ends (DESIGN CHOICE, log entry 6). -/
def contain (s : State) : State :=
  match s.core.act with
  | none => s
  | some a =>
    match s.pkg.launch a.slot with
    | some l => containFrom a.slot a l.hdr l.hdr.n s
    | none => s.endActivation

/-! ### Taking a trap (22_scheduling_faults.md R347 to R349) -/

/-- The code of a cause (R349). -/
def Cause.code : Cause → Nat
  | .none => 0x00 | .illop => 0x01 | .privop => 0x02 | .ialign => 0x03 | .aspace => 0x04 | .align => 0x05 | .lrange => 0x06
  | .xfault => 0x07 | .memerr => 0x08 | .wnack => 0x09 | .adead => 0x0A | .mown => 0x0B | .macc => 0x0C | .jaddr => 0x0D
  | .dqfull => 0x0E | .barto => 0x0F | .waitto => 0x10 | .gangerr => 0x11 | .swbusy => 0x12 | .qdead => 0x13
  | .nodecl => 0x14 | .idxr => 0x15 | .hnone => 0x16 | .hlen => 0x17 | .ccode => 0x18 | .msgbig => 0x19 | .noact => 0x1A
  | .hbad => 0x1B | .wbad => 0x1C | .lkind => 0x1D | .ltab => 0x1E | .lclock => 0x1F | .scslot => 0x20 | .nmerr => 0x21
  | .utrap => 0x22

/-- The number of a queue (R214, R348). -/
def queueNum : Queue → Nat
  | .v => 0 | .m => 1 | .s => 2 | .e => 3 | .g => 4 | .l => 5 | .q => 6 | .n => 7

/-- TCAUSE (R348). -/
def tcauseOf (c : Cause) (dfr : Bool) (q : Option Queue) : Word :=
  BitVec.ofNat 64 (c.code + (if dfr then 2 ^ 15 else 0) + (match q with | some k => 2 ^ 11 + queueNum k * 2 ^ 12 | none => 0))

/-- TCAUSE, TPC and TVAL written, and the trap traced. -/
def Core.setTrap (c : Core) (cycle : Nat) (cause : Word) (tpc tval : Word) (code : Nat) : Core :=
  ({ c with traps := c.traps + 1, hold := false, dbg := if c.dbg.step then c.dbg.arrive { cause := 6, n := 0, at_ := cycle } else c.dbg
            regs := { c.regs with tcause := cause, tpc := tpc, tval := tval } } : Core).note [12]
    [(4, BitVec.ofNat 64 (tpc.toNat % 2 ^ 48 + code * 2 ^ 48))]

/-- A member of a dissolving gang that did not fault goes on at its split target (R41, R193). -/
def Core.leaveGang (c : Core) : Core :=
  match c.act with
  | some a =>
    { c with ganged := false, hold := false, await := none, pause := 0, regs := { c.regs with pc := a.split, gangix := 0 } }
  | none => { c with ganged := false }

/-- A gang that the core is in dissolves, all its members at their split targets but the core. -/
def dissolve (s : State) : State :=
  if s.core.ganged then
    { s with peers := s.peers.map fun c => if s.core.mate c then c.leaveGang else c, core := { s.core with ganged := false, regs := { s.core.regs with gangix := 0 } } }
  else s

/-- Taking a trap: on the management path it goes to Phopol and changes nothing (R358); in an activation it writes TCAUSE,
TPC and TVAL, dissolves the gang, ends the activation and goes to containment (R50). -/
def takeTrap (c : Cause) (tval tpc : Word) (dfr : Bool) (q : Option Queue) (s : State) : State :=
  if s.core.mgmt then { s with pkg := { s.pkg with answers := s.pkg.answers ++ [.fault c tval] } }
  else contain (dissolve (s.mapCore fun k => k.setTrap s.grove.cycle (tcauseOf c dfr q) tpc tval c.code))

/-- An activation of a slot and class on a local range. -/
def newActivation (src : ActSrc) (slot : BitVec 12) (cls : Fin 8) (base size g : Nat) (ctr0 : Word) : Activation :=
  { src := src, slot := slot, cls := cls, carried := none, rs := false, retries := 0, ctr0 := ctr0, base := base, size := size, split := 0
    g := g, arrived := none, rbar := [], first := 0, barHold := 0 }

/-- The activation that ERET starts on a core that runs none: a task's, of the core's launch slot (DEDUCED, log entry 28). -/
def Core.eretActivation (c : Core) : Activation :=
  let r : TaskRec :=
    { slot := c.launchSlot, cls := 0, pc := c.regs.tpc.setWidth 48, wid := c.regs.wid, join := 0
      args := Vector.ofFn fun i => c.regs.s[i.val + 1], hold := [], bound := 0, by_ := 4096, gang := 1 }
  { newActivation (.task r) c.launchSlot 0 0x3C000 0x4000 1 0 with first := c.serial }

/-- ERET on the management path: TCAUSE, TPC and TVAL are cleared and the core goes on, as an activation, at the former TPC (R153, R358). -/
def returnFromTrap (s : State) : State :=
  s.mapCore fun c =>
    { c with
      mgmt := false
      halted := false
      begun := true
      act := some (c.act.getD c.eretActivation)
      dbg := { c.dbg with stat := BitVec.ofNat 64 (setBit c.dbg.stat.toNat 0 false), pass := true }
      regs := { c.regs with pc := c.regs.tpc, tcause := 0, tpc := 0, tval := 0 } }

/-! ### The program counter (08_scalar.md R141 to R144) -/

/-- The loops whose exit is an address, of those active; the most recent one. -/
def recentExit (r : Regs) (succ : Word) : Option (Fin 4) :=
  ([0, 1, 2, 3] : List (Fin 4)).foldl
    (fun best i =>
      let l := r.lc[i]
      if l.active && l.exit == succ then
        (match best with
         | some b => if r.lc[b].ord < l.ord then some i else some b
         | none => some i)
      else best) none

/-- The exit test of R143: at most four loops leave. -/
def exitTest : Nat → Word → Regs → Regs
  | 0, succ, r => { r with pc := succ }
  | n + 1, succ, r =>
    match recentExit r succ with
    | none => { r with pc := succ }
    | some i =>
      let l := r.lc[i]
      let cnt := l.cnt - 1
      if cnt ≠ 0 then { r with lc := r.lc.set i { l with cnt := cnt }, pc := l.start }
      else exitTest n succ { r with lc := r.lc.set i { l with cnt := cnt, active := false } }

/-- The sequential successor of an instruction of len bytes. -/
def Regs.advance (r : Regs) (len : Nat) : Regs := exitTest 4 (r.pc + BitVec.ofNat 64 len) r

/-- A transfer to t: a loop whose body does not hold t is deactivated (R144). -/
def Regs.transfer (r : Regs) (t : Word) : Regs :=
  { r with
    pc := t
    lc := r.lc.map fun l => if l.active && (t < l.start || l.exit ≤ t) then { l with active := false } else l }

/-- The checks of a taken transfer's target (04_formats.md R82, R83; 18_messages.md R289). -/
def targetFault (c : Core) (t : Word) : Option Cause :=
  if t.toNat % 4 ≠ 0 then some .ialign
  else
    match c.act.bind fun a => a.carried with
    | some b => if b.lo ≤ t.toNat ∧ t.toNat < b.hi then none else some .ccode
    | none => if t.toNat / 2 ^ 48 = 0x1000 then none else some .aspace

/-- Carried code may not run off its block (R289). -/
def runsOff (c : Core) (len : Nat) : Bool :=
  match c.act.bind fun a => a.carried with
  | some b => decide (b.hi ≤ (c.regs.pc + BitVec.ofNat 64 len).toNat)
  | none => false

/-! ### Counts (12_memory.md R203, 19_messages_notes.md R306) -/

/-- Posted flits of one kind not yet performed and acknowledged. -/
def Core.posts (c : Core) (near : Bool) : Nat := ((c.posted.filter fun p => p.near == near).map fun p => p.n).sum

/-- What a posted access's address names but for its offset: the package and the actor. -/
def Posted.key (p : Posted) : Nat := p.addr.toNat / 2 ^ 20

/-- A message that was refused and is held. -/
def Posted.isHeld (p : Posted) : Bool :=
  match p.kind, p.stage with
  | .msg _, .held _ => true
  | _, _ => false

/-- A message that waits behind one that is held for the same actor (18_messages.md R283). -/
def Core.behindHeld (c : Core) (p : Posted) : Bool :=
  match p.kind, p.stage with
  | .msg _, .inFlight => c.posted.any fun e => decide (e.id < p.id) && e.key == p.key && e.isHeld
  | _, _ => false

/-- A message held at the ring of an actor of this very core, or behind one that is (R306). -/
def Core.heldHere (c : Core) (p : Posted) : Bool :=
  p.key / 2 ^ 24 == 0x4FF00 && (p.isHeld || c.behindHeld p) && (c.actor (BitVec.ofNat 24 p.key)).isSome

/-- The flits that a wait, END and the drains wait for. -/
def Core.waits (c : Core) (near : Bool) : Nat :=
  ((c.posted.filter fun p => p.near == near && !c.heldHere p).map fun p => p.n).sum

/-- Both counts are drained. -/
def Core.drained (c : Core) : Bool := c.waits true == 0 && c.waits false == 0

/-- A wait field holds the instruction (04_formats.md R65). -/
def Core.waitHolds (c : Core) (w : Nat) : Bool :=
  (w % 2 == 1 && c.waits true != 0) || (w / 2 % 2 == 1 && c.waits false != 0)

/-- A posted access of the core on its way, numbered (R203). -/
def Core.postAs (c : Core) (p : Posted) : Core :=
  { c with posted := c.posted ++ [{ p with id := c.postId, stage := .inFlight }], postId := c.postId + 1 }

/-- An access posted at issue, to the address raw as it names it, at the serial number that the next command will have. -/
def Core.post (c : Core) (near : Bool) (n : Nat) (raw addr : Word) (pa : Nat) (kind : PostKind) : Core :=
  c.postAs { id := 0, near := near, n := n, addr := addr, pa := pa, kind := kind, stage := .inFlight, q := none, ser := c.serial, raw := raw, said := c.regs.aid, mgmt := c.mgmt }

/-- An access posted by a command, to the address raw as it names it. -/
def Core.postBy (c : Core) (k : Cmd) (near : Bool) (n : Nat) (raw addr : Word) (pa : Nat) (kind : PostKind) : Core :=
  c.postAs { id := 0, near := near, n := n, addr := addr, pa := pa, kind := kind, stage := .inFlight, q := some k.q, ser := k.serial, raw := raw, said := k.aid, mgmt := k.mgmt }

/-! ### Commands and the scoreboard (12_memory.md R197, 01_device.md R10) -/

/-- Two local accesses conflict: they share a byte and one of them writes. -/
def Range.meets (a b : Range) : Bool := decide (a.lo < b.hi) && decide (b.lo < a.hi) && decide (a.lo < a.hi) && decide (b.lo < b.hi)

/-- Reads and writes of an access conflict with a command's. -/
def Cmd.conflicts (c : Cmd) (rd wr : List Range) : Bool :=
  (wr.any fun w => (c.reads ++ c.writes).any fun x => x.meets w) || (rd.any fun r => c.writes.any fun x => x.meets r)

/-- A scalar access to n scratchpad bytes stalls at issue. -/
def Core.blocked (c : Core) (a n : Nat) (wr : Bool) : Bool :=
  let r : List Range := [{ lo := a, hi := a + n }]
  c.cmds.any fun k => if wr then k.conflicts [] r else k.conflicts r []

/-- The commands of a queue, the oldest first. -/
def Core.queue (c : Core) (qu : Queue) : List Cmd := c.cmds.filter fun k => k.q == qu

/-- A register awaits a command's or an access's result (08_scalar.md R123, 10_vector_matrix.md R156). -/
def Core.pending (c : Core) (rs : List SReg) : Bool := c.cmds.any fun k => k.dst.any fun d => d != 0 && rs.contains d

/-! ### Issue (04_formats.md R64, R65, R77; 02_execution.md R40, R41) -/

/-- What a member's part of an instruction comes to: it completes and goes on, or transfers, or waits where it is with a new
state, or traps (the state then changed at most by storage health), or holds unissued, or ends the activation. -/
inductive R where
  | done (s : State)
  | jump (s : State) (t : Word)
  | wait (s : State)
  | trap (s : State) (c : Cause) (v : Word)
  | hold
  | ended (s : State)
deriving DecidableEq, Repr

/-- The guard holds. -/
def Regs.guard (r : Regs) (g : Guard) : Bool := r.rp g.p != g.neg

/-- What issue knows of an instruction: it is well formed, the trap of one that is not (R76), its first word, its length, its guard, whether the guard is the
leader's alone (08_scalar.md R124), the scalar registers it reads or writes, and its wait field. -/
structure Iss where
  ok : Bool
  cause : Cause := .illop
  w0 : IWord
  len : Nat
  g : Guard
  lead : Bool := false
  regs : List SReg := []
  wait : Nat := 0
deriving DecidableEq, Repr

/-- The number of neighbours that execute an instruction with the core; on the management path none does (R358). -/
def State.members (s : State) : Nat := if s.core.ganged && !s.core.mgmt then (s.peers.filter s.core.mate).length else 0

/-- The cores that execute an instruction together: the members of a joined gang, or the core alone. -/
def State.together (s : State) : List Core := if s.core.ganged then s.core :: s.peers.filter s.core.mate else [s.core]

/-- The traps of a list of results, by member. -/
def trapsOf : List R → Nat → List (Nat × Cause × Word)
  | [], _ => []
  | .trap _ c v :: t, k => (k, c, v) :: trapsOf t (k + 1)
  | _ :: t, k => trapsOf t (k + 1)

/-- The state an answer leaves. -/
def R.state (r : R) (s : State) : State :=
  match r with
  | .done t | .jump t _ | .wait t | .trap t _ _ | .ended t => t
  | .hold => s

/-- The answer with its state changed. -/
def R.map (f : State → State) : R → R
  | .done t => .done (f t)
  | .jump t a => .jump (f t) a
  | .wait t => .wait (f t)
  | .trap t c v => .trap (f t) c v
  | .ended t => .ended (f t)
  | .hold => .hold

/-- The member holds. -/
def R.isHold : R → Bool
  | .hold => true
  | _ => false

/-- The member waits for an answer. -/
def R.isWait : R → Bool
  | .wait _ => true
  | _ => false

/-- The part of member k, the core in its place again. -/
def memberPart (m : State → R) (k : Nat) (s : State) : R := (m (focus k s)).map (focus k)

/-- The parts of members k, k + 1, …, k + n, each on the state that the one before it left. -/
def runMembers (m : State → R) : Nat → Nat → State → List R
  | 0, k, s => [memberPart m k s]
  | n + 1, k, s => memberPart m k s :: runMembers m n (k + 1) ((memberPart m k s).state s)

/-- The end of an instruction's issue for the debug module: a stop that arrived in an earlier cycle counts it in its skid; a step
ends here with a stop of cause 6 (R366, R370). -/
def Debug.issued (d : Debug) (cycle : Nat) : Debug :=
  let d : Debug := { d with skid := if d.stop.any fun t => decide (t.at_ < cycle) then d.skid + 1 else d.skid, pass := false }
  if d.step then d.arrive { cause := 6, n := 0, at_ := cycle } else d

/-- An instruction that has issued: counted (24_debug.md R377), and no longer holding. -/
def Core.issued (cycle : Nat) (c : Core) : Core :=
  { c with
    hold := false
    gseq := c.gseq + 1
    counters := c.counters.set 0 (min (c.counters[0] + 1) (2 ^ 64 - 1))
    dbg := c.dbg.issued cycle }

/-- The members of a joined gang, or the core alone. -/
def State.mapMembers (s : State) (f : Core → Core) : State :=
  if s.core.ganged then { s with core := f s.core, peers := s.peers.map fun c => if s.core.mate c then f c else c } else s.mapCore f

/-- The cores that were together in s0 changed. -/
def State.mapAsIn (s0 : State) (f : Core → Core) (s : State) : State :=
  { s with
    core := f s.core
    peers := if s0.core.ganged then List.zipWith (fun a b => if s0.core.mate a then f b else b) s0.peers s.peers else s.peers }

/-- Followers take the leader's program counter (R40). -/
def State.follow (s : State) : State :=
  if s.core.ganged then
    { s with peers := s.peers.map fun c => if s.core.mate c then { c with regs := { c.regs with pc := s.core.regs.pc } } else c }
  else s

/-- The sequential successor in every member; on the management path the program counter stands (R358). -/
def State.goOn (len : Nat) (s : State) : State :=
  if s.core.mgmt then s
  else (s.mapMembers fun c => { c.issued s.grove.cycle with regs := c.regs.advance len }).follow

/-- A transfer in every member. -/
def State.goTo (t : Word) (s : State) : State :=
  if s.core.mgmt then s
  else
    (s.mapMembers fun c => ({ c.issued s.grove.cycle with regs := c.regs.transfer t } : Core).note [] [(1, t)]).follow

/-- The instruction holds unissued. -/
def State.holds (s : State) : State := s.mapCore fun c => { c with hold := true }

/-- A precise trap of the members named, each with TPC at its own instruction's first word; the others of the gang go on at their
split targets (R41). -/
def trapMembers (l : List (Nat × Cause × Word)) (s : State) : State :=
  l.foldl (fun t x => focus x.1 (takeTrap x.2.1 x.2.2 (focus x.1 s).core.regs.pc false none (focus x.1 t))) s

/-- A precise trap of the core. -/
def State.trapNow (s : State) (c : Cause) (v : Word) : State := takeTrap c v s.core.regs.pc false none s

/-- The next instruction would stand past the block of carried code: CCODE, and the instruction has no effect (R289). -/
def trapRunOff (len : Nat) (s : State) : State := s.trapNow .ccode (s.core.regs.pc + BitVec.ofNat 64 len)

/-- A completed instruction whose successor is sequential, with the check of carried code. -/
def complete (len : Nat) (s0 s : State) : Out :=
  if runsOff s0.core len ∧ s0.core.mgmt = false then .next (trapRunOff len s0)
  else .next (s.goOn len)

/-- The core waits at GANG. -/
def Core.arrived (c : Core) : Bool := match c.act with | some a => a.arrived.isSome | none => false

/-- One core with the marks and counts of corrected errors, and the profiling accumulators, of another. -/
def Core.marksOf (c d : Core) : Core :=
  { c with
    health := { c.health with failed := d.health.failed, corrected := d.health.corrected }
    acctCount := d.acctCount
    acctSum := d.acctSum }

/-- What the accesses of members' parts that trap left in t beside their results: marks and counts of storage (R356), responses
(24_debug.md R376), and activations (20_nearmem.md R309). -/
def State.marksOf (s t : State) : State :=
  { s with
    core := s.core.marksOf t.core, peers := List.zipWith Core.marksOf s.peers t.peers, fresh := t.fresh
    pkg := { s.pkg with acts := t.pkg.acts } }

/-- The common end of the members' parts. The leader's answer tells how the instruction went on. A member's trap is taken at once, though
another member still stalls on a register or a queue: that member leaves the gang with the others at its split target, its own part
unchecked (DESIGN CHOICE: 10_vector_matrix.md R194 gives no order, log entry 59). -/
def conclude (len : Nat) (s0 : State) (rs : List R) : Out :=
  match trapsOf rs 0 with
  | x :: t => .next (trapMembers (x :: t) (s0.marksOf (rs.foldl (fun s r => r.state s) s0)))
  | [] =>
    if rs.any R.isHold then .next s0.holds
    else
      let s := (rs.getLastD .hold).state s0
      let count (s : State) : State := if s0.core.mgmt then s else s0.mapAsIn (Core.issued s.grove.cycle) s
      if rs.any R.isWait then
        if s.together.any fun c => c.await.isSome || c.arrived then
          .next (if runsOff s0.core len ∧ s0.core.mgmt = false then trapRunOff len s0 else s.mapMembers fun c => { c with hold := false })
        else .next (count s)
      else
        match rs.headD .hold with
        | .jump _ t => .next (s.goTo t)
        | .ended _ => .next (count s)
        | _ => complete len s0 s

/-- Some member of the gang, or the core alone, waits for an answer. -/
def State.awaits (s : State) : Bool :=
  s.together.any fun c => c.await.isSome

/-- What member k of the core's gang waited for has come, with r as its part's end on the state in which that member stands
first: the instruction goes on when no member waits any more. -/
def answerMember (k len : Nat) (r : R) (s : State) : Out :=
  let free (t : State) : State := focus k (t.mapCore fun c => { c with await := none })
  match r with
  | .done t =>
    let u := free t
    if u.awaits then .next u else complete len u u
  | .jump t a => .next ((free t).goTo a)
  | .trap t c v => .next (focus k ((t.mapCore fun c => { c with await := none }).trapNow c v))
  | .wait t => .next (focus k t)
  | .ended t => .next (focus k (t.mapCore (Core.issued t.grove.cycle)))
  | .hold => .next s

/-- Where a core of the state stands. -/
def State.memberOf (s : State) (ix : Fin 32) : Option Nat := s.cores.findIdx? fun c => c.ix == ix

/-- What core k of the state waited for has come: a member of the core's gang goes on with it, a member of another gang with that
one's leader, and any other core by itself. -/
def answer (k len : Nat) (r : R) (s : State) : Out :=
  let c := (focus k s).core
  if k = 0 ∨ s.core.mate c then answerMember k len r s
  else
    let lead : Fin 32 := if c.ganged then Fin.ofNat 32 (c.ix.val - c.regs.gangix) else c.ix
    let j := ((s.facing lead).memberOf c.ix).getD 0
    let turn (t : State) : State := focus j ((focus k t).facing lead)
    match answerMember j len (r.map turn) (s.facing lead) with
    | .next t => .next (t.facing s.core.ix)
    | o => o

/-- The part of an instruction in one member: a false guard does nothing (R64), a pending register or a wait field holds it. -/
def Iss.part (u : Iss) (m : State → R) (s : State) : R :=
  if !u.lead && !s.core.regs.guard u.g then .done s
  else if s.core.pending u.regs || s.core.waitHolds u.wait then .hold
  else m s

/-- Issue of an instruction: the decode checks come first (R77), then the guard, and every member executes it (R40). -/
def issue (u : Iss) (m : State → R) (s : State) : Out :=
  let s1 := s.mapMembers fun c => c.note c.pcConds []
  if u.ok = false then conclude u.len s1 (runMembers (fun s => .trap s u.cause (u.w0.setWidth 64)) s.members 0 s1)
  else if u.lead = true ∧ s.core.regs.guard u.g = false then complete u.len s1 s1
  else conclude u.len s1 (runMembers (u.part m) s.members 0 s1)

end Sys2Proof.Machine
end

