-- ==== Sys2Proof/Machine/Operands.lean ====
section
/-!
DEFINITION. The operand forms: vector elements and masks (04_formats.md R55), layout records and declared ranges (R78 to
R80), element types (R73), and the scalar effective address (08_scalar.md R136).
-/
namespace Sys2Proof.Machine

/-! ### Element types -/

/-- The floating format of a type code. -/
def fmtOf (ty : Nat) : Option FFmt :=
  match ty with
  | 8 => some .fp32 | 9 => some .fp16 | 10 => some .bf16 | 11 => some .e4m3 | 12 => some .e5m2 | 13 => some .e2m1
  | _ => none

/-- An integer type is signed. -/
def tySigned (ty : Nat) : Bool := ty == 0 || ty == 2 || ty == 4 || ty == 6 || ty == 7

/-- The value of a TS8 byte: −1, 0 or 1 in its low trit (06_numbers.md R104). -/
def sizeOfTy (ty : Nat) : Nat := (tyBits ty + 7) / 8

/-! ### Vector registers -/

/-- The elements of w bits, element 0 first. -/
def elems (w : Nat) (v : VWord) : List Nat := (List.range (512 / w)).map fun i => bitsOf v.toNat (i * w) w

/-- A number of w-bit elements, element 0 lowest. -/
def packElems (w : Nat) : List Nat → Nat
  | [] => 0
  | x :: t => x % 2 ^ w + 2 ^ w * packElems w t

/-- A register of w-bit elements. -/
def ofElems (w : Nat) (l : List Nat) : VWord := BitVec.ofNat 512 (packElems w l)

/-- Element i of w bits is active (R55). -/
def activeAt (m : Word) (w i : Nat) : Bool := m.getLsbD (i * w / 8)

/-- New elements where they are active, old ones elsewhere. -/
def maskElems (m : Word) (w : Nat) (old new : List Nat) : List Nat :=
  (List.range old.length).map fun i => if activeAt m w i then new.getD i 0 else old.getD i 0

/-- The 64 bytes of a register. -/
def vBytes (v : VWord) : List Byte := leBytes 64 v.toNat

/-- A register of 64 bytes. -/
def ofVBytes (l : List Byte) : VWord := BitVec.ofNat 512 (leNat l)

/-! ### Layout records -/

/-- The layout record of base field l (R70, R78). -/
def Regs.lrec (r : Regs) (l : Nat) : LRec :=
  let g (k : Nat) : Word := r.rs (Fin.ofNat 32 (8 * l + k))
  let w1 := (g 1).toNat
  { base := g 0, flagI := bitAt w1 60, flagS := bitAt w1 61, rsv := bitsOf w1 62 2, ty := bitsOf w1 56 4, e0 := bitsOf w1 0 56
    e1 := (g 2).toNat, e2 := (g 3).toNat, st1 := (g 4).toInt, st2 := (g 5).toInt, aux0 := g 6, aux1 := g 7 }

/-- The registers of a layout record. -/
def lrecRegs (l : Nat) : List SReg := (List.range 8).map fun k => Fin.ofNat 32 (8 * l + k)

/-- Some extent is zero. -/
def LRec.empty (r : LRec) : Bool := r.e0 == 0 || r.e1 == 0 || r.e2 == 0

/-- Bytes of an aligned block image for an AW code (R169). -/
def imageBytes (aw : Nat) : Nat := if aw < 2 then 64 else 128

/-- Bytes of a row of n elements. -/
def rowBytes (ty aw n : Nat) : Nat :=
  if ty = 15 then n / 32 * imageBytes aw else (n * tyBits ty + 7) / 8

/-- The alignment of a base (R80). -/
def baseAlign (ty aw : Nat) : Nat := if ty = 15 then imageBytes aw else max 1 (tyBits ty / 8)

/-- The lowest and one past the highest address of the elements of a record that has elements (R80). -/
def LRec.bounds (r : LRec) (ty aw : Nat) : Int × Int :=
  let a : Int := (r.e1 - 1 : Nat) * r.st1
  let b : Int := (r.e2 - 1 : Nat) * r.st2
  let base : Int := r.base.toNat
  (base + min 0 a + min 0 b, base + max 0 a + max 0 b + rowBytes ty aw r.e0)

/-- The address of row (i1, i2). -/
def LRec.row (r : LRec) (i1 i2 : Nat) : Int := (r.base.toNat : Int) + (i1 : Int) * r.st1 + (i2 : Int) * r.st2

/-- Both addresses lie in one view, with no reserved address between: in one bank of the bank-linear view, in one package of actor
space. -/
def sameView (a b : Word) (p q : Place) : Bool :=
  match p, q with
  | .loc _, .loc _ => true
  | .inter _, .inter _ => true
  | .linear _, .linear _ => a.toNat / 2 ^ 24 == b.toNat / 2 ^ 24
  | .actor p _ _, .actor q _ _ => p == q
  | _, _ => false

/-- The fault of a range [lo, hi) with base aligned to al (R80); none when it lies in one view and, in the local view, within
the region. -/
def spanFault (s : State) (base : Word) (lo hi : Int) (al : Nat) : Option Cause :=
  if lo < 0 ∨ 2 ^ 64 < hi then some .aspace
  else
    let a := BitVec.ofInt 64 lo
    let b := BitVec.ofInt 64 (hi - 1)
    match placeOf s a, placeOf s b with
    | some p, some q =>
      if !sameView a b p q then some .aspace
      else if base.toNat % al ≠ 0 then some .align
      else
        match q with
        | .loc off => if off < s.core.span.2 then none else some .lrange
        | _ => none
    | _, _ => some .aspace

/-- The scratchpad range of local bytes [lo, hi). -/
def localRange (c : Core) (lo hi : Int) : Range := { lo := c.span.1 + lo.toNat, hi := c.span.1 + hi.toNat }

/-- A local range of n bytes at a scalar address: its fault, or its scratchpad range. -/
def localSpan (s : State) (a : Word) (n al : Nat) : Except Cause Range :=
  match placeOf s a with
  | some (.loc off) =>
    if a.toNat % al ≠ 0 then .error .align
    else
      match s.localAt off n with
      | some p => .ok { lo := p, hi := p + n }
      | none => .error .lrange
  | _ => .error .aspace

/-! ### Scalar addresses -/

/-- sa plus word 2, sign-extended (12_memory.md R208, R215). -/
def XOp.ea (x : XOp) (r : Regs) : Word := r.rs x.a + sxtWord 32 x.w2.toNat

/-- a plus off8 times the size (R136). -/
def MemF.ea (x : MemF) (size : Nat) (r : Regs) : Word := r.rs x.a + wordOfInt (x.off.toInt * size)

/-- a plus the literal offset (R63). -/
def MemL.ea (x : MemL) (r : Regs) : Word := r.rs x.a + x.off

end Sys2Proof.Machine
end

