-- ==== Sys2Proof/Machine/Flags.lean ====
section
/-!
DEFINITION. Accrued flags and statistics (06_numbers.md R115 to R119): what a command stages and how its commit merges it.
-/
namespace Sys2Proof.Machine

/-- The union of flags of a list. -/
def flagsOf (l : List Flags) : Flags := l.foldl Flags.or noFlags

/-- Is a magnitude below the smallest normal value of the format. -/
def subnormal (f : FFmt) (m : Nat) (e : Int) : Bool := magLt m e (2 ^ f.mbits) f.emin

/-- The bin of a value as written, in its destination format; an integer destination has no format (R116). -/
def binOf (f : Option FFmt) (v : FVal) : Nat :=
  match v with
  | .nan => 63
  | .inf _ => 62
  | .num _ 0 _ => 0
  | .num _ m e =>
    if (match f with | some f => subnormal f m e | none => false) then 1
    else (2 + (max (-29) (min 30 (ilog2 m 1 + e))) + 29).toNat

/-- |x| rounded to FP32 by RUP, as a bit pattern (R117). -/
def magUp (v : FVal) : Nat := FFmt.fp32.pack (roundF .fp32 .rup 0 v.absv).1

/-- One value written under a context. -/
structure Seen where
  fmt : Option FFmt
  val : FVal
deriving DecidableEq, Repr

/-- MAXMAG as a value's magnitude is merged into it (R117): the larger, by value; a NaN pattern that a PUTC has put there stays (DESIGN
CHOICE, log entry 51). -/
def maxMag (old : BitVec 32) (mag : Nat) : BitVec 32 :=
  if (FFmt.fp32.unpack old.toNat).isNan then old
  else if old.getLsbD 31 then BitVec.ofNat 32 mag
  else BitVec.ofNat 32 (max old.toNat mag)

/-- One value merged into context k. -/
def Stats.see (t : Stats) (k : Fin 16) (x : Seen) : Stats :=
  let b : Fin 64 := Fin.ofNat 64 (binOf x.fmt x.val)
  let row := t.bins[k]
  let row := row.set b (if row[b] = 0xFFFFFFFF then 0xFFFFFFFF else row[b] + 1)
  if x.val.isNan then
    { t with bins := t.bins.set k row, nanseen := t.nanseen ||| BitVec.ofNat 16 (2 ^ k.val) }
  else
    { t with
      bins := t.bins.set k row
      maxmag := t.maxmag.set k (maxMag t.maxmag[k] (magUp x.val)) }

/-- The staged values of a command merged at commit; a context that is OFF discards them (R119). -/
def Stats.merge (t : Stats) (k : Fin 16) (l : List Seen) : Stats :=
  if t.off.getLsbD k then t else l.foldl (fun t x => t.see k x) t

/-- One context cleared (R118, 10_vector_matrix.md R173). -/
def Stats.clear (t : Stats) (k : Fin 16) : Stats :=
  { t with
    bins := t.bins.set k (Vector.replicate 64 0)
    maxmag := t.maxmag.set k 0
    nanseen := t.nanseen &&& ~~~(BitVec.ofNat 16 (2 ^ k.val)) }

/-- A provenance record written (24_debug.md R378). -/
def Stats.pushProv (t : Stats) (w : Word) : Stats :=
  { t with prov := Vector.ofFn fun i => if i = 0 then w else t.prov[i.val - 1] }

/-- A flit count added to a profiling accumulator (R376): COUNT and SUM saturate. -/
def Core.account (c : Core) (i : Fin 64) (t : Nat) : Core :=
  { c with
    acctCount := c.acctCount.set i (min (c.acctCount[i] + 1) (2 ^ 16 - 1))
    acctSum := c.acctSum.set i (min (c.acctSum[i] + t) (2 ^ 48 - 1)) }

/-- What a command's performance leaves for its commit. -/
structure Effect where
  flags : Flags := {}
  hist : Fin 16 := 0
  seen : List Seen := []
  prov : Option Word := none
deriving DecidableEq, Repr

/-- The commit of a command: flags, statistics and provenance are merged into what stands then (04_formats.md R58). -/
def Core.merge (c : Core) (e : Effect) : Core :=
  let st := c.stats.merge e.hist e.seen
  { c with
    regs := c.regs.accrue e.flags
    stats := match e.prov with | some w => st.pushProv w | none => st }

end Sys2Proof.Machine
end

