-- ==== Sys2Proof/Machine/Transcend.lean ====
section
/-!
DEFINITION. RN32 of 2^(−x), of cos(2πφ) and of sin(2πφ) for the arguments the law unit forms (14_lawstate.md R235).
Fixed point with 192 fraction bits; the exact cases are exact, every other value is irrational and is rounded from its
192-bit approximation (DEDUCED, log entry 12).
-/
namespace Sys2Proof.Machine

/-- Fraction bits of the fixed-point arithmetic. -/
def fixBits : Nat := 192
/-- ln 2 × 2^192, rounded down. -/
def ln2Fix : Nat := 0xB17217F7D1CF79ABC9E3B39803F2F6AF40F343267298B62D
/-- π ÷ 2 × 2^192, rounded down. -/
def halfPiFix : Nat := 0x1921FB54442D18469898CC51701B839A252049C1114CF98E8

/-- Σ over j ≥ k of s^(j−k) × term, with each next term multiplied by t and divided by its index, the sign turning. -/
def altSeries (t : Nat) : Nat → Nat → Int → Int
  | 0, _, _ => 0
  | n + 1, k, term => term + altSeries t n (k + 1) (-(term * (t : Int) / (2 ^ fixBits : Int)) / (k : Int))

/-- e^(−t) for 0 ≤ t < 1. -/
def expNegFix (t : Nat) : Nat := (altSeries t 60 1 (2 ^ fixBits)).toNat

/-- Σ of the terms of cos or sin: each next term is multiplied by −t² and divided by k(k+1). -/
def trigSeries (t2 : Nat) : Nat → Nat → Int → Int
  | 0, _, _ => 0
  | n + 1, k, term => term + trigSeries t2 n (k + 2) (-(term * (t2 : Int) / (2 ^ fixBits : Int)) / ((k * (k + 1) : Nat) : Int))

/-- cos t for 0 ≤ t ≤ π ÷ 2. -/
def cosFix (t : Nat) : Nat :=
  let t2 : Nat := t * t / 2 ^ fixBits
  (trigSeries t2 36 1 (2 ^ fixBits)).toNat
/-- sin t for 0 ≤ t ≤ π ÷ 2. -/
def sinFix (t : Nat) : Nat :=
  let t2 : Nat := t * t / 2 ^ fixBits
  (trigSeries t2 36 2 t).toNat

/-- RN32 of an irrational magnitude given in fixed point. -/
def rn32Fix (neg : Bool) (a : Nat) (exp : Int) : FVal :=
  (roundQ .fp32 neg a 1 (exp - fixBits) true .rne 0).1

/-- F of R235: 0 for x ≥ 150, else RN32(2^(−x)), where x = x24 ÷ 2^24. -/
def lawF (x24 : Nat) : FVal :=
  let i : Nat := x24 / 2 ^ 24
  let f : Nat := x24 % 2 ^ 24
  if 150 ≤ i then .pzero
  else if f = 0 then (roundQ .fp32 false 1 1 (-(i : Int)) false .rne 0).1
  else rn32Fix false (expNegFix (f * ln2Fix / 2 ^ 24 : Nat)) (-(i : Int))

/-- (C, S) of R235: RN32 of the cosine and sine of 2π × a ÷ 2^32, a < 2^32. -/
def lawCS (a : Nat) : FVal × FVal :=
  let q : Nat := a / 2 ^ 30 % 4
  let r : Nat := a % 2 ^ 30
  if r = 0 then
    match q with
    | 0 => (.num false 1 0, .pzero)
    | 1 => (.pzero, .num false 1 0)
    | 2 => (.num true 1 0, .pzero)
    | _ => (.pzero, .num true 1 0)
  else
    let t : Nat := r * halfPiFix / 2 ^ 30
    let c := rn32Fix false (cosFix t) 0
    let s := rn32Fix false (sinFix t) 0
    match q with
    | 0 => (c, s)
    | 1 => (s.negate, c)
    | 2 => (c.negate, s.negate)
    | _ => (s, c.negate)

end Sys2Proof.Machine
end

