-- ==== Sys2Proof/Machine/LawWord.lean ====
section
/-!
DEFINITION. Law words, law-table entries, their evaluation and threshold crossings (14_lawstate.md R230 to R239).
-/
namespace Sys2Proof.Machine

/-- A law-table entry's fields (R233). -/
structure Law where
  kind : Nat
  dir : Nat
  typ : Nat
  cls : Nat
  tgt : BitVec 24
  rate : Nat
  angle : Nat
  rest : FVal
  slope : FVal
  th : FVal
deriving DecidableEq, Repr

/-- The fields of an entry of 32 bytes, byte 0 lowest (R233). -/
def lawOf (e : BitVec 256) : Law :=
  let f (byte lo n : Nat) : Nat := bitsOf e.toNat (8 * byte + lo) n
  let v (byte : Nat) : FVal := FFmt.fp32.unpack (f byte 0 32)
  { kind := f 0 0 2, dir := f 0 2 2, typ := f 0 8 5, cls := f 0 13 3, tgt := BitVec.ofNat 24 (f 4 0 24), rate := f 8 0 32
    angle := f 12 0 32, rest := v 16, slope := v 20, th := v 24 }

/-- LSET accepts the entry (R234). -/
def lawOk (e : BitVec 256) : Bool :=
  let f (byte lo n : Nat) : Nat := bitsOf e.toNat (8 * byte + lo) n
  f 0 4 4 == 0 && f 0 16 16 == 0 && f 4 24 8 == 0 && f 28 0 32 == 0 && f 0 2 2 != 3 && (f 0 0 2 != 3 || f 0 2 2 != 1)

/-- Words of the entry are W128 (R231). -/
def Law.wide (l : Law) : Bool := l.kind == 3

/-- The INDEX of a law word (R230). -/
def lwIndex (lo : Word) : Fin 256 := Fin.ofNat 256 lo.toNat
/-- FIRED. -/
def lwFired (lo : Word) : Bool := lo.getLsbD 8
/-- The VALUE of a law word, or im of the high word. -/
def lwValue (w : Word) : FVal := FFmt.fp32.unpack (bitsOf w.toNat 32 32)
/-- FIRED set. -/
def lwFire (lo : Word) : Word := lo ||| 0x100

/-- A law word's low word of a value's bits, based now. -/
def lwBase (v : Nat) (now : BitVec 48) (fired : Bool) (idx : Nat) : Word :=
  BitVec.ofNat 64 (v % 2 ^ 32 * 2 ^ 32 + now.toNat % 2 ^ 23 * 2 ^ 9 + (if fired then 256 else 0) + idx % 256)

/-- Age of R120. -/
def lawAge (now : BitVec 48) (lo : Word) : Nat := (now.toNat % 2 ^ 23 + 2 ^ 23 - bitsOf lo.toNat 9 23) % 2 ^ 23

/-- An exact product of values that may carry flags. -/
def xmul (a b : FVal × Flags) : FVal × Flags :=
  let p := mulV a.1 b.1
  (p.1, (a.2.or b.2).or p.2)

/-- An exact sum of values that may carry flags. -/
def xadd (mode : RMode) (a b : FVal × Flags) : FVal × Flags :=
  let p := addV mode a.1 b.1
  (p.1, (a.2.or b.2).or p.2)

/-- A component of a law value at an age: at 0 a finite one is the stored value itself, the sign of its zero too (R235). -/
def FVal.aged (d : Nat) (stored x : FVal) : FVal :=
  match x, d with
  | .num .., 0 => stored
  | _, _ => x

/-- The formulas of R235, exact, with the signs and the invalid operations of R236: re (or the value) and im. -/
def lawTerms (l : Law) (mode : RMode) (lo hi : Word) (d : Nat) : (FVal × Flags) × (FVal × Flags) :=
  let z (x : FVal) : FVal × Flags := (x, noFlags)
  let v := z (lwValue lo)
  let neg (x : FVal × Flags) : FVal × Flags := (x.1.negate, x.2)
  match l.kind with
  | 0 => (v, z .pzero)
  | 2 => (xadd mode v (xmul (z l.slope) (z (FVal.ofInt d))), z .pzero)
  | 1 => (xadd mode (z l.rest) (xmul (xadd mode v (neg (z l.rest))) (z (lawF (l.rate * d)))), z .pzero)
  | _ =>
    let im := z (lwValue hi)
    let f := z (lawF (l.rate * d))
    let cs := lawCS (l.angle * d % 2 ^ 32)
    let fc := xmul f (z cs.1)
    let fs := xmul f (z cs.2)
    (xadd mode (xmul fc v) (neg (xmul fs im)), xadd mode (xmul fs v) (xmul fc im))

/-- Advance of R235: re (or the value) and im. The low word of a value that is not W128 has no im, which is +0 here. -/
def lawAdvance (l : Law) (mode : RMode) (lo hi : Word) (d : Nat) : (FVal × Flags) × (FVal × Flags) :=
  let a := lawTerms l mode lo hi d
  ((a.1.1.aged d (lwValue lo), a.1.2), (a.2.1.aged d (if l.wide then lwValue hi else .pzero), a.2.2))

/-- A component with an operand added, rounded once (R235, R248). -/
def lawRound (mode : RMode) (u : Nat) (add : Option FVal) (x : FVal × Flags) : Nat × Flags :=
  let y := match add with | some a => xadd mode x (a, noFlags) | none => x
  let r := roundF .fp32 mode u y.1
  (FFmt.fp32.pack r.1, y.2.or r.2)

/-- The RNE values at an age. -/
def lawRne (l : Law) (lo hi : Word) (d : Nat) : Nat × Nat :=
  let a := lawAdvance l .rne lo hi d
  ((lawRound .rne 0 none a.1).1, (lawRound .rne 0 none a.2).1)

/-- Past of R238. -/
def lawPast (l : Law) (lo hi : Word) (d : Nat) : Bool :=
  if l.wide then
    let sq (x : FVal) : FVal := (mulV x x).1
    let re := lwValue lo
    let im := lwValue hi
    let bad (x : FVal) : Bool := x.isNan || x.isInf
    !bad re && !bad im && vlt (mulV (sq (lawF (l.rate * d))) (addV .rne (sq re) (sq im)).1).1 (sq l.th)
  else
    let v := FFmt.fp32.unpack (lawRne l lo hi d).1
    if l.dir = 1 then vlt l.th v || veq l.th v else vlt v l.th || veq v l.th

/-- An evaluation at an age finds a crossing (R238). -/
def lawCrosses (l : Law) (lo hi : Word) (d : Nat) : Bool :=
  l.dir != 0 && !lwFired lo && decide (1 ≤ d) && !lawPast l lo hi 0 && lawPast l lo hi d

/-- The bisection of R239. -/
def bisect (past : Nat → Bool) : Nat → Nat → Nat → Nat
  | 0, _, hi => hi
  | n + 1, lo, hi =>
    if hi - lo ≤ 1 then hi
    else
      let mid := (lo + hi) / 2
      if past mid then bisect past n lo mid else bisect past n mid hi

end Sys2Proof.Machine
end

