-- ==== Sys2Proof/Machine/Queue.lean ====
section
/-!
DEFINITION. Engine queues: sync words (12_memory.md R206, R207), gates (R218), external conditions and full queues (R224),
and the issue of a command (01_device.md R9; 04_formats.md R58, R79).
-/
namespace Sys2Proof.Machine

/-! ### Sync words -/

/-- A sync word's four fields (R206). -/
structure SyncWord where
  count : Nat
  target : Nat
  gen : Nat
  ovf : Bool
deriving DecidableEq, Repr

/-- The sync word at a scratchpad offset. -/
def Core.sync (c : Core) (p : Nat) : SyncWord :=
  let f (k : Nat) : Nat := leNat (c.readScratch (p + k) 4)
  { count := f 0, target := f 4, gen := f 8, ovf := bitAt (f 12) 0 }

/-- A sync word written; its reserved bits are 0. -/
def Core.setSync (c : Core) (p : Nat) (w : SyncWord) : Core :=
  c.writeScratch p (leBytes 4 w.count ++ leBytes 4 w.target ++ leBytes 4 w.gen ++ leBytes 4 (if w.ovf then 1 else 0))

/-- Check of R207. -/
def SyncWord.check (w : SyncWord) : SyncWord :=
  if w.target ≠ 0 ∧ w.target ≤ w.count then
    { w with count := w.count - w.target, target := 0, gen := (w.gen + 1) % 2 ^ 32 }
  else w

/-- Arrive of R207. -/
def SyncWord.arrive (w : SyncWord) (b : Nat) : SyncWord :=
  (if 2 ^ 32 - 1 < w.count + b then { w with count := 2 ^ 32 - 1, ovf := true } else { w with count := w.count + b } : SyncWord).check

/-- Expect of R207; the generation returned is the one before. -/
def SyncWord.expect (w : SyncWord) (n : Nat) : SyncWord :=
  if n ≤ w.count then { w with count := w.count - n, gen := (w.gen + 1) % 2 ^ 32 } else { w with target := n }

/-- The generation has passed g under WAITG's test (R209). -/
def passed (gen g : Nat) : Bool :=
  let d := (gen + 2 ^ 32 - g % 2 ^ 32) % 2 ^ 32
  decide (1 ≤ d) && decide (d < 2 ^ 31)

/-- b bytes counted into the sync word at a scratchpad offset. A word that cannot be read is counted from free values (DESIGN CHOICE,
log entry 17). -/
def Core.arriveSync (c : Core) (p b : Nat) : Core :=
  let w : SyncWord :=
    if c.health.lostIn p 16 then
      { count := (Config.lostWord c.pkgIx c.postId p).toNat % 2 ^ 32, target := 0, gen := (Config.lostWord c.pkgIx c.postId (p + 8)).toNat % 2 ^ 32, ovf := false }
    else c.sync p
  ({ c with health := c.health.touchN p 16 } : Core).setSync p (w.arrive b)

/-! ### Conditions that block a command -/

/-- The scratchpad offset of a gated command's sync word. -/
def Cmd.gateAt (k : Cmd) : Nat := k.base + bitsOf k.sc.toNat 0 32

/-- A gated command's gate is open (R218), or its sync word cannot be read, which the command then finds (22_scheduling_faults.md R355). -/
def gateOpen (c : Core) (k : Cmd) : Bool :=
  !k.gate || c.health.lostIn k.gateAt 16 || passed (c.sync k.gateAt).gen (bitsOf k.sc.toNat 32 32)

/-- The bytes of a message's record (18_messages.md R279). -/
def recordBytes (len : Nat) : Nat := 16 + ceilTo len 16

/-- Bytes in the message store (18_messages.md R284). -/
def Core.stored (c : Core) : Nat :=
  (c.posted.map fun p =>
    match p.kind, p.stage with
    | .msg m, .inFlight | .msg m, .sent | .msg m, .held _ => recordBytes m.payload.length
    | _, _ => 0).sum

/-- The member's own contributions of tree i that the root has not totalled, those on their way included (R222). -/
def State.unfinished (s : State) (c : Core) (slot : BitVec 12) (wid : Word) (i : Nat) : Nat :=
  ((c.posted.filter fun p => p.stage == .inFlight && match p.kind with | .contribution _ t _ _ => t == i | _ => false).length)
    + ((s.pkg.trees.filter fun t => t.slot == slot && t.idx == i).map fun t => (t.parts.filter fun p => p.2.1 == wid).length).sum

/-- The carries that an actor has received on a chain. -/
def Actor.received (a : Actor) (ch : Nat) : Nat := (match a.ride ch with | some r => r.sent | none => 0) + (a.hopOf ch).length

/-- The predecessor's carry of a SCANC has not come, its successor's buffer is full, or its successor has yet to receive a carry of an
earlier round, which a member destroyed between them held (16_scan.md R269 to R271). -/
def rideWaits (s : State) (k : Cmd) : Bool :=
  let ch := k.x.w2f 5 1
  match (s.core.actor k.aid).bind fun a => (a.ride ch).map fun r => (a, r) with
  | some (a, r) =>
    (r.pos != 0 && r.hop == [] && !s.headless a ch)
      || (match s.nextHop a ch with
          | .actor b => decide (4 ≤ (b.hopOf ch).length) || decide (b.received ch < r.sent)
          | .unmade w => let n := (s.pkg.straysFor a.slot w ch).length; decide (4 ≤ n) || decide (n < r.sent)
          | .last | .beyond => false)
  | none => false

/-- The crossing unit's queue is full (14_lawstate.md R239). -/
def Grove.crossFull (g : Grove) : Bool := decide (16 ≤ g.crossings.length)

/-- The doubleword at a scratchpad offset. -/
def Core.word (c : Core) (p : Nat) : Word := BitVec.ofNat 64 (leNat (c.readScratch p 8))

/-- The address of a law command (14_lawstate.md R245). -/
def Cmd.lawEa (k : Cmd) : Word := k.sa + sxtWord 16 (k.x.w2f 16 16)

/-- The evaluation of a law command at the present LAWNOW finds a crossing (14_lawstate.md R238). -/
def lawFinds (s : State) (k : Cmd) : Bool :=
  let p := k.base + k.lawEa.toNat
  let lo := s.core.word p
  let l := lawOf s.grove.lawTab[lwIndex lo]
  l.wide == (k.x.w2f 0 1 == 1) && lawCrosses l lo (s.core.word (p + 8)) (lawAge s.grove.lawnow lo)

/-- A command that waits for an external condition of its own (R224). -/
def external (s : State) (k : Cmd) : Bool :=
  let c := s.core
  !gateOpen c k
    || (match k.cls, k.sub with
        | 12, 4 => decide (2 ≤ s.unfinished c k.slot k.wid (k.x.w2f 0 4))
        | 13, 2 => (match k.scan with | some w => w.cin.isNone | none => false) && rideWaits s k
        | 14, 0 | 14, 2 | 14, 3 => s.grove.crossFull && lawFinds s k
        | 15, 0 => decide (8192 < c.stored + recordBytes (k.x.w2f 16 10))
        | _, _ => false)

/-- The serial numbers of the commands that are blocked: by a condition of their own, or by a place behind such a command in
their queue or through the scoreboard. -/
def blockedOf (s : State) : List Cmd → List Cmd → List Cmd
  | [], acc => acc
  | k :: t, acc =>
    if external s k || acc.any fun b => b.q == k.q || b.conflicts k.reads k.writes then blockedOf s t (acc ++ [k])
    else blockedOf s t acc

/-- No command of the core can still be performed: each is blocked, and the NMU runs nothing. -/
def State.settled (s : State) : Bool :=
  let b := blockedOf s s.core.cmds []
  s.core.nmu.run.isNone && s.core.cmds.all fun k => b.any fun e => e.serial == k.serial

/-- Every earlier command whose ranges conflict with a command's has finished (12_memory.md R197). -/
def Core.scoreClear (c : Core) (k : Cmd) : Bool :=
  c.cmds.all fun e => decide (k.serial ≤ e.serial) || !e.conflicts k.reads k.writes

/-- A command may start: it stands at the head of its queue, the scoreboard holds nothing against it, it waits for nothing of
its own, and its request is granted (22_scheduling_faults.md R337). -/
def Core.startable (c : Core) (k : Cmd) : Bool :=
  (match (c.queue k.q).head? with | some h => h.serial == k.serial | none => false)
    && c.scoreClear k && (k.grant == .notNeeded || k.grant == .granted) && !k.abandoned

/-- Every command of a queue is blocked on an external condition. -/
def State.queueDead (s : State) (qu : Queue) : Bool :=
  (s.core.queue qu).all fun k => (blockedOf s s.core.cmds []).any fun b => b.serial == k.serial

/-! ### Issue of a command -/

/-- What an instruction asks a queue to take: ranges in scratchpad offsets, the registers it will write, the lanes it draws
(R111), its clearing request. -/
structure Req where
  q : Queue
  cls : Nat
  sub : Nat
  x : XOp
  lrec : Option LRec := none
  rec2 : Option LRec := none
  reads : List Range := []
  writes : List Range := []
  dst : List SReg := []
  lanes : Nat := 0
  grant : Grant := .notNeeded
  gate : Bool := false
  op : Option OpSlot := none
  fence : List Nat := []
deriving DecidableEq, Repr

/-- The gang's size as the lanes count it. -/
def State.gangSize (s : State) : Nat := s.members + 1

/-- The command that a request becomes, with what it captures (R58, R79). -/
def Req.cmd (u : Req) (s : State) : Cmd :=
  let c := s.core
  let r := c.regs
  { serial := c.serial, q := u.q, cls := u.cls, sub := u.sub, x := u.x, rc := r.capture u.x.rm.val
    sa := r.rs u.x.a, sb := r.rs u.x.b, sc := r.rs u.x.c, lrec := u.lrec, rec2 := u.rec2, op := u.op, aid := r.aid, wid := r.wid
    slot := (match c.act with | some a => a.slot | none => c.launchSlot)
    base := c.span.1, size := c.span.2, g := s.gangSize, ix := r.gangix, jid := c.gseq, reads := u.reads, writes := u.writes
    dst := u.dst, grant := u.grant, gate := u.gate, fence := u.fence, mser := c.mIssued + 1, counted := []
    abandoned := false, mgmt := c.mgmt }

/-- A command placed in its queue; one that finds the queue full holds, or raises QDEAD (R224). Under SR, SRCTR advances by the
lanes, in the V queue by the gang's (R111). -/
def place (u : Req) (s : State) : R :=
  if 16 ≤ (s.core.queue u.q).length then
    if s.queueDead u.q then .trap s .qdead (BitVec.ofNat 64 (queueNum u.q)) else .hold
  else
    let k := u.cmd s
    .done (s.mapCore fun c =>
      { c with
        cmds := c.cmds ++ [k]
        serial := c.serial + 1
        mIssued := if u.q = .m then c.mIssued + 1 else c.mIssued
        regs := if k.rc.mode = .sr then c.regs.advCtr (u.lanes * (if u.q = .v then s.gangSize else 1)) else c.regs })

/-- What issue knows of an extended instruction of class cls and subop sub. -/
def Iss.ext (cls sub : Nat) (x : XOp) (ok : Bool) (regs : List SReg) : Iss :=
  { ok := ok && xok cls sub x, w0 := BitVec.ofNat 32 (x.word0 cls sub), len := if x.h.lit.isSome then 20 else 12, g := x.h.g,
    regs := regs, wait := x.wait.val }

/-- Issue of an extended instruction of class cls and subop sub. -/
def xissue (cls sub : Nat) (x : XOp) (ok : Bool) (regs : List SReg) (m : State → R) (s : State) : Out :=
  issue (Iss.ext cls sub x ok regs) m s

end Sys2Proof.Machine
end

