-- ==== Sys2Proof/Machine/Scalar.lean ====
section
/-!
DEFINITION. Scalar integer, compare, predicate and select instructions (08_scalar.md R126 to R132).
-/
namespace Sys2Proof.Machine

/-- What issue knows of a core instruction of a 32-bit form. -/
def Iss.of (i : Instr) (g : Guard) (regs : List SReg) : Iss := { ok := i.wf, w0 := firstWord i, len := i.bytes, g := g, regs := regs }

/-- An instruction that completes in every member. -/
def scalar (i : Instr) (g : Guard) (regs : List SReg) (f : State → State) (s : State) : Out :=
  issue (Iss.of i g regs) (fun s => .done (f s)) s

/-- d := f a b. -/
def scalarA3 (i : Instr) (x : A3) (f : Word → Word → Word) (s : State) : Out :=
  scalar i x.h.g [x.d, x.a, x.b] (fun s => s.ws x.d (f (s.rs x.a) (s.rs x.b))) s

/-- d := f a. -/
def scalarA2 (i : Instr) (x : A2) (f : Word → Word) (s : State) : Out :=
  scalar i x.h.g [x.d, x.a] (fun s => s.ws x.d (f (s.rs x.a))) s

/-- d := f a imm. -/
def scalarAI (i : Instr) (g : Guard) (d a : SReg) (f : Word → Word) (s : State) : Out :=
  scalar i g [d, a] (fun s => s.ws d (f (s.rs a))) s

/-- pd and pe written. -/
def State.wpp (s : State) (pd pe : PReg) (b : Bool) : State := s.mapRegs fun r => (r.wp pd b).wp pe (!b)

/-! ### The operations (R126, R127) -/

/-- The smaller, signed. -/
def minS (a b : Word) : Word := if a.toInt ≤ b.toInt then a else b
/-- The larger, signed. -/
def maxS (a b : Word) : Word := if a.toInt ≤ b.toInt then b else a
/-- The smaller, unsigned. -/
def minU (a b : Word) : Word := if a.toNat ≤ b.toNat then a else b
/-- The larger, unsigned. -/
def maxU (a b : Word) : Word := if a.toNat ≤ b.toNat then b else a
/-- A count of a shift: b[5:0]. -/
def shiftCount (b : Word) : Nat := b.toNat % 64
/-- Signed quotient rounded toward zero. -/
def divS (a b : Word) : Word := if b = 0 then 0xFFFFFFFFFFFFFFFF else wordOfInt (a.toInt.tdiv b.toInt)
/-- Unsigned quotient. -/
def divU (a b : Word) : Word := if b = 0 then 0xFFFFFFFFFFFFFFFF else BitVec.ofNat 64 (a.toNat / b.toNat)
/-- Remainder with the sign of a. -/
def remS (a b : Word) : Word := if b = 0 then a else wordOfInt (a.toInt.tmod b.toInt)
/-- Unsigned remainder. -/
def remU (a b : Word) : Word := if b = 0 then a else BitVec.ofNat 64 (a.toNat % b.toNat)
/-- The high half of a product. -/
def mulHigh (a b : Int) : Word := wordOfInt (a * b / 2 ^ 64)
/-- |a − b| of signed operands as unsigned. -/
def absDiff (a b : Word) : Word := BitVec.ofNat 64 (a.toInt - b.toInt).natAbs
/-- Set bits among the low n. -/
def popCount : Nat → Nat → Nat
  | 0, _ => 0
  | n + 1, x => x % 2 + popCount n (x / 2)
/-- Trailing zeros among the low n. -/
def trailZeros : Nat → Nat → Nat
  | 0, _ => 0
  | n + 1, x => if x % 2 = 1 then 0 else 1 + trailZeros n (x / 2)
/-- The low n bits in reverse order. -/
def revBits : Nat → Nat → Nat
  | 0, _ => 0
  | n + 1, x => x % 2 * 2 ^ n + revBits n (x / 2)
/-- Leading zeros of n bits. -/
def leadZeros (n x : Nat) : Nat := trailZeros n (revBits n x)

/-- The condition of CMP and CMPI (R129). -/
def cmpCond (cond : Nat) (a b : Word) : Bool :=
  match cond with
  | 0 => a == b
  | 1 => a != b
  | 2 => decide (a.toInt < b.toInt)
  | 3 => decide (b.toInt ≤ a.toInt)
  | 4 => decide (a.toInt ≤ b.toInt)
  | 5 => decide (b.toInt < a.toInt)
  | 6 => decide (a.toNat < b.toNat)
  | 7 => decide (b.toNat ≤ a.toNat)
  | 8 => decide (a.toNat ≤ b.toNat)
  | 9 => decide (b.toNat < a.toNat)
  | 10 => a &&& b != 0
  | _ => a &&& b == 0

/-! ### The meanings -/

/-- ADD (R126). -/
def execAdd (x : A3) (s : State) : Out := scalarA3 (.add x) x (fun a b => a + b) s
/-- SUB (R126). -/
def execSub (x : A3) (s : State) : Out := scalarA3 (.sub x) x (fun a b => a - b) s
/-- MIN (R126). -/
def execMin (x : A3) (s : State) : Out := scalarA3 (.min x) x (fun a b => minS a b) s
/-- MAX (R126). -/
def execMax (x : A3) (s : State) : Out := scalarA3 (.max x) x (fun a b => maxS a b) s
/-- AND (R126). -/
def execAnd (x : A3) (s : State) : Out := scalarA3 (.and x) x (fun a b => a &&& b) s
/-- OR (R126). -/
def execOr (x : A3) (s : State) : Out := scalarA3 (.or x) x (fun a b => a ||| b) s
/-- XOR (R126). -/
def execXor (x : A3) (s : State) : Out := scalarA3 (.xor x) x (fun a b => a ^^^ b) s
/-- ANDN (R126). -/
def execAndn (x : A3) (s : State) : Out := scalarA3 (.andn x) x (fun a b => a &&& ~~~b) s
/-- SHL (R126). -/
def execShl (x : A3) (s : State) : Out := scalarA3 (.shl x) x (fun a b => a <<< shiftCount b) s
/-- SHR (R126). -/
def execShr (x : A3) (s : State) : Out := scalarA3 (.shr x) x (fun a b => a >>> shiftCount b) s
/-- SRA (R126). -/
def execSra (x : A3) (s : State) : Out := scalarA3 (.sra x) x (fun a b => a.sshiftRight (shiftCount b)) s
/-- ROTR (R126). -/
def execRotr (x : A3) (s : State) : Out := scalarA3 (.rotr x) x (fun a b => a.rotateRight (shiftCount b)) s
/-- MUL (R126). -/
def execMul (x : A3) (s : State) : Out := scalarA3 (.mul x) x (fun a b => a * b) s
/-- MULHS (R126). -/
def execMulhs (x : A3) (s : State) : Out := scalarA3 (.mulhs x) x (fun a b => mulHigh a.toInt b.toInt) s
/-- MULHU (R126). -/
def execMulhu (x : A3) (s : State) : Out := scalarA3 (.mulhu x) x (fun a b => mulHigh a.toNat b.toNat) s
/-- MULHSU (R126). -/
def execMulhsu (x : A3) (s : State) : Out := scalarA3 (.mulhsu x) x (fun a b => mulHigh a.toInt b.toNat) s
/-- DIVS (R127). -/
def execDivs (x : A3) (s : State) : Out := scalarA3 (.divs x) x (fun a b => divS a b) s
/-- DIVU (R127). -/
def execDivu (x : A3) (s : State) : Out := scalarA3 (.divu x) x (fun a b => divU a b) s
/-- REMS (R127). -/
def execRems (x : A3) (s : State) : Out := scalarA3 (.rems x) x (fun a b => remS a b) s
/-- REMU (R127). -/
def execRemu (x : A3) (s : State) : Out := scalarA3 (.remu x) x (fun a b => remU a b) s
/-- MINU (R126). -/
def execMinu (x : A3) (s : State) : Out := scalarA3 (.minu x) x (fun a b => minU a b) s
/-- MAXU (R126). -/
def execMaxu (x : A3) (s : State) : Out := scalarA3 (.maxu x) x (fun a b => maxU a b) s
/-- ABSD (R126). -/
def execAbsd (x : A3) (s : State) : Out := scalarA3 (.absd x) x (fun a b => absDiff a b) s
/-- CLZ (R126). -/
def execClz (x : A2) (s : State) : Out := scalarA2 (.clz x) x (fun a => BitVec.ofNat 64 (leadZeros 64 a.toNat)) s
/-- CTZ (R126). -/
def execCtz (x : A2) (s : State) : Out := scalarA2 (.ctz x) x (fun a => BitVec.ofNat 64 (trailZeros 64 a.toNat)) s
/-- POPC (R126). -/
def execPopc (x : A2) (s : State) : Out := scalarA2 (.popc x) x (fun a => BitVec.ofNat 64 (popCount 64 a.toNat)) s
/-- BREV (R126). -/
def execBrev (x : A2) (s : State) : Out := scalarA2 (.brev x) x (fun a => BitVec.ofNat 64 (revBits 64 a.toNat)) s
/-- ADDI (R128). -/
def execAddi (x : AiF) (s : State) : Out := scalarAI (.addi x) x.g x.d x.a (fun a => a + x.imm.signExtend 64) s
/-- ANDI (R128). -/
def execAndi (x : AiF) (s : State) : Out := scalarAI (.andi x) x.g x.d x.a (fun a => a &&& x.imm.signExtend 64) s
/-- ORI (R128). -/
def execOri (x : AiF) (s : State) : Out := scalarAI (.ori x) x.g x.d x.a (fun a => a ||| x.imm.signExtend 64) s
/-- XORI (R128). -/
def execXori (x : AiF) (s : State) : Out := scalarAI (.xori x) x.g x.d x.a (fun a => a ^^^ x.imm.signExtend 64) s
/-- SHLI (R128). -/
def execShli (x : ShF) (s : State) : Out := scalarAI (.shli x) x.g x.d x.a (fun a => a <<< x.cnt.val) s
/-- SHRI (R128). -/
def execShri (x : ShF) (s : State) : Out := scalarAI (.shri x) x.g x.d x.a (fun a => a >>> x.cnt.val) s
/-- SRAI (R128). -/
def execSrai (x : ShF) (s : State) : Out := scalarAI (.srai x) x.g x.d x.a (fun a => a.sshiftRight x.cnt.val) s
/-- LIS (R128). -/
def execLis (x : LiF) (s : State) : Out := scalar (.lis x) x.g [x.d] (fun s => s.ws x.d (x.imm.signExtend 64)) s
/-- ADDI_LIT (R63). -/
def execAddiLit (x : AiL) (s : State) : Out := scalarAI (.addiLit x) x.g x.d x.a (fun a => a + x.imm) s
/-- ANDI_LIT (R63). -/
def execAndiLit (x : AiL) (s : State) : Out := scalarAI (.andiLit x) x.g x.d x.a (fun a => a &&& x.imm) s
/-- ORI_LIT (R63). -/
def execOriLit (x : AiL) (s : State) : Out := scalarAI (.oriLit x) x.g x.d x.a (fun a => a ||| x.imm) s
/-- XORI_LIT (R63). -/
def execXoriLit (x : AiL) (s : State) : Out := scalarAI (.xoriLit x) x.g x.d x.a (fun a => a ^^^ x.imm) s
/-- SHLI_LIT (R63). -/
def execShliLit (x : ShF) (s : State) : Out := scalarAI (.shliLit x) x.g x.d x.a (fun a => a <<< x.cnt.val) s
/-- SHRI_LIT (R63). -/
def execShriLit (x : ShF) (s : State) : Out := scalarAI (.shriLit x) x.g x.d x.a (fun a => a >>> x.cnt.val) s
/-- SRAI_LIT (R63). -/
def execSraiLit (x : ShF) (s : State) : Out := scalarAI (.sraiLit x) x.g x.d x.a (fun a => a.sshiftRight x.cnt.val) s
/-- LIS_LIT (R63). -/
def execLisLit (x : LiL) (s : State) : Out := scalar (.lisLit x) x.g [x.d] (fun s => s.ws x.d x.imm) s
/-- CMP (R129). -/
def execCmp (x : CmpF) (s : State) : Out :=
  scalar (.cmp x) x.h.g [x.a, x.b] (fun s => s.wpp x.pd x.pe (cmpCond x.cond.val (s.rs x.a) (s.rs x.b))) s
/-- CMPI (R129). -/
def execCmpi (x : CiF) (s : State) : Out :=
  scalar (.cmpi x) x.g [x.a] (fun s => s.wpp x.pd x.pe (cmpCond x.cond.val (s.rs x.a) (x.imm.signExtend 64))) s
/-- CMPI_LIT (R63). -/
def execCmpiLit (x : CiL) (s : State) : Out :=
  scalar (.cmpiLit x) x.g [x.a] (fun s => s.wpp x.pd x.pe (cmpCond x.cond.val (s.rs x.a) x.imm)) s
/-- PLOG (R131): pa and pb are read before either write. -/
def execPlog (x : PlF) (s : State) : Out :=
  scalar (.plog x) x.h.g []
    (fun s =>
      let r := s.core.regs
      let k := (if r.rp x.pa then 2 else 0) + (if r.rp x.pb then 1 else 0)
      s.wpp x.pd x.pe (bitAt x.tt.val k)) s
/-- SEL (R132). -/
def execSel (x : SlF) (s : State) : Out :=
  scalar (.sel x) x.h.g [x.d, x.a, x.b] (fun s => s.ws x.d (if s.core.regs.rp x.ps then s.rs x.a else s.rs x.b)) s
/-- PGET (R132). -/
def execPget (x : PmF) (s : State) : Out :=
  scalar (.pget x) x.h.g [x.d] (fun s => s.ws x.d ((s.core.regs.p ||| 1).setWidth 64)) s
/-- PPUT (R132): p1 to p7 from d[7:1]; p0 stands. -/
def execPput (x : PmF) (s : State) : Out :=
  scalar (.pput x) x.h.g [x.d] (fun s => s.mapRegs fun r => { r with p := (r.rs x.d).setWidth 8 ||| 1 }) s

end Sys2Proof.Machine
end

