-- ==== Sys2Proof/Machine/Float.lean ====
section
/-!
DEFINITION. Scalar floating point (08_scalar.md R121, R130, R133 to R135).
-/
namespace Sys2Proof.Machine

/-- The value of a scalar register in a format (R121). -/
def FFmt.ofWord (f : FFmt) (w : Word) : FVal := f.unpack (w.toNat % 2 ^ f.width)

/-- A value written to a scalar register, zeros above (R121). -/
def FFmt.toWord (f : FFmt) (v : FVal) : Word := BitVec.ofNat 64 (f.pack v)

/-- A rounding operation: SRCTR advances by 1 under SR, and the flags accrue (R125). -/
def floatOp (i : Instr) (x : FA3) (f : FFmt) (op : RMode → Nat → FVal → FVal → FVal → FVal × Flags) (s : State) : Out :=
  scalar i x.h.g [x.d, x.a, x.b]
    (fun s =>
      let r := s.core.regs
      let c := r.capture x.rm.val
      let v := op c.mode (c.draw 0) (f.ofWord (r.rs x.a)) (f.ofWord (r.rs x.b)) (f.ofWord (r.rs x.d))
      s.mapRegs fun r => ((if c.mode = .sr then r.advCtr 1 else r).ws x.d (f.toWord v.1)).accrue v.2) s

/-- An operation that does not round. -/
def floatPick (i : Instr) (x : A3) (f : FFmt) (op : FVal → FVal → FVal) (s : State) : Out :=
  scalarA3 i x (fun a b => f.toWord (op (f.ofWord a) (f.ofWord b))) s

/-- The magnitude of a with the sign of b; a NaN gives the canonical NaN (R134). -/
def copySign (f : FFmt) (a b : Word) : Word :=
  let m := 2 ^ (f.width - 1)
  if (f.ofWord a).isNan then BitVec.ofNat 64 f.qnan
  else BitVec.ofNat 64 (a.toNat % m + b.toNat / m % 2 * m)

/-- The condition of FCMP (R130). -/
def fcmpCond (cond : Nat) (a b : FVal) : Bool :=
  let un := a.isNan || b.isNan
  match cond with
  | 0 => !un && veq a b
  | 1 => un || !veq a b
  | 2 => !un && vlt a b
  | 3 => !un && !vlt a b
  | 4 => !un && !vlt b a
  | 5 => !un && vlt b a
  | 6 => un
  | _ => !un

/-- FCMP in a format. -/
def floatCmp (i : Instr) (x : CmpF) (f : FFmt) (s : State) : Out :=
  scalar i x.h.g [x.a, x.b] (fun s => s.wpp x.pd x.pe (fcmpCond x.cond.val (f.ofWord (s.rs x.a)) (f.ofWord (s.rs x.b)))) s

/-- FCMP (R130). -/
def execFcmpF32 (x : CmpF) (s : State) : Out := floatCmp (.fcmpF32 x) x .fp32 s
/-- FCMP (R130). -/
def execFcmpF16 (x : CmpF) (s : State) : Out := floatCmp (.fcmpF16 x) x .fp16 s
/-- FCMP (R130). -/
def execFcmpBf16 (x : CmpF) (s : State) : Out := floatCmp (.fcmpBf16 x) x .bf16 s
/-- FADD (R133). -/
def execFaddF32 (x : FA3) (s : State) : Out := floatOp (.faddF32 x) x .fp32 (fun m u a b _ => fadd .fp32 m u a b) s
/-- FSUB (R133). -/
def execFsubF32 (x : FA3) (s : State) : Out := floatOp (.fsubF32 x) x .fp32 (fun m u a b _ => fsub .fp32 m u a b) s
/-- FMUL (R133). -/
def execFmulF32 (x : FA3) (s : State) : Out := floatOp (.fmulF32 x) x .fp32 (fun m u a b _ => fmul .fp32 m u a b) s
/-- FMAC (R133). -/
def execFmacF32 (x : FA3) (s : State) : Out := floatOp (.fmacF32 x) x .fp32 (fun m u a b d => ffma .fp32 m u a b d) s
/-- FMSC (R133). -/
def execFmscF32 (x : FA3) (s : State) : Out := floatOp (.fmscF32 x) x .fp32 (fun m u a b d => ffms .fp32 m u a b d) s
/-- FMIN (R134). -/
def execFminF32 (x : A3) (s : State) : Out := floatPick (.fminF32 x) x .fp32 fminV s
/-- FMAX (R134). -/
def execFmaxF32 (x : A3) (s : State) : Out := floatPick (.fmaxF32 x) x .fp32 fmaxV s
/-- FCPS (R134). -/
def execFcpsF32 (x : A3) (s : State) : Out := scalarA3 (.fcpsF32 x) x (copySign .fp32) s
/-- FADD (R133). -/
def execFaddF16 (x : FA3) (s : State) : Out := floatOp (.faddF16 x) x .fp16 (fun m u a b _ => fadd .fp16 m u a b) s
/-- FSUB (R133). -/
def execFsubF16 (x : FA3) (s : State) : Out := floatOp (.fsubF16 x) x .fp16 (fun m u a b _ => fsub .fp16 m u a b) s
/-- FMUL (R133). -/
def execFmulF16 (x : FA3) (s : State) : Out := floatOp (.fmulF16 x) x .fp16 (fun m u a b _ => fmul .fp16 m u a b) s
/-- FMAC (R133). -/
def execFmacF16 (x : FA3) (s : State) : Out := floatOp (.fmacF16 x) x .fp16 (fun m u a b d => ffma .fp16 m u a b d) s
/-- FMSC (R133). -/
def execFmscF16 (x : FA3) (s : State) : Out := floatOp (.fmscF16 x) x .fp16 (fun m u a b d => ffms .fp16 m u a b d) s
/-- FMIN (R134). -/
def execFminF16 (x : A3) (s : State) : Out := floatPick (.fminF16 x) x .fp16 fminV s
/-- FMAX (R134). -/
def execFmaxF16 (x : A3) (s : State) : Out := floatPick (.fmaxF16 x) x .fp16 fmaxV s
/-- FCPS (R134). -/
def execFcpsF16 (x : A3) (s : State) : Out := scalarA3 (.fcpsF16 x) x (copySign .fp16) s
/-- FADD (R133). -/
def execFaddBf16 (x : FA3) (s : State) : Out := floatOp (.faddBf16 x) x .bf16 (fun m u a b _ => fadd .bf16 m u a b) s
/-- FSUB (R133). -/
def execFsubBf16 (x : FA3) (s : State) : Out := floatOp (.fsubBf16 x) x .bf16 (fun m u a b _ => fsub .bf16 m u a b) s
/-- FMUL (R133). -/
def execFmulBf16 (x : FA3) (s : State) : Out := floatOp (.fmulBf16 x) x .bf16 (fun m u a b _ => fmul .bf16 m u a b) s
/-- FMAC (R133). -/
def execFmacBf16 (x : FA3) (s : State) : Out := floatOp (.fmacBf16 x) x .bf16 (fun m u a b d => ffma .bf16 m u a b d) s
/-- FMSC (R133). -/
def execFmscBf16 (x : FA3) (s : State) : Out := floatOp (.fmscBf16 x) x .bf16 (fun m u a b d => ffms .bf16 m u a b d) s
/-- FMIN (R134). -/
def execFminBf16 (x : A3) (s : State) : Out := floatPick (.fminBf16 x) x .bf16 fminV s
/-- FMAX (R134). -/
def execFmaxBf16 (x : A3) (s : State) : Out := floatPick (.fmaxBf16 x) x .bf16 fmaxV s
/-- FCPS (R134). -/
def execFcpsBf16 (x : A3) (s : State) : Out := scalarA3 (.fcpsBf16 x) x (copySign .bf16) s

/-- The width and sign of an integer code of FCVT (04_formats.md R67). -/
def cvInt (k : Nat) : Bool × Nat :=
  match k with
  | 0 => (true, 64)
  | 1 => (false, 64)
  | 2 => (true, 32)
  | _ => (false, 32)

/-- The format of a float code of FCVT (R67). -/
def cvFmt (k : Nat) : FFmt :=
  match k with
  | 4 => .fp32
  | 5 => .fp16
  | _ => .bf16

/-- The value FCVT reads (R121). -/
def cvRead (k : Nat) (w : Word) : FVal :=
  if k ≤ 3 then FVal.ofInt (readInt (cvInt k).1 (cvInt k).2 w.toNat) else (cvFmt k).ofWord w

/-- The word FCVT writes, with its flags (R112, R121). -/
def cvWrite (k : Nat) (m : RMode) (u : Nat) (sat : Bool) (v : FVal) : Word × Flags :=
  if k ≤ 3 then
    let r := cvtToInt (cvInt k).1 (cvInt k).2 m u sat v
    (wordOfInt (readInt (cvInt k).1 (cvInt k).2 r.1), r.2)
  else
    let r := cvtToF (cvFmt k) m u false v
    ((cvFmt k).toWord r.1, r.2)

/-- FCVT (R135). -/
def execFcvt (x : CvF) (s : State) : Out :=
  scalar (.fcvt x) x.h.g [x.d, x.a]
    (fun s =>
      let r := s.core.regs
      let c := r.capture x.rm.val
      let v := cvWrite x.dst.val c.mode (c.draw 0) x.sat (cvRead x.src.val (r.rs x.a))
      s.mapRegs fun r => ((if c.mode = .sr then r.advCtr 1 else r).ws x.d v.1).accrue v.2) s

end Sys2Proof.Machine
end

