-- ==== Sys2Proof/Machine/Mailbox.lean ====
section
/-!
DEFINITION. Mailbox rings: header fields, reservation, landing and eligibility (18_messages.md R279 to R288).
-/
namespace Sys2Proof.Machine

/-! ### The header (R279) -/

/-- TYPE. -/
def hdrType (h0 : Word) : Fin 32 := Fin.ofNat 32 h0.toNat
/-- CC. -/
def hdrCC (h0 : Word) : Bool := h0.getLsbD 5
/-- ORD. -/
def hdrOrd (h0 : Word) : Bool := h0.getLsbD 6
/-- CLASS. -/
def hdrClass (h0 : Word) : Fin 8 := Fin.ofNat 8 (h0.toNat / 2 ^ 8)
/-- LEN. -/
def hdrLen (h0 : Word) : Nat := bitsOf h0.toNat 16 10
/-- SENDER. -/
def hdrSender (h0 : Word) : BitVec 24 := BitVec.ofNat 24 (bitsOf h0.toNat 32 24)
/-- SPKG. -/
def hdrPkg (h0 : Word) : Byte := BitVec.ofNat 8 (bitsOf h0.toNat 56 8)
/-- The sync word that a record names, as an actor-space offset; one that is not 16-byte aligned is used as it stands (DESIGN CHOICE: R294
says that the field is aligned and gives no outcome else, log entry 61). -/
def hdrSync (h1 : Word) : Option Nat := if h1.getLsbD 36 then some (bitsOf h1.toNat 16 20) else none

/-- Bytes 0–7 of a header. -/
def header0 (pkg : Nat) (sender : BitVec 24) (len cls : Nat) (ord cc : Bool) (typ : Nat) : Word :=
  BitVec.ofNat 64 (pkg % 256 * 2 ^ 56 + sender.toNat * 2 ^ 32 + len % 1024 * 2 ^ 16 + cls % 8 * 2 ^ 8 + (if ord then 64 else 0)
    + (if cc then 32 else 0) + typ % 32)

/-! ### Handler entries (R285) -/

/-- An entry's fields. -/
def entryV (e : BitVec 128) : Bool := e.getLsbD 81
/-- Closing. -/
def entryCL (e : BitVec 128) : Bool := e.getLsbD 80
/-- Carried code permitted. -/
def entryCP (e : BitVec 128) : Bool := e.getLsbD 79
/-- Retry-safe. -/
def entryRS (e : BitVec 128) : Bool := e.getLsbD 78
/-- Dispatch class. -/
def entryClass (e : BitVec 128) : Fin 8 := Fin.ofNat 8 (e.toNat / 2 ^ 75)
/-- Required LEN. -/
def entryLchk (e : BitVec 128) : Nat := bitsOf e.toNat 64 10
/-- Handler address. -/
def entryCode (e : BitVec 128) : Nat := bitsOf e.toNat 0 48

/-! ### Rings -/

/-- Bytes of the ring. -/
def Actor.ring (a : Actor) : Nat := 2 ^ a.ringK

/-- U of R280. -/
def Actor.used (a : Actor) : Nat := (a.tail + a.ring - a.head) % a.ring

/-- The pad record at TAIL. -/
def padRec (a : Actor) (size : Nat) : MRec :=
  { off := a.tail, size := size, pad := true, filed := 0, typ := 0, len := size - 16, sender := 0, spkg := 0, ord := false
    h0 := BitVec.ofNat 64 ((size - 16) * 2 ^ 16 + 128), h1 := 0, payload := [], own := none, score := 0xFFF, landed := true, dispatched := true
    disposed := true }

/-- The record of a message at an offset, filed under the class of its entry as it stands (R286). -/
def newRec (a : Actor) (off size : Nat) (m : MsgArgs) (own : Option (Nat × Nat)) : MRec :=
  let t := hdrType m.h0
  let e := a.handlers[t]
  { off := off, size := size, pad := false, filed := if entryV e then entryClass e else hdrClass m.h0, typ := t, len := hdrLen m.h0
    sender := hdrSender m.h0, spkg := hdrPkg m.h0, ord := hdrOrd m.h0, h0 := m.h0, h1 := m.h1, payload := m.payload, own := own
    score := 0xFFF, landed := false, dispatched := false, disposed := false }

/-- The reservation of R281: the actor after it, the record's offset, and the pad record written, if any; none is a refusal. -/
def reserve (a : Actor) (m : MsgArgs) (own : Option (Nat × Nat)) : Option (Actor × Nat × Option MRec) :=
  let n := recordBytes (hdrLen m.h0)
  let a := if a.used = 0 ∧ a.recs = [] then { a with head := 0, tail := 0 } else a
  let room := a.ring - 16 - a.used
  if n ≤ a.ring - a.tail then
    if room < n then none
    else some ({ a with recs := a.recs ++ [newRec a a.tail n m own], tail := (a.tail + n) % a.ring }, a.tail, none)
  else
    let pad := a.ring - a.tail
    if room < pad + n then none
    else some ({ a with recs := a.recs ++ [padRec a pad, newRec a 0 n m own], tail := n }, 0, some (padRec a pad))

/-- A sender listed for an actor (R283): whether it is on the list then. A sender is a core together with the actor whose activation sent
the message, 0 for a task (DESIGN CHOICE: R283 does not say whether a listing names a core, an actor or both; log entry 61). -/
def Core.list (c : Core) (src : Source) (aid : BitVec 24) : Core × Bool :=
  if c.room.any fun l => l.aid == aid && l.src == src then (c, true)
  else if c.room.length < 64 then ({ c with room := c.room ++ [{ src := src, aid := aid }] }, true)
  else (c, false)

/-! ### Eligibility (R46, R286 to R288) -/

/-- An earlier record of the same sender is undispatched. -/
def ordHeld (r : MRec) (earlier : List MRec) : Bool :=
  r.ord && r.sender != 0 && earlier.any fun e => !e.pad && !e.dispatched && e.sender == r.sender && e.spkg == r.spkg

/-- Landed, undispatched, of an open type and not held by ORD. -/
def openRec (a : Actor) (r : MRec) (earlier : List MRec) : Bool :=
  !r.pad && r.landed && !r.dispatched && !entryCL a.handlers[r.typ] && !ordHeld r earlier

/-- The records that would be eligible whatever the mask, in ring order. -/
def openRecs (a : Actor) : List MRec → List MRec → List MRec
  | [], _ => []
  | r :: t, earlier => (if openRec a r earlier then [r] else []) ++ openRecs a t (earlier ++ [r])

/-- The eligible records of an actor, in ring order: its class is unmasked, and no activation of the actor runs (R29). -/
def Core.eligible (c : Core) (a : Actor) : List MRec :=
  if c.runs a.aid then [] else (openRecs a a.recs []).filter fun r => !a.cmask.getLsbD r.filed

end Sys2Proof.Machine
end

