-- ==== Sys2Proof/Machine/Posted.lean ====
section
/-!
DEFINITION. Posted accesses and their arrival: exposure windows (12_memory.md R198 to R201), device memory (R202), atomics at
their destination (R215 to R217), message arrival (18_messages.md R281, R283), and the order of one pair (R205, R226).
-/
namespace Sys2Proof.Machine

/-! ### Windows -/

/-- The right a window must grant. -/
inductive Need where
  | load | store | atomic
deriving DecidableEq, Repr

/-- A window descriptor's fields (R198). -/
def winLen (w : Word) : Nat := bitsOf w.toNat 40 20
/-- BASE. -/
def winBase (w : Word) : Nat := bitsOf w.toNat 20 20
/-- AOFF. -/
def winOff (w : Word) : Nat := bitsOf w.toNat 0 20
/-- The window is valid and grants the right. -/
def winGrants (w : Word) (n : Need) : Bool :=
  w.getLsbD 63 && (match n with | .load => w.getLsbD 60 | .store => w.getLsbD 61 | .atomic => w.getLsbD 62)

/-- The region offset of n bytes at an actor-space offset through one window (R199). -/
def winReach (w : Word) (off n : Nat) (need : Need) : Option Nat :=
  if winGrants w need ∧ winOff w ≤ off ∧ off + n ≤ winOff w + winLen w then some (winBase w + (off - winOff w)) else none

/-- The region offset that some window gives. -/
def Actor.reach (a : Actor) (off n : Nat) (need : Need) : Option Nat := a.windows.toList.findSome? fun w => winReach w off n need

/-- Where an actor-space access goes: to scratchpad offset p of member k, to a refusal, to an evicted actor's queue, or out of
the state's reach. -/
inductive Reach where
  | at_ (k p : Nat)
  | no (why : Refused)
  | evicted
  | away (near : Bool)
deriving DecidableEq, Repr

/-- Every port that leads to a package has failed (26_system.md R388). -/
def State.cutOff (s : State) (pk : Nat) : Bool :=
  let l := s.pkg.ports.toList.filter fun p => p.leads.contains pk
  l != [] && l.all Port.failed

/-- The port of a pair as it stands: the one it was given, or the one it has moved to (26_system.md R388). -/
def State.portOf (s : State) (core pk : Nat) (aid : BitVec 24) : Fin 64 :=
  let p : Fin 64 := Fin.ofNat 64 (Config.pairPort core pk aid.toNat)
  match s.pkg.ports[p].moved.find? fun m => m.1 == pk with
  | some m => Fin.ofNat 64 m.2
  | none => p

/-- An address whose pair with the core is held at its source. -/
def State.addrHeld (s : State) (addr : Word) : Bool :=
  match placeOf s addr with
  | some (.actor (some pk) aid _) => !s.cutOff pk && (s.pkg.ports[s.portOf s.core.pkgIx pk aid]).held
  | _ => false

/-- A posted access of the core whose pair is held at its source. -/
def State.pairHeld (s : State) (p : Posted) : Bool := s.addrHeld p.addr

/-- Where an actor stands. -/
def State.place (s : State) (pk : Option Nat) (aid : BitVec 24) : Reach :=
  match pk with
  | some n => if s.cutOff n then .no .adead else .away false
  | none =>
    match residentAt aid s.cores 0 with
    | some (k, _) => .at_ k 0
    | none =>
      match s.pkg.entry aid with
      | some e =>
        (match e.at_ with
         | .away near => .away near
         | .evicted => .evicted
         | .here | .destroyed => .no .adead)
      | none => .no .adead

/-- Where n bytes at an actor-space offset are, with the window checks of R199 and R200. -/
def State.reach (s : State) (pk : Option Nat) (aid : BitVec 24) (off n : Nat) (need : Need) : Reach :=
  match s.place pk aid with
  | .at_ k _ =>
    match (residentAt aid s.cores 0).bind fun x => (x.2.reach off n need).map fun p => x.2.base + p with
    | some p => .at_ k p
    | none => .no .wnack
  | .evicted =>
    match (s.pkg.evicted.find? fun e => e.actor.aid == aid).bind fun e => e.actor.reach off n need with
    | some _ => .evicted
    | none => .no .wnack
  | r => r

/-- New arrivals at an actor wait until a reload has performed its holding queue (18_messages.md R293), and while the queue of an
evicted one is full (R292). -/
def State.queueing (s : State) (addr : Word) : Bool :=
  match placeOf s addr with
  | some (.actor none aid _) =>
    (match residentAt aid s.cores 0 with
     | some (_, a) => a.holding != []
     | none => s.pkg.evicted.any fun e => e.actor.aid == aid && decide (e.room ≤ e.holding.length))
  | _ => false

/-! ### Device memory -/

/-- The 32-byte units of a range. -/
def unitsOf (pa n : Nat) : List Nat := (List.range ((pa + n + 31) / 32 - pa / 32)).map fun i => pa / 32 + i

/-- Reads of parts of device memory counted. -/
def State.activateAll (s : State) (l : List (Nat × Nat)) : State := l.foldl (fun s p => s.activate p.1 p.2) s

/-- Bytes of device memory written; a write makes its units good. -/
def Pkg.writeMem (p : Pkg) (pa : Nat) (bs : List Byte) : Pkg :=
  { p with
    acts := countRows pa bs.length p.acts
    dmem := p.dmem.writeN pa bs
    badUnits := if p.badUnits = [] then [] else p.badUnits.filter fun u => !(unitsOf pa bs.length).contains u }

/-- A read of device memory finds an error that cannot be corrected (22_scheduling_faults.md R357). -/
def Pkg.memLost (p : Pkg) (pa n : Nat) : Bool := p.badUnits != [] && (unitsOf pa n).any fun u => p.badUnits.contains u

/-- Bytes of device memory. -/
def Pkg.readMem (p : Pkg) (pa n : Nat) : List Byte := p.dmem.readN pa n

/-- Device memory written. -/
def State.writeDev (s : State) (pa : Nat) (bs : List Byte) : State := { s with pkg := s.pkg.writeMem pa bs }

/-! ### Profiling (24_debug.md R376) -/

/-- The scratchpad address that an actor-space offset names at a resident actor, whatever the window grants. -/
def Actor.byteAt (a : Actor) (off : Nat) : Option Nat :=
  a.windows.toList.findSome? fun w =>
    if w.getLsbD 63 ∧ winOff w ≤ off ∧ off < winOff w + winLen w then some (a.base + winBase w + (off - winOff w)) else none

/-- The profiling accumulator of an access: bits [8:3] of the address at its scratchpad, the package bank number in device memory
(DESIGN CHOICE: counted in banks of 12 MiB, and by the access's own address where no window of the state gives the bank; log
entry 5). -/
def State.bankOf (s : State) (pl : Place) (addr : Word) (pa : Nat) : Fin 64 :=
  match pl with
  | .inter _ => Fin.ofNat 64 (pa / 0xC00000)
  | .linear q => Fin.ofNat 64 (q / 0xC00000)
  | .actor none aid off =>
    Fin.ofNat 64 ((((residentAt aid s.cores 0).bind fun r => r.2.byteAt off).getD addr.toNat) / 8)
  | _ => Fin.ofNat 64 (addr.toNat / 8)

/-- A response added to an accumulator of the core. -/
def State.respondAt (s : State) (b : Fin 64) : State :=
  { s.mapCore (fun c => c.account b (Config.roundTrip s.fresh)) with fresh := s.fresh + 1 }

/-- The response to a remote access of the core, added to its accumulator. -/
def State.respond (s : State) (pl : Place) (addr : Word) (pa : Nat) : State := s.respondAt (s.bankOf pl addr pa)

/-- The accumulator of flit i of a posted access: a message's flit counts by the ring bytes that it reaches. -/
def State.flitBank (s : State) (p : Posted) (pl : Place) (i : Nat) : Fin 64 :=
  match p.ring with
  | some a => Fin.ofNat 64 ((a + i * (if p.near then 32 else 64)) / 8)
  | none => s.bankOf pl p.addr p.pa

/-- The responses of a posted access, one for each of its flits. -/
def State.accountPost (s : State) (p : Posted) (flits : Nat) : State :=
  match placeOf s p.addr with
  | some pl => (List.range flits).foldl (fun s i => s.respondAt (s.flitBank p pl i)) s
  | none => s

/-! ### Performing at a scratchpad -/

/-- The source index of R365. -/
def Source.score (c : Source) : Nat := if c.other then 0xFFF else c.core

/-- An access of a source on n scratchpad bytes at p, as the watchpoints of core c see it. A core's own scalar access through an actor's
windows comes from no network (DEDUCED, log entry 10). -/
def arrivingTouch (c : Core) (src : Source) (kind p n : Nat) : Touch :=
  { kind := kind, rd := false, remote := !(decide (kind < 3) && src.core == c.pkgIx && !src.other), score := Source.score src, said := src.aid, lo := p, n := n }

/-- Bytes written at scratchpad offset p of member k, seen by its watchpoints. -/
def State.writeAt (s : State) (k p : Nat) (bs : List Byte) (kind : Nat) (src : Source) : State :=
  let s := (focus k s).mapCore fun c => c.writeScratch p bs
  focus k (s.touched (arrivingTouch s.core src kind p bs.length))

/-- A load of n bytes at scratchpad offset p of member k: the storage is read, and its watchpoints see an access that finds its
bytes. -/
def State.readAt (s : State) (k p n : Nat) (src : Source) : State :=
  let t := focus k ((focus k s).mapCore fun c => { c with health := c.health.touchN p n })
  if (focus k s).core.health.lostIn p n then t
  else focus k ((focus k t).touched (arrivingTouch (focus k t).core src 0 p n))

/-- The storage of a member read over n bytes: its health after the read (22_scheduling_faults.md R356). -/
def State.touchStore (s : State) (k p n : Nat) : State := focus k ((focus k s).mapCore fun c => { c with health := c.health.touchN p n })

/-- b bytes counted into the sync word at scratchpad offset p of member k. -/
def State.syncAt (s : State) (k p b : Nat) : State := focus k ((focus k s).mapCore fun c => c.arriveSync p b)

/-! ### Atomics -/

/-- The rounding of an atomic's arguments. -/
def AtomicArgs.mode (a : AtomicArgs) : RMode := (rmodeOf a.rm.val).getD .rne

/-- What an atomic writes for what it finds, and its flags (R215, R217). -/
def atomicOp (a : AtomicArgs) (m : Nat) : Nat × Flags :=
  let w := tyBits a.ty.val
  let b := a.b.toNat % 2 ^ w
  let sg (x : Nat) : Int := readInt true w x
  match a.op.val with
  | 0 => ((m + b) % 2 ^ w, noFlags)
  | 1 => (Nat.land m b, noFlags)
  | 2 => (Nat.lor m b, noFlags)
  | 3 => (Nat.xor m b, noFlags)
  | 4 => (if sg m ≤ sg b then m else b, noFlags)
  | 5 => (if sg m ≤ sg b then b else m, noFlags)
  | 6 => (min m b, noFlags)
  | 7 => (max m b, noFlags)
  | 8 => (b, noFlags)
  | 9 => (if m = a.c.toNat % 2 ^ w then b else m, noFlags)
  | _ =>
    let f := (fmtOf a.ty.val).getD .fp32
    let r := fadd f (AtomicArgs.mode a) a.u.toNat (f.unpack m) (f.unpack b)
    (f.pack r.1, r.2)

/-- The old value as d receives it (08_scalar.md R121, 12_memory.md R215). -/
def atomicOld (ty : Nat) (m : Nat) : Word :=
  if ty = 4 then sxtWord 32 m else BitVec.ofNat 64 (m % 2 ^ tyBits ty)

/-! ### What a performance comes to -/

/-- The state after an access reached its destination: refused or performed, its flags, and the value found. -/
structure Done where
  s : State
  why : Option Refused := none
  flags : Flags := {}
  old : Nat := 0
deriving DecidableEq, Repr

/-- A refusal's cause. -/
def refusedCause (w : Refused) : Cause := match w with | .adead => .adead | .memErr => .memerr | _ => .wnack

/-- A refusal. -/
def Done.no (s : State) (w : Refused) : Done := { s := s, why := some w }

/-- An access appended to an evicted actor's holding queue (18_messages.md R292). -/
def State.holdFor (s : State) (aid : BitVec 24) (a : NetAccess) : State :=
  { s with pkg := { s.pkg with
      evicted := s.pkg.evicted.map fun e => if e.actor.aid = aid then { e with holding := e.holding ++ [a] } else e } }

/-- A sync word in actor space is refused where its window is (R199, R219). -/
def State.syncRefused (s : State) (sync : Option SyncAt) : Option Refused :=
  match sync with
  | some (.remote w) =>
    (match placeOf s w with
     | some (.actor pk aid off) => (match s.reach pk aid off 16 .store with | .no why => some why | _ => none)
     | _ => none)
  | _ => none

/-- A store or flit of bytes performed at its place; sync is the word it counts into. A flit whose sync word is refused is refused as
a whole (DESIGN CHOICE, log entry 53); a count for an evicted actor joins its holding queue (18_messages.md R292). -/
def performBytes (s : State) (pl : Place) (pa : Nat) (addr : Word) (bs : List Byte) (sync : Option SyncAt) (flit : Bool)
    (src : Source) : Done :=
  let kind := if flit then 3 else 1
  let after (t : State) : Done :=
    match sync with
    | none => { s := t }
    | some (.own p) => { s := t.syncAt 0 p bs.length }
    | some (.remote w) =>
      match placeOf t w with
      | some (.actor pk aid off) =>
        (match t.reach pk aid off 16 .store with
         | .at_ k p => { s := t.syncAt k p bs.length }
         | .no why => .no s why
         | .evicted =>
           { s := t.holdFor aid { src := src, addr := w, bytes := [], len := bs.length, sync := none, flit := true, atomic := none, msg := none } }
         | .away _ => { s := t })
      | _ => { s := t }
  match pl with
  | .loc _ => { s := s }
  | .inter _ => after (s.writeDev pa bs)
  | .linear a => after (s.writeDev a bs)
  | .actor pk aid off =>
    match s.reach pk aid off bs.length .store with
    | .at_ k p => after (s.writeAt k p bs kind src)
    | .no why => .no s why
    | .evicted =>
      (match s.syncRefused sync with
       | some why => .no s why
       | none =>
         { s := s.holdFor aid { src := src, addr := addr, bytes := bs, len := bs.length, flit := flit, atomic := none, msg := none
                                sync := match sync with | some (.remote w) => some w | _ => none } })
    | .away _ => { s := s }

/-- A read-modify-write performed at its place (R216). -/
def performAtomic (s : State) (pl : Place) (pa : Nat) (addr : Word) (a : AtomicArgs) (src : Source) : Done :=
  let n := sizeOfTy a.ty.val
  let dev (pa : Nat) : Done :=
    let m := leNat (s.pkg.readMem pa n)
    let r := atomicOp a m
    { s := s.writeDev pa (leBytes n r.1), flags := r.2, old := m }
  match pl with
  | .loc _ => { s := s }
  | .inter _ => dev pa
  | .linear q => dev q
  | .actor pk aid off =>
    match s.reach pk aid off n .atomic with
    | .at_ k p =>
      let m := leNat ((focus k s).core.readScratch p n)
      let r := atomicOp a m
      { s := (s.touchStore k p n).writeAt k p (leBytes n r.1) 2 src, flags := r.2, old := m }
    | .no why => .no s why
    | .evicted =>
      { s := s.holdFor aid { src := src, addr := addr, bytes := [], len := n, flit := false, atomic := some a, msg := none, sync := none } }
    | .away _ => { s := s }

/-- The bytes an atomic reads at its destination are lost (22_scheduling_faults.md R355, R357). -/
def atomicLost (s : State) (pl : Place) (pa n : Nat) : Bool :=
  match pl with
  | .inter _ => s.pkg.memLost pa n
  | .linear q => s.pkg.memLost q n
  | .actor pk aid off =>
    (match s.reach pk aid off n .atomic with
     | .at_ k p => (focus k s).core.health.lostIn p n
     | _ => false)
  | .loc _ => false

/-- The storage of the core in which an atomic of n bytes stands, read. -/
def State.touchAtomic (s : State) (pl : Place) (n : Nat) : State :=
  match pl with
  | .actor pk aid off =>
    (match s.reach pk aid off n .atomic with
     | .at_ k p => s.touchStore k p n
     | _ => s)
  | _ => s

/-! ### Messages -/

/-- What a message header meets at a resident actor. -/
inductive Met where
  | taken (s : State) (off : Nat)
  | noRoom (s : State) (listed : Bool)
  | no (why : Refused)

/-- The record reserved at an offset knows the core that sent it (24_debug.md R365). -/
def Actor.sentBy (a : Actor) (off : Nat) (src : Source) : Actor :=
  { a with recs := a.recs.map fun r => if r.off = off ∧ r.pad = false ∧ r.landed = false then { r with score := Source.score src } else r }

/-- A message header checked at a resident actor of member k (R281, R283, R294). own is the sending core and number. The sync word's
window is checked before the ring's room: where both refuse, the answer is WNACK (DESIGN CHOICE, log entry 61). -/
def meetMessage (s : State) (k : Nat) (aid : BitVec 24) (m : MsgArgs) (own : Option (Nat × Nat)) (src : Source) : Met :=
  let t := focus k s
  match t.core.actor aid with
  | none => .no .adead
  | some a =>
    if (match hdrSync m.h1 with | some o => (a.reach o 16 .store).isNone | none => false) then .no .wnack
    else
      match reserve a m own with
      | some (b, off, pad) =>
        let t := t.mapCore fun c => c.mapActor aid fun _ => b.sentBy off src
        let t := t.mapCore fun c =>
          match pad with
          | some p => c.writeScratch (a.base + p.off) (leBytes 8 p.h0.toNat ++ fillBytes 8 0)
          | none => c
        .taken (focus k t) off
      | none =>
        let l := t.core.list src aid
        .noRoom (focus k { t with core := l.1 }) l.2

/-- Posted access number id of a core with its stage set. -/
def Core.setStage (c : Core) (id : Nat) (st : PostStage) : Core :=
  { c with posted := c.posted.map fun p => if p.id = id then { p with stage := st } else p }

/-- The ring place of posted message number id. -/
def Core.setRing (c : Core) (id : Nat) (a : Option Nat) : Core :=
  { c with posted := c.posted.map fun p => if p.id = id then { p with ring := a } else p }

/-- A record's last flit performed at member k: its bytes are in the ring, it has landed, and its sync word counts S (R294). Where the
sync word's window has closed since the header was checked, the record lands all the same and nothing is counted (DESIGN CHOICE, log entry 61). -/
def landMessage (s : State) (k : Nat) (aid : BitVec 24) (r : MRec) : State :=
  let t := focus k s
  match t.core.actor aid with
  | none => s
  | some a =>
    let bs := leBytes 8 r.h0.toNat ++ leBytes 8 r.h1.toNat ++ r.payload
    let t := t.mapCore fun c => c.writeScratch (a.base + r.off) bs
    let t := t.touched { kind := 4, rd := false, remote := true, score := r.score, said := r.sender.toNat, lo := a.base + r.off, n := bs.length }
    let t := t.mapCore fun c =>
      c.mapActor aid fun a => { a with recs := a.recs.map fun x => if x.off = r.off ∧ x.pad = false then { x with landed := true, payload := [] } else x }
    let t :=
      match (hdrSync r.h1).bind fun o => a.reach o 16 .store with
      | some p => t.mapCore fun c => c.arriveSync (a.base + p) r.size
      | none => t
    let u := focus k t
    match r.own with
    | some (core, id) => u.mapCores fun c => if c.pkgIx = core then c.setStage id (.performed {}) else c
    | none => u

/-- The destination actor of a posted message. -/
def Posted.aid (p : Posted) : BitVec 24 := BitVec.ofNat 24 (bitsOf p.addr.toNat 20 24)

/-- The sync word that a message to an evicted actor names lies in a saved window (18_messages.md R292, R294). -/
def State.savedSync (s : State) (aid : BitVec 24) (m : MsgArgs) : Bool :=
  match hdrSync m.h1 with
  | some o => s.pkg.evicted.any fun e => e.actor.aid == aid && (e.actor.reach o 16 .store).isSome
  | none => true

/-- A posted message of the core reaches its actor; one for an actor beyond the state is sent, and its answer comes from there. -/
def arriveMessage (s : State) (p : Posted) (m : MsgArgs) : State :=
  let st (x : PostStage) (s : State) : State := s.mapCore fun c => c.setStage p.id x
  match placeOf s p.addr with
  | some (.actor pk aid _) =>
    match s.place pk aid with
    | .at_ k _ =>
      (match meetMessage s k aid m (some (s.core.pkgIx, p.id)) (s.core.sourceOf p) with
       | .taken t off => st .landing (t.mapCore fun c => c.setRing p.id ((residentAt aid s.cores 0).map fun r => r.2.base + off))
       | .noRoom t l => st (.held l) (t.accountPost p 1)
       | .no w => st (.refused w) s)
    | .evicted =>
      if s.savedSync aid m then
        st (.performed {}) (s.holdFor aid { src := s.core.sourceOf p, addr := p.addr, bytes := [], len := 0, flit := false, atomic := none
                                            msg := some m, sync := none })
      else st (.refused .wnack) s
    | .away _ => st .sent s
    | .no w => st (.refused w) s
  | _ => st (.refused .adead) s

/-! ### Destruction and contributions -/

/-- The activations of one actor stop as at a kill, a re-run that is due among them (02_execution.md R51, step 1). -/
def Core.stopActor (aid : BitVec 24) (k : KillReq) (c : Core) : Core :=
  if c.runs aid then { c with kills := c.kills ++ [k] }
  else if c.retry.any fun a => match a.src with | .message b _ => b == aid | .task _ => false then { c with retry := none, preempt := false }
  else c

/-- ADEST's request reaches the actor (18_messages.md R301): the actor alone goes, the caller at the end of the activation it
runs. -/
def arriveDestroy (s : State) (pk : Option Nat) (aid : BitVec 24) (slot : BitVec 12) : Done :=
  match pk with
  | some n => if s.cutOff n then .no s .adead else { s := s }
  | none =>
    match s.pkg.entry aid with
    | none => .no s .adead
    | some e =>
      if e.at_ = .destroyed then .no s .adead
      else if e.slot ≠ slot then .no s .wnack
      else if s.core.runs aid then { s := s.doom aid }
      else { s := (s.mapCores (Core.stopActor aid { slot := e.slot.toNat, wid := e.wid, low := 0 })).doom aid }

/-- A contribution combined at its first switch (12_memory.md R222). -/
def addContribution (s : State) (slot : BitVec 12) (i : Nat) (wid : Word) (v : VWord) : State :=
  { s with pkg := { s.pkg with
      trees := s.pkg.trees.map fun t =>
        if t.slot = slot ∧ t.idx = i ∧ sharesFrom t.low wid t.share then
          { t with parts := t.parts ++ [(t.rounds + (t.parts.filter fun p => p.2.1 == wid).length, wid, v)] }
        else t } }

/-! ### Arrival in the order of a pair (R205 rule 3) -/

/-- The destination endpoint of a posted access: a core of the state, an actor beyond it, a granule or the own slice. -/
def endpointOf (s : State) (p : Posted) : Nat × Nat :=
  match placeOf s p.addr with
  | some (.actor _ aid _) =>
    (match residentAt aid s.cores 0 with
     | some (k, _) => (2, k)
     | none => (3, aid.toNat))
  | some (.inter _) => (0, p.pa / 4096)
  | some (.linear _) => (1, 0)
  | _ => (4, 0)

/-- A posted access on its way. -/
def Posted.moving (p : Posted) : Bool := p.stage == .inFlight

/-- One posted access was issued before another: a scalar one before the command that was issued next (R205 rule 3). -/
def Posted.before (e p : Posted) : Bool :=
  decide (e.ser < p.ser)
    || (e.ser == p.ser && ((e.q.isNone && p.q.isSome) || (e.q.isNone == p.q.isNone && decide (e.id < p.id))))

/-- A span of addresses that a command posts to, and the endpoint of a posted access's address: the same, as far as their granules or
actors tell. -/
def sameEnd (s : State) (t : Word × Nat) (addr : Word) : Bool :=
  match placeOf s t.1, placeOf s addr with
  | some (.inter a), some (.inter b) => decide (a / 4096 ≤ b / 4096) && decide (b / 4096 ≤ (a + t.2 - 1) / 4096)
  | some (.linear _), some (.linear _) => true
  | some (.actor p a _), some (.actor q b _) =>
    p == q && (a == b || (p.isNone &&
      match residentAt a s.cores 0, residentAt b s.cores 0 with
      | some (i, _), some (j, _) => i == j
      | _, _ => false))
  | _, _ => false

/-- The span of addresses that n rows of a record reach. -/
def LRec.span (r : LRec) (ty n : Nat) : Word × Nat :=
  let b := LRec.bounds { r with e1 := n } ty 0
  (BitVec.ofInt 64 b.1, (b.2 - b.1).toNat)

/-- An earlier command of the core may still write n scratchpad bytes that a command reads. -/
def Core.unwritten (c : Core) (k : Cmd) (p n : Nat) : Bool :=
  c.cmds.any fun e => decide (e.serial < k.serial) && e.writes.any fun w => w.meets { lo := p, hi := p + n }

/-- The table rows of a gather or scatter: those that its index list names, or, while the list may still be written, the whole table. -/
def Cmd.tableSpans (k : Cmd) (r : LRec) (c : Core) : List (Word × Nat) :=
  let p := k.base + r.aux0.toNat
  let ty := k.x.ty.val
  if r.flagI = false then [LRec.span { r with e2 := 1 } ty r.e1]
  else if c.unwritten k p (4 * r.e1) then [LRec.span { r with e2 := 1 } ty r.e2]
  else (List.range r.e1).map fun i => (BitVec.ofInt 64 (r.row (leNat (c.readScratch (p + 4 * i) 4)) 0), rowBytes ty 0 r.e0)

/-- What a queued command of the core will post to: the spans of its rows and answers, and the actor of an ADEST or a SENDM that has room. -/
def Cmd.targets (k : Cmd) (c : Core) : List (Word × Nat) :=
  if k.lrec.any LRec.empty then []
  else
  match k.cls, k.sub, k.lrec, k.rec2 with
  | 10, _, _, _ => [(k.sa + sxtWord 32 k.x.w2.toNat, sizeOfTy k.x.ty.val)]
  | 12, 0, some r, _ => [(r.aux0, rowBytes k.x.ty.val 0 r.e0 * r.e1 * r.e2)]
  | 12, 1, some _, some r => [r.span k.x.ty.val r.e1]
  | 12, 3, some r, _ => k.tableSpans r c
  | 16, 5, _, _ => [(k.sa, 0)]
  | 18, 4, some r, _ =>
    let d : Int := ((r.e1 - 1 : Nat) : Int) * r.st2
    [(BitVec.ofInt 64 ((r.aux0.toNat : Int) + min 0 d), d.natAbs + 4 * r.e2)]
  | 18, 6, _, _ => [(k.sb, 256)]
  | _, _, _, _ => []

/-- What a queued command of the core will read of device memory: the table rows of a gather, and those of an indexed reduce, unless it
has read them. -/
def Cmd.sources (k : Cmd) (c : Core) : List (Word × Nat) :=
  match k.cls, k.sub, k.lrec with
  | 12, 2, some r => if r.empty then [] else k.tableSpans r c
  | 18, 4, some r =>
    let p := k.base + r.base.toNat
    if k.pushed.isSome then []
    else if c.unwritten k p (4 * r.e0) then [(0x1000000000000000, 2 ^ 48)]
    else (List.range r.e0).map fun j =>
      (BitVec.ofInt 64 (2 ^ 60 + ((k.sb.toNat : Int) + (leNat (c.readScratch (p + 4 * j) 4) : Int) * r.st1) % 2 ^ 48), r.e2 * sizeOfTy r.ty)
  | _, _, _ => []

/-- A SENDM goes on its way as soon as the message store takes it (18_messages.md R283, R284). -/
def Cmd.sends (k : Cmd) (c : Core) : List (Word × Nat) :=
  if k.cls = 15 ∧ c.stored + recordBytes (k.x.w2f 16 10) ≤ 8192 then [(k.sa, 0)] else []

/-- A command issued before serial number ser, and still queued, will post to the endpoint of an address (R205 rule 3). -/
def State.queuedFor (s : State) (ser : Nat) (addr : Word) : Bool :=
  s.core.cmds.any fun k => decide (k.serial < ser) && (k.targets s.core ++ k.sends s.core).any fun t => sameEnd s t addr

/-- Bytes that a posted access reaches. -/
def Posted.len (p : Posted) : Nat :=
  match p.kind with
  | .store b => b.length
  | .flit b _ => b.length
  | .atomic _ n => n
  | _ => 0

/-- The bytes of an actor-space span that windows give, of n bytes at scratchpad offset p (R199). -/
def Actor.spanMeets (a : Actor) (off len p n : Nat) : Bool :=
  a.windows.toList.any fun w =>
    let lo := max off (winOff w)
    let hi := min (off + len) (winOff w + winLen w)
    decide (lo < hi) && overlaps (a.base + winBase w + (lo - winOff w)) (hi - lo) p n

/-- An actor of this package with the windows that its accesses meet: a resident one with its member, or an evicted one. -/
def State.windowsOf (s : State) (aid : BitVec 24) : Option (Option Nat × Actor) :=
  match residentAt aid s.cores 0 with
  | some (k, a) => some (some k, a)
  | none => (s.pkg.evicted.find? fun e => e.actor.aid == aid).map fun e => (none, e.actor)

/-- A span of addresses may hold some of the n bytes at an address, through the same view: the same addresses, or the same bytes of a
region through other windows, those saved with an evicted actor included (13_ordering_notes.md R226). -/
def spanMeets (s : State) (t : Word × Nat) (ea : Word) (n : Nat) : Bool :=
  match placeOf s t.1, placeOf s ea with
  | some (.actor none a off), some (.actor none b o) =>
    (a == b && overlaps off t.2 o n)
      || (match s.windowsOf a, s.windowsOf b with
          | some (i, x), some (j, y) => i == j && (i.isSome || a == b) && ([.load, .store, .atomic] : List Need).any fun w =>
              (match y.reach o n w with | some p => x.spanMeets off t.2 (y.base + p) n | none => false)
          | _, _ => false)
  | some (.actor p a off), some (.actor q b o) => p == q && a == b && overlaps off t.2 o n
  | some (.loc _), _ => false
  | some _, some _ => overlaps t.1.toNat t.2 ea.toNat n
  | _, _ => false

/-- A command issued before serial number ser, and still queued, will read some of the n bytes at an address: an atomic on them comes
after it (13_ordering_notes.md R226). -/
def State.readsBefore (s : State) (ser : Nat) (addr : Word) (n : Nat) : Bool :=
  s.core.cmds.any fun k => decide (k.serial < ser) && (k.sources s.core).any fun t => spanMeets s t addr n

/-- What a posted access counts into at an actor, or reads before it writes, is not yet free for it: the actor's holding queue, and the
reads of earlier commands. -/
def Posted.waits (p : Posted) (s : State) : Bool :=
  match p.kind with
  | .flit _ (some (.remote w)) => s.queueing w
  | .atomic _ n => s.readsBefore p.ser p.addr n
  | _ => false

/-- No access of the core issued earlier to the same endpoint is on its way or still to be posted, but for messages that wait behind
a held one (R205 rule 3; 18_messages.md R283). -/
def mayArrive (s : State) (p : Posted) : Bool :=
  p.moving && !s.queueing p.addr && !p.waits s && !s.pairHeld p && !s.core.behindHeld p && !s.queuedFor p.ser p.addr
    && !(s.core.posted.any fun e => e.before p && e.moving && !s.core.behindHeld e && endpointOf s e == endpointOf s p)

/-- The package of a posted access is cut off: what is not yet acknowledged is refused (26_system.md R388). -/
def State.severed (s : State) (p : Posted) : Bool :=
  match placeOf s p.addr with
  | some (.actor (some n) _ _) => s.cutOff n
  | _ => false

/-- The sync word of a flit stands beyond the state. -/
def State.syncAway (s : State) (p : Posted) : Bool :=
  match p.kind with
  | .flit _ (some (.remote w)) =>
    (match placeOf s w with
     | some (.actor pk aid _) => (match s.place pk aid with | .away _ => true | _ => false)
     | _ => false)
  | _ => false

/-- The destination of a posted access stands beyond the state. -/
def State.postedAway (s : State) (p : Posted) : Bool :=
  match placeOf s p.addr with
  | some (.actor pk aid _) => (match s.place pk aid with | .away _ => true | _ => false)
  | _ => false

/-- A posted access is performed beyond the state: all but what the package itself does, a contribution and the destruction of one of
its actors. -/
def State.leaves (s : State) (p : Posted) : Bool :=
  s.postedAway p && (match p.kind with
    | .contribution _ _ _ _ => false
    | .destroy _ => p.addr.toNat / 2 ^ 52 != 0x4FF
    | _ => true)

/-- A posted access of the core performed or refused at its destination, or gone to one beyond the state. -/
def arrivePosted (s : State) (p : Posted) : State :=
  let fin (d : Done) : State :=
    d.s.mapCore fun c => c.setStage p.id (match d.why with | some w => .refused w | none => .performed d.flags)
  if s.leaves p then s.mapCore fun c => c.setStage p.id .sent
  else
  match p.kind with
  | .msg m => arriveMessage s p m
  | .destroy slot =>
    (match placeOf s p.addr with
     | some (.actor pk aid _) => fin (arriveDestroy s pk aid slot)
     | _ => fin (.no s .adead))
  | .contribution slot i wid v => fin { s := addContribution s slot i wid v }
  | .store bs =>
    match placeOf s p.addr with
    | some pl => fin (performBytes s pl p.pa p.addr bs none false (s.core.sourceOf p))
    | none => fin (.no s .wnack)
  | .flit bs y =>
    match placeOf s p.addr with
    | some pl => fin (performBytes s pl p.pa p.addr bs y true (s.core.sourceOf p))
    | none => fin (.no s .wnack)
  | .atomic a n =>
    match placeOf s p.addr with
    | some pl =>
      if atomicLost s pl p.pa n then fin (.no (s.touchAtomic pl n) .memErr) else fin (performAtomic s pl p.pa p.addr a (s.core.sourceOf p))
    | none => fin (.no s .wnack)

/-- A posted access of the core to the endpoint of an address is on its way, and no message that waits behind a held one. -/
def mustPrecede (s : State) (addr : Word) (pa : Nat) : Bool :=
  let q : Posted := { id := s.core.postId, near := false, n := 0, addr := addr, pa := pa, kind := .store [], stage := .inFlight, q := none, ser := 0 }
  s.core.posted.any fun p => p.moving && !s.core.behindHeld p && endpointOf s p == endpointOf s q

/-- A returning atomic on n bytes at an address holds issue until all of the core's accesses issued before it to the same endpoint, and
those of its commands to the same bytes, are performed, and while the actor's holding queue is not free for it (R205 rule 3;
13_ordering_notes.md R226; 18_messages.md R292, R293). -/
def State.atomicHeld (s : State) (addr : Word) (pa n : Nat) : Bool :=
  s.queuedFor s.core.serial addr || s.queueing addr || s.readsBefore s.core.serial addr n || mustPrecede s addr pa

/-- A queued command will write some of the bytes that a load of the core reads (R226). -/
def State.overtakes (s : State) (ea : Word) (n : Nat) : Bool := s.core.cmds.any fun k => (k.targets s.core).any fun t => spanMeets s t ea n

/-- A posted access of the core to some of the n bytes at an address (pa: in device memory) is on its way: a load of them holds issue
until it is performed (R226). -/
def State.unarrived (s : State) (ea : Word) (pa n : Nat) : Bool :=
  s.core.posted.any fun p => p.moving
    && (match placeOf s p.addr, placeOf s ea with
        | some (.inter _), some (.inter _) => overlaps p.pa p.len pa n
        | _, _ => spanMeets s (p.addr, p.len) ea n)

/-- A posted access will count as near, in RSCN: its endpoint is a core of this grove (R203). An actor that is evicted, destroyed or unknown
stands at no endpoint that R203 names, and its access counts in RSCF (DESIGN CHOICE, log entry 60). -/
def State.near (s : State) (pl : Place) : Bool :=
  match pl with
  | .actor pk aid _ =>
    (match s.place pk aid with
     | .at_ _ _ => true
     | .away near => near
     | _ => false)
  | _ => false

/-- An actor-space address with this package's own number as 0xFF (04_formats.md R81). -/
def normal (pl : Place) (addr : Word) : Word :=
  match pl with
  | .actor none aid off => actorAddr aid off
  | _ => addr

end Sys2Proof.Machine
end

