-- ==== Sys2Proof/Machine/LoadStore.lean ====
section
/-!
DEFINITION. Scalar loads and stores (08_scalar.md R136 to R140; 12_memory.md R197, R203).
-/
namespace Sys2Proof.Machine

/-- The value a load writes. -/
def loadValue (size : Nat) (signed : Bool) (bs : List Byte) : Word :=
  if signed then sxtWord (8 * size) (leNat bs) else BitVec.ofNat 64 (leNat bs)

/-- The core's own scalar access to scratchpad bytes, as its watchpoints see it. -/
def ownTouch (c : Core) (kind : Nat) (p n : Nat) : Touch :=
  { kind := kind, rd := false, remote := false, score := c.pkgIx, said := c.regs.aid.toNat, lo := p, n := n }

/-- An access holds issue until its answer returns (R138). -/
def State.await (s : State) (k : AwaitKind) (addr : Word) (len : Nat) : State :=
  s.mapCore fun c => { c with await := some { kind := k, addr := addr, len := len, out := !s.addrHeld addr } }

/-- A load that finds its bytes: MEMERR when they are lost, else the register is written. -/
def loaded (s : State) (lost : Bool) (ea : Word) (d : SReg) (v : Word) : R :=
  if lost then .trap s .memerr ea else .done (s.ws d v)

/-- A local load (R137). -/
def loadLocal (size : Nat) (signed : Bool) (d : SReg) (ea : Word) (off : Nat) (s : State) : R :=
  match s.localAt off size with
  | none => .trap s .lrange ea
  | some p =>
    if s.core.blocked p size false then .hold
    else
      let lost := s.core.health.lostIn p size
      let t := s.touchStore 0 p size
      loaded (if lost then t else t.touched (ownTouch s.core 0 p size)) lost ea d (loadValue size signed (s.core.readScratch p size))

/-- A load from device memory at a physical address. -/
def loadDevice (size : Nat) (signed : Bool) (d : SReg) (ea : Word) (pl : Place) (pa : Nat) (s : State) : R :=
  if s.unarrived ea pa size then .hold
  else
  let s := (s.activate pa size).respond pl ea pa
  loaded s (s.pkg.memLost pa size) ea d (loadValue size signed (s.pkg.readMem pa size))

/-- A load through an actor's windows. -/
def loadActor (size : Nat) (signed : Bool) (d : SReg) (ea : Word) (pl : Place) (pk : Option Nat) (aid : BitVec 24) (off : Nat)
    (len : Nat) (s : State) : R :=
  if s.unarrived ea 0 size then .hold
  else
  match s.reach pk aid off size .load with
  | .no .adead => .trap (s.respond pl ea 0) .adead ea
  | .no _ => .trap (s.respond pl ea 0) .wnack ea
  | .evicted =>
    .wait ((s.holdFor aid
      { src := s.core.source, addr := normal pl ea, bytes := [], len := size, sync := none, flit := false, atomic := none, msg := none }).await
        (.load size signed d) ea len)
  | .away _ => .wait (s.await (.load size signed d) ea len)
  | .at_ k p =>
    let c := (focus k s).core
    loaded ((s.readAt k p size s.core.source).respond pl ea 0) (c.health.lostIn p size) ea d
      (loadValue size signed (c.readScratch p size))

/-- A load, its checks in the order of R140. -/
def load (size : Nat) (signed : Bool) (d : SReg) (ea : Word) (len : Nat) (s : State) : R :=
  match placeOf s ea with
  | none => .trap s .aspace ea
  | some pl =>
    if ea.toNat % size ≠ 0 then .trap s .align ea
    else if s.overtakes ea size || s.queueing ea then .hold
    else
      match pl with
      | .loc off => loadLocal size signed d ea off s
      | .inter va =>
        (match s.translate .read va with
         | none => .trap (s.missed va) (s.missCause va) ea
         | some (pa, t) => loadDevice size signed d ea pl pa t)
      | .linear pa => loadDevice size signed d ea pl pa s
      | .actor pk aid off => loadActor size signed d ea pl pk aid off len s

/-- A local store (R137). -/
def storeLocal (size : Nat) (v ea : Word) (off : Nat) (s : State) : R :=
  match s.localAt off size with
  | none => .trap s .lrange ea
  | some p =>
    if s.core.blocked p size true then .hold
    else .done ((s.mapCore fun c => c.writeScratch p (leBytes size v.toNat)).touched (ownTouch s.core 1 p size))

/-- A store, its checks in the order of R140; a store to any view but local is posted (R139). -/
def store (size : Nat) (v ea : Word) (s : State) : R :=
  match placeOf s ea with
  | none => .trap s .aspace ea
  | some pl =>
    if ea.toNat % size ≠ 0 then .trap s .align ea
    else
      let go (t : State) (pa : Nat) : R :=
        .done (t.mapCore fun c => c.post (s.near pl) 1 ea (normal pl ea) pa (.store (leBytes size v.toNat)))
      match pl with
      | .loc off => storeLocal size v ea off s
      | .inter va =>
        (match s.translate .write va with
         | none => .trap (s.missed va) (s.missCause va) ea
         | some (pa, t) => go t pa)
      | .linear pa => go s pa
      | .actor _ _ _ => go s 0

/-- A load instruction. -/
def loadF (i : Instr) (x : MemF) (size : Nat) (signed : Bool) (s : State) : Out :=
  issue { Iss.of i x.g [x.d, x.a] with wait := x.wait.val } (fun s => load size signed x.d (MemF.ea x size s.core.regs) i.bytes s) s

/-- A load instruction with a literal offset. -/
def loadL (i : Instr) (x : MemL) (size : Nat) (signed : Bool) (s : State) : Out :=
  issue { Iss.of i x.g [x.d, x.a] with wait := x.wait.val } (fun s => load size signed x.d (MemL.ea x s.core.regs) i.bytes s) s

/-- A store instruction. -/
def storeF (i : Instr) (x : MemF) (size : Nat) (s : State) : Out :=
  issue { Iss.of i x.g [x.d, x.a] with wait := x.wait.val } (fun s => store size (s.rs x.d) (MemF.ea x size s.core.regs) s) s

/-- A store instruction with a literal offset. -/
def storeL (i : Instr) (x : MemL) (size : Nat) (s : State) : Out :=
  issue { Iss.of i x.g [x.d, x.a] with wait := x.wait.val } (fun s => store size (s.rs x.d) (MemL.ea x s.core.regs) s) s

/-- LDB (R136). -/
def execLdb (x : MemF) (s : State) : Out := loadF (.ldb x) x 1 true s
/-- LDB_LIT (R63). -/
def execLdbLit (x : MemL) (s : State) : Out := loadL (.ldbLit x) x 1 true s
/-- LDH (R136). -/
def execLdh (x : MemF) (s : State) : Out := loadF (.ldh x) x 2 true s
/-- LDH_LIT (R63). -/
def execLdhLit (x : MemL) (s : State) : Out := loadL (.ldhLit x) x 2 true s
/-- LDW (R136). -/
def execLdw (x : MemF) (s : State) : Out := loadF (.ldw x) x 4 true s
/-- LDW_LIT (R63). -/
def execLdwLit (x : MemL) (s : State) : Out := loadL (.ldwLit x) x 4 true s
/-- LDD (R136). -/
def execLdd (x : MemF) (s : State) : Out := loadF (.ldd x) x 8 true s
/-- LDD_LIT (R63). -/
def execLddLit (x : MemL) (s : State) : Out := loadL (.lddLit x) x 8 true s
/-- LDBU (R136). -/
def execLdbu (x : MemF) (s : State) : Out := loadF (.ldbu x) x 1 false s
/-- LDBU_LIT (R63). -/
def execLdbuLit (x : MemL) (s : State) : Out := loadL (.ldbuLit x) x 1 false s
/-- LDHU (R136). -/
def execLdhu (x : MemF) (s : State) : Out := loadF (.ldhu x) x 2 false s
/-- LDHU_LIT (R63). -/
def execLdhuLit (x : MemL) (s : State) : Out := loadL (.ldhuLit x) x 2 false s
/-- LDWU (R136). -/
def execLdwu (x : MemF) (s : State) : Out := loadF (.ldwu x) x 4 false s
/-- LDWU_LIT (R63). -/
def execLdwuLit (x : MemL) (s : State) : Out := loadL (.ldwuLit x) x 4 false s
/-- STB (R136). -/
def execStb (x : MemF) (s : State) : Out := storeF (.stb x) x 1 s
/-- STB_LIT (R63). -/
def execStbLit (x : MemL) (s : State) : Out := storeL (.stbLit x) x 1 s
/-- STH (R136). -/
def execSth (x : MemF) (s : State) : Out := storeF (.sth x) x 2 s
/-- STH_LIT (R63). -/
def execSthLit (x : MemL) (s : State) : Out := storeL (.sthLit x) x 2 s
/-- STW (R136). -/
def execStw (x : MemF) (s : State) : Out := storeF (.stw x) x 4 s
/-- STW_LIT (R63). -/
def execStwLit (x : MemL) (s : State) : Out := storeL (.stwLit x) x 4 s
/-- STD (R136). -/
def execStd (x : MemF) (s : State) : Out := storeF (.std x) x 8 s
/-- STD_LIT (R63). -/
def execStdLit (x : MemL) (s : State) : Out := storeL (.stdLit x) x 8 s

end Sys2Proof.Machine
end

