-- ==== Sys2Proof/Machine/Control.lean ====
section
/-!
DEFINITION. Branches, loops, fork, join and the end of activations (08_scalar.md R141 to R147, R150, R151; 02_execution.md R42
to R44).
-/
namespace Sys2Proof.Machine

/-! ### Branches (R141) -/

/-- pc plus a signed word offset. -/
def wordTarget (pc : Word) (off : Int) : Word := pc + wordOfInt (4 * off)

/-- A transfer that the leader's guard and registers decide (R124): the target is checked in the leader, and link is done in
every member. -/
def branch (i : Instr) (g : Guard) (regs : List SReg) (target : State → Word) (link : State → State) (s : State) : Out :=
  let t := target s
  issue { Iss.of i g regs with lead := true }
    (fun m =>
      match if m.core.regs.gangix = 0 then targetFault m.core t else none with
      | some c => .trap m c t
      | none => .jump (link m) t) s

/-- BR (R141). -/
def execBr (x : BrF) (s : State) : Out := branch (.br x) x.g [] (fun s => wordTarget s.core.regs.pc x.off.toInt) id s
/-- BRL (R141): s31 := PC + 4. -/
def execBrl (x : BrF) (s : State) : Out :=
  branch (.brl x) x.g [31] (fun s => wordTarget s.core.regs.pc x.off.toInt) (fun s => s.ws 31 (s.core.regs.pc + 4)) s
/-- BR_LIT (R63). -/
def execBrLit (x : BrL) (s : State) : Out := branch (.brLit x) x.g [] (fun _ => x.target) id s
/-- BRL_LIT (R63): s31 := PC + 12. -/
def execBrlLit (x : BrL) (s : State) : Out :=
  branch (.brlLit x) x.g [31] (fun _ => x.target) (fun s => s.ws 31 (s.core.regs.pc + 12)) s
/-- JR (R141): d := PC + 4, a read before d is written. -/
def execJr (x : JrF) (s : State) : Out :=
  branch (.jr x) x.h.g [x.d, x.a] (fun s => s.rs x.a) (fun s => s.ws x.d (s.core.regs.pc + 4)) s

/-! ### LOOP (R142) -/

/-- An active loop's body holds pc and ends before exit. -/
def nestFault (r : Regs) (exit : Word) : Bool :=
  r.lc.toList.any fun l => l.active && decide (l.start ≤ r.pc) && decide (r.pc < l.exit) && decide (l.exit < exit)

/-- The loop on counter lc started, or passed over when the count is 0. -/
def Core.startLoop (c : Core) (lc : Fin 4) (cnt : BitVec 32) (exit : Word) : Core :=
  let r := c.regs
  if cnt = 0 then { c with regs := { r with lc := r.lc.set lc { r.lc[lc] with active := false }, pc := exit } }
  else
    { c with
      loopOrd := c.loopOrd + 1
      regs := { r with
        lc := r.lc.set lc { cnt := cnt, start := r.pc + 4, exit := exit, active := true, ord := c.loopOrd }
        pc := r.pc + 4 } }

/-- LOOP (R142): the count is the leader's (R124); the literal is ignored. -/
def execLoop (x : LpF) (s : State) : Out :=
  let exit := wordTarget s.core.regs.pc x.off.toInt
  let cnt := (s.rs x.a).setWidth 32
  issue (Iss.of (.loop x) Guard.none [x.a])
    (fun m =>
      if nestFault m.core.regs exit then .trap m .illop ((firstWord (.loop x)).setWidth 64)
      else if (match m.core.act.bind fun a => a.carried with | some b => decide (b.hi < exit.toNat + 4) | none => false) then
        .trap m .ccode exit
      else .wait ((m.mapCore fun c => c.startLoop x.lc cnt exit))) s

/-! ### The end of an activation (R150) -/

/-- Every command has committed and the counts read zero. -/
def Core.quiet (c : Core) : Bool := c.cmds == [] && c.drained

/-- The commit of END: the record is released (R25) and the end is traced. -/
def commitEnd (s : State) : State :=
  (s.mapCore fun c => c.note [11] [(3, c.regs.pc)]).endActivation

/-- END (R150): in a gang the leader's guard decides it for every member (02_execution.md R41; log entry 52). -/
def execEndAct (x : SysF) (s : State) : Out :=
  issue { Iss.of (.endAct x) x.h.g [] with lead := true } (fun s => if s.core.quiet then .ended (commitEnd s) else .hold) s

/-- The activation ends as at END, now or when it is quiet. -/
def endOrWait (s : State) (len : Nat) : R :=
  if s.core.quiet then .ended s.endActivation else .wait (s.await .ending 0 len)

/-! ### FORK (R42, R44, R145) -/

/-- A join-word address that is not admitted (R42). -/
def joinFault (j : Word) : Bool :=
  (bitsOf j.toNat 60 4 != 1 && bitsOf j.toNat 60 4 != 4) || j.toNat % 8 != 0

/-- The record of a task that starts at pc with the current registers (R42); it is no item of a gang, and GANG in it finds the gang
size 1 (DESIGN CHOICE, log entry 52). -/
def newTask (c : Core) (pc : Word) (join : Word) : TaskRec :=
  { slot := (match c.act with | some a => a.slot | none => c.launchSlot), cls := (match c.act with | some a => a.cls | none => 0)
    pc := pc.setWidth 48, wid := c.regs.wid, join := join
    args := #v[c.regs.rs 1, c.regs.rs 2, c.regs.rs 3, c.regs.rs 4, c.regs.rs 5]
    hold := c.posted.map fun p => p.id, bound := c.serial, by_ := c.pkgIx, gang := 1 }

/-- A record pushed on the bottom of the core's deque, or appended to the overflow ring; none is DQFULL (R44). -/
def pushTask (s : State) (r : TaskRec) : Option State :=
  let g := s.grove
  if g.deques[s.core.ix].length < 256 then
    some { s with grove := { g with deques := g.deques.set s.core.ix (g.deques[s.core.ix] ++ [.task r]) } }
  else if g.overflow.length < g.overflowCap then some { s with grove := { g with overflow := g.overflow ++ [.task r] } }
  else none

/-- The atomic add that FORK posts and JOIN makes. -/
def addArgs (b : Word) : AtomicArgs := { op := 0, ty := 6, rm := 0, u := 0, b := b, c := 0 }

/-- The place of a join word, translated for writing: its physical address, or the fault (log entry 59). -/
def joinPlace (s : State) (j : Word) : Except Cause (Place × Nat × State) :=
  match placeOf s j with
  | none => .error .aspace
  | some (.inter va) =>
    (match s.translate .write va with
     | none => .error (s.missCause va)
     | some (pa, t) => .ok (.inter va, pa, t))
  | some pl => .ok (pl, 0, s)

/-- What the walk of an address that finds no translation leaves. -/
def State.missedAt (s : State) (ea : Word) : State := match placeOf s ea with | some (.inter va) => s.missed va | _ => s

/-- FORK in one member (R145). R145's steps test no translation of the join word: one that fails translation, or whose address has a
nonzero reserved field, is found after the test of the deques and traps precisely with TVAL := J, nothing pushed (DEDUCED from R140,
log entry 59). -/
def fork (x : FkF) (s : State) : R :=
  let c := s.core
  let t := wordTarget c.regs.pc x.off.toInt
  let j := s.rs x.a
  if c.ganged then .trap s .illop ((firstWord (.fork x)).setWidth 64)
  else if (c.act.bind fun a => a.carried).isSome then .trap s .ccode c.regs.pc
  else if j ≠ 0 ∧ joinFault j then .trap s .jaddr j
  else if j = 0 then
    match pushTask s (newTask c t j) with
    | none => .trap s .dqfull 0
    | some u => .done u
  else if (pushTask s (newTask c t j)).isNone then .trap s .dqfull 0
  else
    match joinPlace s j with
    | .error e => .trap (s.missedAt j) e j
    | .ok (pl, pa, u) =>
      let u := u.mapCore fun c => c.post (s.near pl) 1 j (normal pl j) pa (.atomic (addArgs 1) 8)
      match pushTask u (newTask u.core t j) with
      | none => .trap s .dqfull 0
      | some v => .done v

/-- FORK (R145); in a gang it is ILLOP in every member, whatever its registers wait for (R124). -/
def execFork (x : FkF) (s : State) : Out := issue (Iss.of (.fork x) x.h.g (if s.core.ganged then [] else [x.a, 1, 2, 3, 4, 5])) (fork x) s

/-! ### JOIN (R43, R146) -/

/-- What JOIN does with the join word's old value. -/
def joined (s : State) (old target : Word) (len : Nat) : R :=
  if old - 1 = 0 then .jump s target else endOrWait s len

/-- The join word JOIN names. -/
def joinWord (s : State) (a : SReg) : Word :=
  if a ≠ 0 then s.rs a
  else
    match s.core.act with
    | some k => (match k.src with | .task r => r.join | .message _ _ => 0)
    | none => 0

/-- JOIN in one member (R146). -/
def join (x : JnF) (len : Nat) (s : State) : R :=
  let c := s.core
  let t := wordTarget c.regs.pc x.off.toInt
  let j := joinWord s x.a
  if c.ganged then .trap s .illop ((firstWord (.join x)).setWidth 64)
  else if (c.act.bind fun a => a.carried).isSome then .trap s .ccode c.regs.pc
  else if joinFault j then .trap s .jaddr j
  else if c.drained = false then .hold
  else
    match joinPlace s j with
    | .error e => .trap (s.missedAt j) e j
    | .ok (pl, pa, u) =>
    if s.atomicHeld j pa 8 then .hold
    else
    match pl with
    | .actor pk aid off =>
      (match u.reach pk aid off 8 .atomic with
       | .no .adead => .trap (s.respond (.actor pk aid off) j 0) .adead j
       | .no _ => .trap (s.respond (.actor pk aid off) j 0) .wnack j
       | .evicted => .wait ((performAtomic u (.actor pk aid off) 0 (actorAddr aid off) (addArgs (-1)) c.source).s.await (.join t) j len)
       | .away _ => .wait (u.await (.join t) j len)
       | .at_ _ _ =>
         if atomicLost u (.actor pk aid off) 0 8 then .trap ((s.touchAtomic (.actor pk aid off) 8).respond (.actor pk aid off) j 0) .memerr j
         else
         let d := performAtomic u (.actor pk aid off) 0 j (addArgs (-1)) c.source
         joined (d.s.respond (.actor pk aid off) j 0) (BitVec.ofNat 64 d.old) t len)
    | _ =>
      if atomicLost u pl pa 8 then .trap (s.respond pl j pa) .memerr j
      else
      let d := performAtomic u pl pa j (addArgs (-1)) c.source
      joined (d.s.respond pl j pa) (BitVec.ofNat 64 d.old) t len

/-- JOIN (R146); in a gang as FORK (R124). -/
def execJoin (x : JnF) (s : State) : Out :=
  issue (Iss.of (.join x) Guard.none (if s.core.ganged then [] else [x.a])) (join x (Instr.bytes (.join x))) s

/-! ### YIELD (R151) -/

/-- YIELD in one member: a continuation record is pushed, and the activation ends. -/
def yieldTask (len : Nat) (s : State) : R :=
  let c := s.core
  match c.act with
  | none => .done s
  | some a =>
    match a.src with
    | .message _ _ => if a.carried.isSome then .trap s .ccode c.regs.pc else .done s
    | .task r =>
      if c.ganged then .done s
      else
        match pushTask s (newTask c (c.regs.pc + 4) r.join) with
        | none => .trap s .dqfull 0
        | some u => endOrWait u len

/-- YIELD (R151). -/
def execYield (x : SysF) (s : State) : Out :=
  issue (Iss.of (.yield x) x.h.g [1, 2, 3, 4, 5]) (yieldTask (Instr.bytes (.yield x))) s

end Sys2Proof.Machine
end

