-- ==== Sys2Proof/Machine/System.lean ====
section
/-!
DEFINITION. System functions, control registers and debug stops (08_scalar.md R148, R149, R152, R153; 04_formats.md R56, R57;
24_debug.md R366 to R369).
-/
namespace Sys2Proof.Machine

/-! ### Debug stops (24_debug.md R366, R367) -/

/-- DBGSTAT at a stop. -/
def Core.stopStat (c : Core) (cause n skid : Nat) (wait : Bool) : Word :=
  BitVec.ofNat 64 (1 + cause * 2 + n % 4 * 2 ^ 5 + (if wait then 2 ^ 7 else 0) + (if c.dbg.trig then 2 ^ 8 else 0)
    + (if c.ganged then 2 ^ 9 else 0) + min skid 0xFFFF * 2 ^ 16)

/-- A wait of an instruction that a stop or a pre-emption takes unissued (22_scheduling_faults.md R343); the answer to a
returning atomic, and a JOIN or YIELD that has done its part, still come. -/
def AwaitKind.unissued : AwaitKind → Bool
  | .atomic _ _ | .join _ | .ending => false
  | .load _ _ _ | .ringSize _ | .spawn _ _ _ | .launch _ _ _ _ _ | .gen _ _ _ | .bar _ | .rbar _ => true

/-- The instruction that holds issue is taken unissued: what it waited for, or its arrival at GANG, is dropped (R343). -/
def Core.unissue (c : Core) : Core :=
  { c with
    hold := false
    pause := 0
    await := match c.await with | some w => if w.kind.unissued then none else some w | none => none
    act := c.act.map fun a => { a with arrived := none } }

/-- The core stops: DPC is the next instruction's address, and the stop is traced. WAIT speaks of the last step, and changes as one
ends. -/
def Core.stop (c : Core) (cause n skid : Nat) (wait : Bool) : Core :=
  let st := c.stopStat cause n skid (if c.dbg.step then wait else c.dbg.stat.getLsbD 7)
  ({ c.unissue with dbg := { c.dbg with stat := st, dpc := c.regs.pc, stop := none, skid := 0, step := false, pass := false } } : Core).note
    [] [(7, st)]

/-- The core is stopped. -/
def Core.stopped (c : Core) : Bool := c.dbg.stat.getLsbD 0

/-- The stop of the core, or of every member of its gang at one boundary: each records the stop that reached its own core first, by
a cycle, and one that none has reached the gang's (24_debug.md R381). -/
def stopBy (by_ cause n : Nat) (skid : Nat) (wait : Bool) (s : State) : State :=
  s.mapMembers fun c =>
    match c.dbg.come by_ with
    | some k => c.stop k.cause k.n skid wait
    | none => c.stop cause n skid wait

/-- The stop at the present cycle. -/
def stopAll (cause n : Nat) (skid : Nat) (wait : Bool) (s : State) : State := stopBy s.grove.cycle cause n skid wait s

/-! ### SYS (R149, R152, R153) -/

/-- NOP (R149). -/
def execNop (x : SysF) (s : State) : Out := issue (Iss.of (.nop x) x.h.g []) (fun s => .done s) s

/-- PAUSE (R149): it holds issue for imm12 turns of the core after its own. -/
def execPause (x : SysI) (s : State) : Out :=
  issue (Iss.of (.pause x) x.h.g []) (fun s => .done (s.mapCore fun c => { c with pause := x.imm.toNat })) s

/-- TRAP (R152). -/
def execTrap (x : SysI) (s : State) : Out := issue (Iss.of (.trap x) x.h.g []) (fun s => .trap s .utrap (x.imm.setWidth 64)) s

/-- BRK halts (R152): a member whose guard holds has breakpoint halts enabled, and it is not the instruction a run resumes at. -/
def brkHalts (x : SysI) (s : State) : Bool :=
  (Instr.brk x).wf && !s.core.mgmt
    && (s.together.any fun c => c.regs.guard x.h.g && c.dbg.ctl.getLsbD 2 && !c.dbg.pass)

/-- BRK (R152): it halts before it executes and reports imm12, or does nothing. -/
def execBrk (x : SysI) (s : State) : Out :=
  if brkHalts x s then
    let t := stopAll 5 0 0 false s
    .next ({ t with pkg := { t.pkg with answers := t.pkg.answers ++ [.debug (x.imm.setWidth 64)] } })
  else issue (Iss.of (.brk x) x.h.g []) (fun s => .done s) s

/-- ERET (R153): PRIVOP in an activation; on the management path the core resumes at TPC. -/
def execEret (x : SysN) (s : State) : Out :=
  issue (Iss.of (.eret x) Guard.none [])
    (fun s => if s.core.mgmt then .wait (returnFromTrap s) else .trap s .privop ((firstWord (.eret x)).setWidth 64)) s

/-- FENCEI (R153): it waits for both counts, and discards the instruction cache. -/
def execFencei (x : SysN) (s : State) : Out :=
  issue (Iss.of (.fencei x) Guard.none []) (fun s => if s.core.posts true + s.core.posts false = 0 then .done (s.mapCore fun c => { c with icache := [] }) else .hold) s

/-! ### Control registers (R56, R57, R148) -/

/-- NETCAP (R60). -/
def netcap : Word := 0x404020

/-- The adders run an NMRED: it stands at the head of the N queue, granted. -/
def Core.adders (c : Core) : Bool :=
  match (c.queue .n).head? with
  | some k => k.cls == 18 && k.sub == 4 && k.grant == .granted
  | none => false

/-- Energy units requested ahead of the core's oldest request (22_scheduling_faults.md R340). -/
def aheadOf (ix : Fin 32) : List ClearReq → Nat → Nat
  | [], _ => 0
  | r :: t, n => if r.core = ix then n else aheadOf ix t (n + r.e)

/-- CLRSTAT (22_scheduling_faults.md R340). -/
def clrstat (s : State) : Word :=
  BitVec.ofNat 64 ((if s.core.nmu.run.isSome || s.core.adders then 2 ^ 48 else 0) + min s.grove.reqs.length 255 * 2 ^ 40
    + min (aheadOf s.core.ix s.grove.reqs 0) (2 ^ 20 - 1) * 2 ^ 20 + lowBits 20 s.grove.cnow)

/-- GETC's value of an index of R56. -/
def getCtl (i : Nat) (s : State) : Word :=
  let r := s.core.regs
  let t := s.core.stats
  match i with
  | 0x000 => r.fpctl
  | 0x001 => r.srseed
  | 0x002 => r.srstream
  | 0x003 => r.srctr
  | 0x010 => r.wid
  | 0x011 => r.aid.setWidth 64
  | 0x012 => BitVec.ofNat 64 r.gangix
  | 0x020 => s.grove.lawnow.setWidth 64
  | 0x021 => r.bartmo
  | 0x022 => netcap
  | 0x023 => BitVec.ofNat 64 (s.core.posts true)
  | 0x024 => BitVec.ofNat 64 (s.core.posts false)
  | 0x025 => clrstat s
  | 0x030 => r.tcause
  | 0x031 => r.tpc
  | 0x032 => r.tval
  | 0x040 => t.off.setWidth 64
  | 0x060 => t.nanseen.setWidth 64
  | _ =>
    if i < 0x60 then (t.maxmag[Fin.ofNat 16 (i - 0x50)]).setWidth 64 else t.prov[Fin.ofNat 8 (i - 0x70)]

/-- A register that PUTC may write: RW ones, and on the management path all but five (22_scheduling_faults.md R358). -/
def putOk (i : Nat) (mgmt : Bool) : Bool :=
  if mgmt then !([0x20, 0x22, 0x23, 0x24, 0x25].contains i)
  else decide (i ≤ 3) || i == 0x21 || (decide (0x30 ≤ i) && decide (i ≤ 0x32)) || i == 0x40 || (decide (0x50 ≤ i) && decide (i ≤ 0x60))

/-- FPCTL written: reserved bits are ignored, and a mode of 6 or 7 leaves the field (R57, R59). -/
def putFpctl (old v : Word) : Word :=
  (v &&& 0x3F0) ||| (if v.toNat % 8 < 6 then v &&& 7 else old &&& 7)

/-- The contexts whose CLR bit is set are cleared, and OFF is written (06_numbers.md R118). -/
def putHistctl (t : Stats) (v : Word) : Stats :=
  let t := (List.range 16).foldl (fun t k => if v.getLsbD (16 + k) then t.clear (Fin.ofNat 16 k) else t) t
  { t with off := v.setWidth 16 }

/-- PUTC's effect on an index of R56. -/
def putCtl (i : Nat) (v : Word) (c : Core) : Core :=
  let r := c.regs
  let t := c.stats
  match i with
  | 0x000 => { c with regs := { r with fpctl := putFpctl r.fpctl v } }
  | 0x001 => { c with regs := { r with srseed := v } }
  | 0x002 => { c with regs := { r with srstream := v } }
  | 0x003 => { c with regs := { r with srctr := v } }
  | 0x010 => { c with regs := { r with wid := v } }
  | 0x011 => { c with regs := { r with aid := v.setWidth 24 } }
  | 0x012 => { c with regs := { r with gangix := v.toNat } }
  | 0x021 => { c with regs := { r with bartmo := v } }
  | 0x030 => { c with regs := { r with tcause := v &&& 0xF8FF } }
  | 0x031 => { c with regs := { r with tpc := v } }
  | 0x032 => { c with regs := { r with tval := v } }
  | 0x040 => { c with stats := putHistctl t v }
  | 0x060 => { c with stats := { t with nanseen := v.setWidth 16 } }
  | _ =>
    if i < 0x60 then { c with stats := { t with maxmag := t.maxmag.set (Fin.ofNat 16 (i - 0x50)) (v.setWidth 32) } }
    else { c with stats := { t with prov := t.prov.set (Fin.ofNat 8 (i - 0x70)) (v &&& 0xFFFF03FFFFFE0007) } }

/-- GETC (R148). -/
def execGetc (x : CrF) (s : State) : Out := scalar (.getc x) x.h.g [x.d] (fun s => s.ws x.d (getCtl x.idx.val s)) s

/-- PUTC (R148): a write to a read-only register is an illegal encoding (R57, R76). -/
def execPutc (x : CrF) (s : State) : Out :=
  issue { Iss.of (.putc x) x.h.g [x.d] with ok := (Instr.putc x).wf && putOk x.idx.val s.core.mgmt }
    (fun s => .done (s.mapCore fun c => putCtl x.idx.val (c.regs.rs x.d) c)) s

end Sys2Proof.Machine
end

