-- ==== Sys2Proof/Machine/VArith.lean ====
section
/-!
DEFINITION. VARITH, VLOGIC and VCMP (10_vector_matrix.md R154 to R167): issue, and what the V engine performs.
-/
namespace Sys2Proof.Machine

/-! ### What performing a command comes to -/

/-- What an engine's attempt at a command comes to: performed, not able yet, a fault that abandons it and is reported to the
core (22_scheduling_faults.md R351), a translation it does not find (R350), or a step after which it stays in its queue. -/
inductive Perf where
  | ok (s : State) (e : Effect)
  | notYet
  | fault (s : State) (c : Cause) (v : Word)
  | miss (s : State) (va : Nat)
  | more (s : State)
deriving DecidableEq, Repr

/-- A change of the core's registers and its effect. -/
def Perf.regs (s : State) (e : Effect) (f : Regs → Regs) : Perf := .ok (s.mapRegs f) e

/-- An instruction that issues one command into the V queue. -/
def vissue (cls sub : Nat) (x : XOp) (lanes : Nat) (regs dst : List SReg) (s : State) : Out :=
  xissue cls sub x true (regs ++ dst) (place { q := .v, cls := cls, sub := sub, x := x, lanes := lanes, dst := dst }) s

/-- The elements of a type in a register. -/
def lanesOf (ty : Nat) : Nat := 512 / tyBits ty

/-- The lane of element i in the command's member (06_numbers.md R111). -/
def laneAt (k : Cmd) (i : Nat) : Nat := k.ix * lanesOf k.x.ty.val + i

/-- An elementwise command: the active elements of vd, with the union of their flags. -/
def vElems (k : Cmd) (w : Nat) (f : Nat → Nat × Flags) (s : State) : Perf :=
  let m := s.core.regs.rm k.x.mask
  let idx := List.range (512 / w)
  let r := idx.map f
  let fl := flagsOf ((idx.zip r).filterMap fun p => if activeAt m w p.1 then some p.2.2 else none)
  Perf.regs s { flags := fl } fun r0 => r0.wv k.x.d (ofElems w (maskElems m w (elems w (r0.rv k.x.d)) (r.map Prod.fst)))

/-- Element i of w bits of a vector register. -/
def Regs.elem (r : Regs) (v : VReg) (w i : Nat) : Nat := bitsOf (r.rv v).toNat (i * w) w

/-! ### VARITH -/

/-- Float VARITH on one element (R161). -/
def vaFloat (sub : Nat) (f : FFmt) (mode : RMode) (u : Nat) (n : Int) (a b c : FVal) : FVal × Flags :=
  match sub with
  | 0 => fadd f mode u a b
  | 1 => fsub f mode u a b
  | 2 => fmul f mode u a b
  | 3 => ffma f mode u a b c
  | 4 => ffms f mode u a b c
  | 5 => (fminV a b, noFlags)
  | 6 => (fmaxV a b, noFlags)
  | 7 => (a.absv, noFlags)
  | 8 => (a.negate, noFlags)
  | 9 =>
    let d := addV mode a b.negate
    finish f mode u (d.1.absv, d.2)
  | 11 => fdiv f mode u a b
  | 12 => fsqrt f mode u a
  | _ => roundF f mode u (a.scale n)

/-- Integer VARITH on one element, exactly (R162); the result of VMULH is already the upper half. -/
def vaInt (sub w : Nat) (a b c : Int) : Int :=
  match sub with
  | 0 => a + b
  | 1 => a - b
  | 2 => a * b
  | 3 => a * b + c
  | 4 => c - a * b
  | 5 => min a b
  | 6 => max a b
  | 7 => a.natAbs
  | 8 => -a
  | 9 => (a - b).natAbs
  | _ => a * b / 2 ^ w

/-- VARITH performed (R160). -/
def performVarith (k : Cmd) (s : State) : Perf :=
  let x := k.x
  let ty := x.ty.val
  let w := tyBits ty
  let r := s.core.regs
  match fmtOf ty with
  | some f =>
    vElems k w (fun i =>
      let g (v : VReg) : FVal := f.unpack (r.elem v w i)
      let t := vaFloat k.sub f k.rc.mode (k.rc.draw (laneAt k i)) (sxt 16 x.w2.toNat) (g x.a) (g x.b) (g x.c)
      (f.pack t.1, t.2)) s
  | none =>
    let sg := tySigned ty
    vElems k w (fun i =>
      let g (v : VReg) : Int := readInt sg w (r.elem v w i)
      intToInt sg w x.sat (vaInt k.sub w (g x.a) (g x.b) (g x.c))) s

/-! ### VLOGIC -/

/-- VLOGIC on one element of w bits (R163). -/
def vlElem (sub w a b n : Nat) : Nat :=
  let top := 2 ^ w
  let c := n % w
  match sub with
  | 0 => Nat.land a b
  | 1 => Nat.lor a b
  | 2 => Nat.xor a b
  | 3 => Nat.land a (top - 1 - b)
  | 4 => top - 1 - a
  | 5 => a * 2 ^ c % top
  | 6 => a / 2 ^ c
  | 7 => lowBits w (readInt true w a / 2 ^ c)
  | 8 => a / 2 ^ c + a * 2 ^ (w - c) % top
  | 9 => popCount w a
  | _ => leadZeros w a

/-- VLOGIC performed (R163). -/
def performVlogic (k : Cmd) (s : State) : Perf :=
  let x := k.x
  let w := tyBits x.ty.val
  let r := s.core.regs
  vElems k w (fun i =>
    let b := r.elem x.b w i
    (vlElem k.sub w (r.elem x.a w i) b (if x.x then x.w2f 0 6 else b), noFlags)) s

/-! ### VCMP -/

/-- The mask bits of the active elements of w bits set to the condition (R164). -/
def maskWrite (m old : Word) (w : Nat) (f : Nat → Bool) : Word :=
  let e := w / 8
  BitVec.ofNat 64 ((List.range (64 / e)).foldl
    (fun acc i => if activeAt m w i then setBits acc (i * e) e (if f i then 2 ^ e - 1 else 0) else acc) old.toNat)

/-- The condition of a vector compare on floats (R164). -/
def vcFloat (sub : Nat) (a b : FVal) : Bool :=
  match sub with
  | 0 => fcmpCond 0 a b
  | 1 => fcmpCond 1 a b
  | 2 => fcmpCond 2 a b
  | 3 => fcmpCond 4 a b
  | 4 => fcmpCond 5 a b
  | 5 => fcmpCond 3 a b
  | _ => fcmpCond 6 a b

/-- The condition of a vector compare on integers. -/
def vcInt (sub : Nat) (a b : Int) : Bool :=
  match sub with
  | 0 => decide (a = b)
  | 1 => decide (a ≠ b)
  | 2 => decide (a < b)
  | 3 => decide (a ≤ b)
  | 4 => decide (b < a)
  | _ => decide (b ≤ a)

/-- The class bit of a float value (R165). -/
def classBit (f : FFmt) (v : FVal) : Nat :=
  match v with
  | .nan => 8
  | .inf s => if s then 0 else 7
  | .num s m e => if m = 0 then (if s then 3 else 4) else if subnormal f m e then (if s then 2 else 5) else (if s then 1 else 6)

/-- A lane mask named in a five-bit field. -/
def maskReg (r : Fin 32) : MReg := Fin.ofNat 8 r.val

/-- VCMP performed (R164 to R167). -/
def performVcmp (k : Cmd) (s : State) : Perf :=
  let x := k.x
  let ty := x.ty.val
  let w := tyBits ty
  let r := s.core.regs
  let m := r.rm x.mask
  let mask (v : Word) : Perf := Perf.regs s {} fun r => r.wm (maskReg x.d) v
  let ma := r.rm (maskReg x.a)
  let mb := r.rm (maskReg x.b)
  match k.sub with
  | 0 | 1 | 2 | 3 | 4 | 5 | 6 =>
    mask (maskWrite m (r.rm (maskReg x.d)) w fun i =>
      match fmtOf ty with
      | some f => vcFloat k.sub (f.unpack (r.elem x.a w i)) (f.unpack (r.elem x.b w i))
      | none => vcInt k.sub (readInt (tySigned ty) w (r.elem x.a w i)) (readInt (tySigned ty) w (r.elem x.b w i)))
  | 7 =>
    mask (maskWrite m (r.rm (maskReg x.d)) w fun i =>
      match fmtOf ty with
      | some f => bitAt (x.w2f 0 9) (classBit f (f.unpack (r.elem x.a w i)))
      | none => false)
  | 8 =>
    let c := r.rm (maskReg x.c)
    vElems k w (fun i => (if activeAt c w i then r.elem x.a w i else r.elem x.b w i, noFlags)) s
  | 9 => mask (ma &&& mb)
  | 10 => mask (ma ||| mb)
  | 11 => mask (ma ^^^ mb)
  | 12 => mask (~~~ma)
  | 13 => Perf.regs s {} fun r => r.ws x.d ma
  | _ => mask k.sa

/-! ### Issue -/

/-- VADD (R160). -/
def execVadd (x : XOp) (s : State) : Out := vissue 1 0 x (lanesOf x.ty.val) [] [] s
/-- VSUB (R160). -/
def execVsub (x : XOp) (s : State) : Out := vissue 1 1 x (lanesOf x.ty.val) [] [] s
/-- VMUL (R160). -/
def execVmul (x : XOp) (s : State) : Out := vissue 1 2 x (lanesOf x.ty.val) [] [] s
/-- VFMA (R160). -/
def execVfma (x : XOp) (s : State) : Out := vissue 1 3 x (lanesOf x.ty.val) [] [] s
/-- VFMS (R160). -/
def execVfms (x : XOp) (s : State) : Out := vissue 1 4 x (lanesOf x.ty.val) [] [] s
/-- VMIN (R160). -/
def execVmin (x : XOp) (s : State) : Out := vissue 1 5 x (lanesOf x.ty.val) [] [] s
/-- VMAX (R160). -/
def execVmax (x : XOp) (s : State) : Out := vissue 1 6 x (lanesOf x.ty.val) [] [] s
/-- VABS (R160). -/
def execVabs (x : XOp) (s : State) : Out := vissue 1 7 x (lanesOf x.ty.val) [] [] s
/-- VNEG (R160). -/
def execVneg (x : XOp) (s : State) : Out := vissue 1 8 x (lanesOf x.ty.val) [] [] s
/-- VABSD (R160). -/
def execVabsd (x : XOp) (s : State) : Out := vissue 1 9 x (lanesOf x.ty.val) [] [] s
/-- VMULH (R160). -/
def execVmulh (x : XOp) (s : State) : Out := vissue 1 10 x (lanesOf x.ty.val) [] [] s
/-- VDIV (R160). -/
def execVdiv (x : XOp) (s : State) : Out := vissue 1 11 x (lanesOf x.ty.val) [] [] s
/-- VSQRT (R160). -/
def execVsqrt (x : XOp) (s : State) : Out := vissue 1 12 x (lanesOf x.ty.val) [] [] s
/-- VSCL (R160). -/
def execVscl (x : XOp) (s : State) : Out := vissue 1 13 x (lanesOf x.ty.val) [] [] s
/-- VAND (R163). -/
def execVand (x : XOp) (s : State) : Out := vissue 2 0 x (lanesOf x.ty.val) [] [] s
/-- VOR (R163). -/
def execVor (x : XOp) (s : State) : Out := vissue 2 1 x (lanesOf x.ty.val) [] [] s
/-- VXOR (R163). -/
def execVxor (x : XOp) (s : State) : Out := vissue 2 2 x (lanesOf x.ty.val) [] [] s
/-- VANDN (R163). -/
def execVandn (x : XOp) (s : State) : Out := vissue 2 3 x (lanesOf x.ty.val) [] [] s
/-- VNOT (R163). -/
def execVnot (x : XOp) (s : State) : Out := vissue 2 4 x (lanesOf x.ty.val) [] [] s
/-- VSHL (R163). -/
def execVshl (x : XOp) (s : State) : Out := vissue 2 5 x (lanesOf x.ty.val) [] [] s
/-- VSHR (R163). -/
def execVshr (x : XOp) (s : State) : Out := vissue 2 6 x (lanesOf x.ty.val) [] [] s
/-- VSRA (R163). -/
def execVsra (x : XOp) (s : State) : Out := vissue 2 7 x (lanesOf x.ty.val) [] [] s
/-- VROTR (R163). -/
def execVrotr (x : XOp) (s : State) : Out := vissue 2 8 x (lanesOf x.ty.val) [] [] s
/-- VPOPC (R163). -/
def execVpopc (x : XOp) (s : State) : Out := vissue 2 9 x (lanesOf x.ty.val) [] [] s
/-- VCLZ (R163). -/
def execVclz (x : XOp) (s : State) : Out := vissue 2 10 x (lanesOf x.ty.val) [] [] s
/-- VCEQ (R164). -/
def execVceq (x : XOp) (s : State) : Out := vissue 3 0 x 0 [] [] s
/-- VCNE (R164). -/
def execVcne (x : XOp) (s : State) : Out := vissue 3 1 x 0 [] [] s
/-- VCLT (R164). -/
def execVclt (x : XOp) (s : State) : Out := vissue 3 2 x 0 [] [] s
/-- VCLE (R164). -/
def execVcle (x : XOp) (s : State) : Out := vissue 3 3 x 0 [] [] s
/-- VCGT (R164). -/
def execVcgt (x : XOp) (s : State) : Out := vissue 3 4 x 0 [] [] s
/-- VCGE (R164). -/
def execVcge (x : XOp) (s : State) : Out := vissue 3 5 x 0 [] [] s
/-- VCUN (R164). -/
def execVcun (x : XOp) (s : State) : Out := vissue 3 6 x 0 [] [] s
/-- VCLASS (R165). -/
def execVclass (x : XOp) (s : State) : Out := vissue 3 7 x 0 [] [] s
/-- VSEL (R166). -/
def execVsel (x : XOp) (s : State) : Out := vissue 3 8 x 0 [] [] s
/-- VMAND (R167). -/
def execVmand (x : XOp) (s : State) : Out := vissue 3 9 x 0 [] [] s
/-- VMOR (R167). -/
def execVmor (x : XOp) (s : State) : Out := vissue 3 10 x 0 [] [] s
/-- VMXOR (R167). -/
def execVmxor (x : XOp) (s : State) : Out := vissue 3 11 x 0 [] [] s
/-- VMNOT (R167). -/
def execVmnot (x : XOp) (s : State) : Out := vissue 3 12 x 0 [] [] s
/-- VMTOS (R167). -/
def execVmtos (x : XOp) (s : State) : Out := vissue 3 13 x 0 [] [x.d] s
/-- VSTOM (R167). -/
def execVstom (x : XOp) (s : State) : Out := vissue 3 14 x 0 [x.a] [] s

end Sys2Proof.Machine
end

