-- ==== Sys2Proof/Machine/VCvt.lean ====
section
/-!
DEFINITION. The VCVT class (10_vector_matrix.md R168 to R173) with E2M1 blocks (06_numbers.md R100 to R102) and aligned block
images (R106, R169).
-/
namespace Sys2Proof.Machine

/-! ### Values of element types -/

/-- A term of TS8 (R104). -/
def ts8Term (neg : Bool) (c : Nat) : Int := if c = 0 then 0 else if neg then -(2 ^ (c - 1) : Int) else 2 ^ (c - 1)

/-- The value of a TS8 byte (R104). -/
def ts8Value (b : Nat) : Int := ts8Term (bitAt b 7) (bitsOf b 4 3) + ts8Term (bitAt b 3) (bitsOf b 0 3)

/-- The value of an element. -/
def valueOf (ty bits : Nat) : FVal :=
  match fmtOf ty with
  | some f => f.unpack bits
  | none => if ty = 14 then FVal.ofInt (ts8Value bits) else FVal.ofInt (readInt (tySigned ty) (tyBits ty) bits)

/-- The exact integer of an integer or TS8 element. -/
def intValue (ty bits : Nat) : Int := if ty = 14 then ts8Value bits else readInt (tySigned ty) (tyBits ty) bits

/-- A value as a context counts it (06_numbers.md R116). -/
def seenOf (ty bits : Nat) : Seen := { fmt := fmtOf ty, val := valueOf ty bits }

/-! ### VCVT (R168) -/

/-- One element converted (06_numbers.md R112, R113). -/
def cvtElem (src dst : Nat) (mode : RMode) (u : Nat) (sat : Bool) (bits : Nat) : Nat × Flags :=
  match fmtOf dst with
  | some f =>
    let r := cvtToF f mode u sat (valueOf src bits)
    (f.pack r.1, r.2)
  | none =>
    match fmtOf src with
    | some f => cvtToInt (tySigned dst) (tyBits dst) mode u sat (f.unpack bits)
    | none => intToInt (tySigned dst) (tyBits dst) sat (intValue src bits)

/-- The number of elements VCVT converts. -/
def cvtCount (x : XOp) : Nat := 512 / max (tyBits (x.w2f 0 4)) (tyBits x.ty.val)

/-- VCVT performed (R168). -/
def performVcvt (k : Cmd) (s : State) : Perf :=
  let x := k.x
  let src := x.w2f 0 4
  let dst := x.ty.val
  let db := tyBits dst
  let n := cvtCount x
  let s0 := x.w2f 4 4 * n
  let d0 := x.w2f 8 4 * n
  let r := s.core.regs
  let m := r.rm x.mask
  let out := (List.range n).map fun i =>
    cvtElem src dst k.rc.mode (k.rc.draw (k.ix * n + i)) x.sat (r.elem x.a (tyBits src) (s0 + i))
  let act := (List.range n).filter fun i => activeAt m db (d0 + i)
  let old := elems db (r.rv x.d)
  let new := (List.range old.length).map fun j =>
    if d0 ≤ j ∧ j < d0 + n ∧ activeAt m db j then (out.getD (j - d0) (0, noFlags)).1 else old.getD j 0
  Perf.regs s
    { flags := flagsOf (act.map fun i => (out.getD i (0, noFlags)).2), hist := x.hist
      seen := if x.x then act.map fun i => seenOf dst (out.getD i (0, noFlags)).1 else [] }
    fun r => r.wv x.d (ofElems db new)

/-! ### Aligned block images (R169, R170) -/

/-- The width of an AW code (04_formats.md R70). -/
def awBits (aw : Nat) : Nat := 4 + 4 * aw

/-- The container of a mantissa (R106). -/
def awBox (aw : Nat) : Nat := if aw < 2 then awBits aw else 16

/-- 32 float elements from va, or va and v(a+1) (R170). -/
def block32 (r : Regs) (src : Nat) (a : VReg) : List FVal :=
  let f := (fmtOf src).getD .fp32
  if src = 8 then (elems 32 (r.rv a) ++ elems 32 (r.rv (a + 1))).map f.unpack else (elems 16 (r.rv a)).map f.unpack

/-- The largest floor(log2 |x|) over the finite nonzero elements; none when there is none. -/
def blockExp (l : List FVal) : Option Int :=
  (l.filterMap fun v => match v with | .num _ m e => if m = 0 then none else some (ilog2 m 1 + e) | _ => none).max?

/-- The block exponent of R170, with the bound of sb when B is set. -/
def alignEb (l : List FVal) (w : Nat) (bound : Option Int) : Int :=
  match blockExp l, bound with
  | none, none => 0
  | none, some b => b
  | some e, none => e - ((w : Int) - 2)
  | some e, some b => max (e - ((w : Int) - 2)) b

/-- A mantissa of R170, with its flags. -/
def alignMant (w : Nat) (eb : Int) (mode : RMode) (u : Nat) (v : FVal) : Int × Flags :=
  match v with
  | .num s m e =>
    let r := roundInt mode u s m (e - eb)
    let lim : Int := 2 ^ (w - 1) - 1
    if lim < r.1 then (lim, { nx := true, sat := true })
    else if r.1 < -lim then (-lim, { nx := true, sat := true })
    else (r.1, { nx := r.2 })
  | _ => (0, noFlags)

/-- The bits of a list of Booleans, the first lowest. -/
def bitsOfList : List Bool → Nat
  | [] => 0
  | b :: t => (if b then 1 else 0) + 2 * bitsOfList t

/-- An image as one number (R169). -/
def imageOf (aw : Nat) (eb : Int) (mant : List Int) (vs : List FVal) : Nat :=
  let base := if aw < 2 then 48 else 64
  packElems (awBox aw) (mant.map fun m => lowBits (awBox aw) m)
    + lowBits 16 eb * 2 ^ (8 * base)
    + bitsOfList (vs.map FVal.isNan) * 2 ^ (8 * (base + 4))
    + bitsOfList (vs.map FVal.isInf) * 2 ^ (8 * (base + 8))
    + bitsOfList (vs.map fun v => v.isInf && v.neg) * 2 ^ (8 * (base + 12))

/-- VALIGN and its probe performed (R170). -/
def performValign (k : Cmd) (s : State) : Perf :=
  let x := k.x
  let aw := x.aw.val
  let w := awBits aw
  let vs := block32 s.core.regs (x.w2f 0 4) x.a
  let eb := alignEb vs w (if x.w2f 4 1 = 1 then some (sxt 16 k.sb.toNat) else none)
  if x.w2f 5 1 = 1 then Perf.regs s {} fun r => r.ws x.d (wordOfInt eb)
  else
    let ms := (List.range 32).map fun i => alignMant w eb k.rc.mode (k.rc.draw (k.ix * 32 + i)) (vs.getD i .pzero)
    let im := imageOf aw eb (ms.map Prod.fst) vs
    Perf.regs s { flags := flagsOf (ms.map Prod.snd) } fun r =>
      if aw < 2 then r.wv x.d (BitVec.ofNat 512 im)
      else (r.wv x.d (BitVec.ofNat 512 im)).wv (x.d + 1) (BitVec.ofNat 512 (im / 2 ^ 512))

/-! ### E2M1 blocks (06_numbers.md R101, R102) -/

/-- The values of a block of 32 bytes with the NV of R102. -/
def e2Block (b : Nat) : List FVal × Bool :=
  let cnt := bitsOf b (8 * 17) 8
  let n := min cnt 4
  let entry (p : Nat) : Option Int :=
    (List.range n).findSome? fun i =>
      if bitsOf b (8 * (18 + 2 * i)) 5 = p then some (sxt 8 (bitsOf b (8 * (19 + 2 * i)) 8)) else none
  let one (p : Nat) : FVal × Bool :=
    let c := bitsOf b (4 * p) 4
    if c = 8 then
      match entry p with
      | some j => ((FVal.ofInt j).scale (-1), false)
      | none => (.pzero, true)
    else (FFmt.e2m1.unpack c, false)
  let l := (List.range 32).map one
  (l.map Prod.fst, decide (4 < cnt) || l.any Prod.snd)

/-- VUNPE2 performed (R172). -/
def performVunpe2 (k : Cmd) (s : State) : Perf :=
  let x := k.x
  let f := (fmtOf x.ty.val).getD .fp32
  let b := e2Block (bitsOf (s.core.regs.rv x.a).toNat 0 256)
  let l := b.1.map f.pack
  Perf.regs s { flags := { nv := b.2 } } fun r =>
    if x.ty = 8 then (r.wv x.d (ofElems 32 (l.take 16))).wv (x.d + 1) (ofElems 32 (l.drop 16)) else r.wv x.d (ofElems 16 l)

/-- |x| > 6 for a finite x. -/
def beyond6 (v : FVal) : Bool :=
  match v with
  | .num _ m e => magLt 6 0 m e
  | _ => false

/-- The positions chosen as outliers: the n largest magnitudes, ties to the lowest position (R114, R171). -/
def outliers (vs : List FVal) : Nat → List Nat → List Nat
  | 0, ch => ch
  | n + 1, ch =>
    let best := (List.range 32).foldl (fun (b : Option Nat) i =>
      if ch.contains i || !beyond6 (vs.getD i .pzero) then b
      else
        match b with
        | none => some i
        | some j => if vlt (vs.getD j .pzero).absv (vs.getD i .pzero).absv then some i else some j) none
    match best with
    | none => ch
    | some i => outliers vs n (i :: ch)

/-- An outlier's k with its flags (R171). -/
def outlierK (mode : RMode) (u : Nat) (v : FVal) : Int × Flags :=
  match v with
  | .num s m e =>
    let r := roundInt mode u s m (e + 1)
    if 127 < r.1 then (127, { nx := true, sat := true })
    else if r.1 < -128 then (-128, { nx := true, sat := true })
    else (r.1, { nx := r.2 })
  | _ => (0, noFlags)

/-- VPKE2 performed (R171). -/
def performVpke2 (k : Cmd) (s : State) : Perf :=
  let x := k.x
  let vs := block32 s.core.regs (x.w2f 0 4) x.a
  let ch := (List.range 32).filter fun i => (outliers vs 4 []).contains i
  let u (i : Nat) : Nat := k.rc.draw (k.ix * 32 + i)
  let code (i : Nat) : Nat × Flags :=
    if ch.contains i then (8, noFlags)
    else
      let r := cvtToF .e2m1 k.rc.mode (u i) true (vs.getD i .pzero)
      (FFmt.e2m1.pack r.1, r.2)
  let ks := ch.map fun i => (i, outlierK k.rc.mode (u i) (vs.getD i .pzero))
  let cs := (List.range 32).map code
  let ent := (List.range ks.length).foldl
    (fun acc j =>
      let e := ks.getD j (0, 0, noFlags)
      acc + e.1 * 2 ^ (8 * (18 + 2 * j)) + lowBits 8 e.2.1 * 2 ^ (8 * (19 + 2 * j))) 0
  let b := packElems 4 (cs.map Prod.fst) + k.sb.toNat % 256 * 2 ^ 128 + ch.length * 2 ^ 136 + ent
  Perf.regs s { flags := flagsOf (cs.map Prod.snd ++ ks.map fun e => e.2.2) } fun r => r.wv x.d (BitVec.ofNat 512 b)

/-- VHIST performed (R173). -/
def performVhist (k : Cmd) (s : State) : Perf :=
  let x := k.x
  let ctx : Fin 16 := Fin.ofNat 16 (x.w2f 0 4)
  let bins := (s.core.stats.bins[ctx]).toList.map BitVec.toNat
  let put (r : Regs) (q : Nat) : Regs := r.wv (Fin.ofNat 32 (x.d.val + q)) (ofElems 32 ((bins.drop (16 * q)).take 16))
  let t := s.mapRegs fun r => (List.range 4).foldl put r
  .ok (if x.w2f 4 1 = 1 then t.mapCore fun c => { c with stats := c.stats.clear ctx } else t) {}

/-- The VCVT class performed. -/
def performVcvtClass (k : Cmd) (s : State) : Perf :=
  match k.sub with
  | 0 => performVcvt k s
  | 1 => performValign k s
  | 2 => performVpke2 k s
  | 3 => performVunpe2 k s
  | _ => performVhist k s

/-! ### Issue -/

/-- VCVT (R168). -/
def execVcvt (x : XOp) (s : State) : Out := vissue 4 0 x (cvtCount x) [] [] s
/-- An instruction of VALIGN's subop, the vector form or the probe. -/
def alignIssue (probe : Bool) (x : XOp) (s : State) : Out :=
  let p := x.w2f 5 1 == 1
  xissue 4 1 x (p == probe) (x.b :: (if p then [x.d] else []))
    (place { q := .v, cls := 4, sub := 1, x := x, lanes := 32, dst := if p then [x.d] else [] }) s
/-- VALIGN (R170). -/
def execValign (x : XOp) (s : State) : Out := alignIssue false x s
/-- VALIGNP (R170). -/
def execValignp (x : XOp) (s : State) : Out := alignIssue true x s
/-- VPKE2 (R171). -/
def execVpke2 (x : XOp) (s : State) : Out := vissue 4 2 x 32 [x.b] [] s
/-- VUNPE2 (R172). -/
def execVunpe2 (x : XOp) (s : State) : Out := vissue 4 3 x 0 [] [] s
/-- VHIST (R173). -/
def execVhist (x : XOp) (s : State) : Out := vissue 4 4 x 0 [] [] s

end Sys2Proof.Machine
end

