-- ==== Sys2Proof/Machine/VPerm.lean ====
section
/-!
DEFINITION. VPERM and VRED over the joint vector (10_vector_matrix.md R155, R157, R174, R175).
-/
namespace Sys2Proof.Machine

/-! ### The joint vector (R157) -/

/-- A core put in its place among cores in the order of their indices. -/
def putByIx (c : Core) : List Core → List Core
  | [] => [c]
  | d :: t => if c.ix ≤ d.ix then c :: d :: t else d :: putByIx c t

/-- Cores in the order of their indices, which is the order of the gang's members (02_execution.md R39). -/
def byIx : List Core → List Core
  | [] => []
  | c :: t => putByIx c (byIx t)

/-- The command of another member that the same joint instruction issued. -/
def Core.jointCmd (c : Core) (k : Cmd) : Option Cmd :=
  c.cmds.find? fun j => j.q == k.q && j.g == k.g && j.jid == k.jid && j.cls == k.cls && j.sub == k.sub

/-- That command, if the member has it, may start. -/
def Core.jointReady (k : Cmd) (c : Core) : Bool :=
  match c.jointCmd k with
  | none => true
  | some j => c.startable j

/-- A core stands in the gang that issued a command of core c (02_execution.md R39). -/
def Cmd.inGang (k : Cmd) (c d : Core) : Bool := decide (c.ix.val ≤ d.ix.val + k.ix) && decide (d.ix.val + k.ix < c.ix.val + k.g)

/-- The members' cores of the gang that issued a command of the core, in order; outside a gang the core alone. -/
def jointCores (k : Cmd) (s : State) : List Core := if k.g ≤ 1 then [s.core] else byIx (s.cores.filter (k.inGang s.core))

/-- A joint command performed by one member other than the core: its registers, its queue and what it commits. -/
def jointOther (k : Cmd) (f : Cmd → Core → Core × Effect) (c : Core) : Core :=
  match c.jointCmd k with
  | none => c
  | some j =>
    let r := f j c
    ({ r.1 with cmds := c.cmds.filter fun h => h.serial != j.serial } : Core).merge r.2

/-- A joint command performed in all members that issued it, at one time: f is given the members' cores in order. -/
def jointDo (k : Cmd) (f : List Core → Cmd → Core → Core × Effect) (s : State) : Perf :=
  let cs := jointCores k s
  let r := f cs k s.core
  if k.g ≤ 1 then .ok { s with core := r.1 } r.2
  else if cs.all (Core.jointReady k) then
    .ok { s with core := r.1, peers := s.peers.map fun d => if k.inGang s.core d then jointOther k (f cs) d else d } r.2
  else .notYet

/-- Joint element i of w bits of a register; a member whose guard was false gives its elements too (DESIGN CHOICE, log entry 52). -/
def jointElem (cs : List Core) (v : VReg) (w i : Nat) : Nat :=
  let e := 512 / w
  match cs[i / e]? with
  | some c => c.regs.elem v w (i % e)
  | none => 0

/-- Joint element i is active under mask register m. -/
def jointActive (cs : List Core) (m : MReg) (w i : Nat) : Bool :=
  let e := 512 / w
  match cs[i / e]? with
  | some c => activeAt (c.regs.rm m) w (i % e)
  | none => false

/-- The positions below n at which a joint mask is active. -/
def jointOnes (cs : List Core) (m : MReg) (w n : Nat) : List Nat := (List.range n).filter fun i => jointActive cs m w i

/-! ### VPERM (R174) -/

/-- Ej of a command. -/
def jointLanes (k : Cmd) : Nat := lanesOf k.x.ty.val * max 1 k.g

/-- Element i of the joint result of a VPERM subop that writes active elements. -/
def permElem (k : Cmd) (cs : List Core) (i : Nat) : Nat :=
  let x := k.x
  let w := tyBits x.ty.val
  let n := jointLanes k
  let imm := x.w2.toNat
  let a (j : Nat) : Nat := jointElem cs x.a w j
  let b (j : Nat) : Nat := jointElem cs x.b w j
  match k.sub with
  | 0 => k.sa.toNat % 2 ^ w
  | 1 => a (b i % n)
  | 2 => a ((i + imm) % n)
  | 3 => if i + imm < n then a (i + imm) else b (i + imm - n)
  | 4 => if i % 2 = 0 then a (imm % 2 * (n / 2) + i / 2) else b (imm % 2 * (n / 2) + (i - 1) / 2)
  | _ =>
    let j := 2 * i + imm % 2
    if j < n then a j else b (j - n)

/-- The elements of vd of the member whose first joint element is lo, replaced where g gives one. -/
def putElems (r : Regs) (d : VReg) (w : Nat) (g : Nat → Option Nat) : Regs :=
  r.wv d (ofElems w ((List.range (512 / w)).map fun i => (g i).getD (r.elem d w i)))

/-- The value VEXTR writes (08_scalar.md R121). -/
def extracted (ty bits : Nat) : Word :=
  if (fmtOf ty).isSome then BitVec.ofNat 64 bits
  else if tySigned ty then sxtWord (tyBits ty) bits else BitVec.ofNat 64 bits

/-- The place of a member's core among the members. -/
def memberIx (cs : List Core) (c : Core) : Nat := cs.findIdx fun d => d.ix == c.ix

/-- One member's part of a VPERM subop. -/
def permPart (cs : List Core) (k : Cmd) (c : Core) : Core × Effect :=
  let x := k.x
  let w := tyBits x.ty.val
  let e := 512 / w
  let j := memberIx cs c
  let n := jointLanes k
  let m := c.regs.rm x.mask
  let at_ : Nat := x.w2.toNat
  let sel (_ : Unit) : List Nat := jointOnes cs x.mask w n
  let regs : Regs :=
    match k.sub with
    | 6 =>
      -- VINS: the sa of the member that holds element i
      if at_ / e = j then putElems c.regs x.d w fun i => if i = at_ % e ∧ activeAt m w i then some (k.sa.toNat % 2 ^ w) else none else c.regs
    | 7 => c.regs.ws x.d (extracted x.ty.val (jointElem cs x.a w at_))
    | 8 =>
      let l := sel ()
      putElems c.regs x.d w fun i =>
        some (match l[j * e + i]? with | some p => jointElem cs x.a w p | none => 0)
    | 9 =>
      let l := sel ()
      putElems c.regs x.d w fun i =>
        if l.contains (j * e + i) then some (jointElem cs x.a w (l.findIdx fun p => p == j * e + i)) else none
    | _ => putElems c.regs x.d w fun i => if activeAt m w i then some (permElem k cs (j * e + i)) else none
  ({ c with regs := regs }, {})

/-- VPERM performed (R174); VBCAST acts in each member alone. -/
def performVperm (k : Cmd) (s : State) : Perf :=
  if k.sub = 0 then
    let w := tyBits k.x.ty.val
    vElems k w (fun _ => (k.sa.toNat % 2 ^ w, noFlags)) s
  else jointDo k permPart s

/-! ### VRED (R175) -/

/-- One level of the tree: neighbours joined, the node numbers counted on from n. -/
def redLevel {α : Type} (op : α → α → Nat → α) : Nat → List (Option α) → List (Option α)
  | n, x :: y :: t =>
    (match x, y with
     | some a, some b => some (op a b n)
     | some a, none => some a
     | none, z => z) :: redLevel op (n + 1) t
  | _, l => l

/-- The whole tree, over at most fuel levels. -/
def redTree {α : Type} (op : α → α → Nat → α) : Nat → Nat → List (Option α) → Option α
  | 0, _, l => l.headD none
  | fuel + 1, n, l =>
    if l.length ≤ 1 then l.headD none else redTree op fuel (n + l.length / 2) (redLevel op n l)

/-- The clamp of an integer sum under sat, with SAT. -/
def clamp64 (sat : Bool) (v : Int) : Int × Flags :=
  if sat = false then (v, noFlags)
  else if 2 ^ 63 - 1 < v then (2 ^ 63 - 1, flagSAT) else if v < -(2 ^ 63) then (-(2 ^ 63), flagSAT) else (v, noFlags)

/-- The reduction's result as the low bytes of vd, with its flags; draw is the member's own. -/
def redValue (cs : List Core) (k : Cmd) : Nat × Flags :=
  let x := k.x
  let ty := x.ty.val
  let w := tyBits ty
  let n := jointLanes k
  let a (i : Nat) : Nat := jointElem cs x.a w i
  let b (i : Nat) : Nat := jointElem cs x.b w i
  let leaves {α : Type} (f : Nat → α) : List (Option α) :=
    (List.range n).map fun i => if jointActive cs x.mask w i then some (f i) else none
  match fmtOf ty with
  | some f =>
    let mode := k.rc.mode
    if k.sub = 1 ∨ k.sub = 2 then
      let r := redTree (fun p q _ => if k.sub = 1 then fminV p q else fmaxV p q) 16 1 (leaves fun i => f.unpack (a i))
      (f.pack (r.getD .pzero), noFlags)
    else
      let leaf (i : Nat) : FVal × Flags :=
        if k.sub = 0 then (f.unpack (a i), noFlags) else fmul .fp32 mode (k.rc.draw (2 * i)) (f.unpack (a i)) (f.unpack (b i))
      let lane (q : Nat) : Nat := if k.sub = 0 then q else 2 * q + 1
      let r := redTree (fun (p q : FVal × Flags) i =>
        let t := fadd .fp32 mode (k.rc.draw (lane i)) p.1 q.1
        (t.1, (p.2.or q.2).or t.2)) 16 1 (leaves leaf)
      let v := r.getD (.pzero, noFlags)
      (FFmt.fp32.pack v.1, v.2)
  | none =>
    let sg := tySigned ty
    let iv (bits : Nat) : Int := readInt sg w bits
    if k.sub = 1 ∨ k.sub = 2 then
      let r := redTree (fun (p q : Int) _ => if k.sub = 1 then min p q else max p q) 16 1 (leaves fun i => iv (a i))
      (lowBits w (r.getD 0), noFlags)
    else
      let r := redTree (fun (p q : Int) _ => p + q) 16 1 (leaves fun i => if k.sub = 0 then iv (a i) else iv (a i) * iv (b i))
      let v := clamp64 x.sat (r.getD 0)
      (lowBits 64 v.1, v.2)

/-- One member's part of a VRED subop: element 0 is the result, and the rest is cleared. -/
def redPart (cs : List Core) (k : Cmd) (c : Core) : Core × Effect :=
  let r := redValue cs k
  ({ c with regs := c.regs.wv k.x.d (BitVec.ofNat 512 r.1) }, { flags := r.2 })

/-- VRED performed (R175). -/
def performVred (k : Cmd) (s : State) : Perf := jointDo k redPart s

/-! ### Issue -/

/-- Issue of a VPERM subop with the bound on its word 2 by Ej (R174). -/
def permIssue (sub : Nat) (bound : Nat → Nat → Bool) (x : XOp) (regs dst : List SReg) (s : State) : Out :=
  xissue 5 sub x (bound x.w2.toNat (lanesOf x.ty.val * s.gangSize)) (regs ++ dst)
    (place { q := .v, cls := 5, sub := sub, x := x, dst := dst }) s

/-- VBCAST (R174). -/
def execVbcast (x : XOp) (s : State) : Out := permIssue 0 (fun _ _ => true) x [x.a] [] s
/-- VSHUF (R174). -/
def execVshuf (x : XOp) (s : State) : Out := permIssue 1 (fun _ _ => true) x [] [] s
/-- VROT (R174). -/
def execVrot (x : XOp) (s : State) : Out := permIssue 2 (fun _ _ => true) x [] [] s
/-- VSLIDE (R174): n ≤ Ej. -/
def execVslide (x : XOp) (s : State) : Out := permIssue 3 (fun n e => decide (n ≤ e)) x [] [] s
/-- VZIP (R174). -/
def execVzip (x : XOp) (s : State) : Out := permIssue 4 (fun _ _ => true) x [] [] s
/-- VUNZIP (R174). -/
def execVunzip (x : XOp) (s : State) : Out := permIssue 5 (fun _ _ => true) x [] [] s
/-- VINS (R174): i < Ej. -/
def execVins (x : XOp) (s : State) : Out := permIssue 6 (fun n e => decide (n < e)) x [x.a] [] s
/-- VEXTR (R174): i < Ej; d is pending until the V engine writes it (R156). -/
def execVextr (x : XOp) (s : State) : Out := permIssue 7 (fun n e => decide (n < e)) x [] [x.d] s
/-- VCOMP (R174). -/
def execVcomp (x : XOp) (s : State) : Out := permIssue 8 (fun _ _ => true) x [] [] s
/-- VEXPD (R174). -/
def execVexpd (x : XOp) (s : State) : Out := permIssue 9 (fun _ _ => true) x [] [] s

/-- VRSUM (R175): N = Ej lanes for the gang. -/
def execVrsum (x : XOp) (s : State) : Out := vissue 6 0 x (lanesOf x.ty.val) [] [] s
/-- VRMIN (R175). -/
def execVrmin (x : XOp) (s : State) : Out := vissue 6 1 x 0 [] [] s
/-- VRMAX (R175). -/
def execVrmax (x : XOp) (s : State) : Out := vissue 6 2 x 0 [] [] s
/-- VRDOT (R175): two lanes per element. -/
def execVrdot (x : XOp) (s : State) : Out := vissue 6 3 x (2 * lanesOf x.ty.val) [] [] s

end Sys2Proof.Machine
end

