-- ==== Sys2Proof/Machine/VMem.lean ====
section
/-!
DEFINITION. What engines do on the scratchpad, and VMEM (10_vector_matrix.md R176, R177; 04_formats.md R78 to R80).
-/
namespace Sys2Proof.Machine

/-! ### Issue over local records -/

/-- The local range of a record's elements: none when it has none, the fault when it lies elsewhere (R80, R176, R180). -/
def localRec (s : State) (r : LRec) (ty aw : Nat) : Except Cause (Option Range) :=
  if r.empty then .ok none
  else
    match placeOf s r.base with
    | some (.loc _) =>
      let b := r.bounds ty aw
      (match spanFault s r.base b.1 b.2 (baseAlign ty aw) with
       | some c => .error c
       | none => .ok (some (localRange s.core b.1 b.2)))
    | _ => .error .aspace

/-- A record's flags are all zero; reserved flag bits follow R77. -/
def LRec.plain (r : LRec) : Bool := !r.flagI && !r.flagS && r.rsv == 0

/-- A trap with the first word (R77). -/
def illopX (cls sub : Nat) (x : XOp) (s : State) : R := .trap s .illop ((BitVec.ofNat 32 (x.word0 cls sub)).setWidth 64)

/-! ### Engine accesses (R355, R365) -/

/-- An engine command's access as the watchpoints see it. -/
def engineTouch (k : Cmd) (c : Core) (rd : Bool) (lo n : Nat) : Touch :=
  { kind := 5, rd := rd, remote := false, score := c.pkgIx, said := k.aid.toNat, lo := lo, n := n }

/-- The first byte of a range that cannot be corrected. -/
def Health.firstLost (h : Health) (a n : Nat) : Option Nat :=
  if h.sound then none else ((List.range n).find? fun i => h.lost (a + i)).map fun i => a + i

/-- The spans of scratchpad bytes that a command reads: the state after the reads, or after a storage error, with the local
address of the byte (log entry 17). -/
def engineReads (k : Cmd) : List (Nat × Nat) → State → Except (State × Word) State
  | [], s => .ok s
  | (a, n) :: t, s =>
    let u := s.mapCore fun c => { c with health := c.health.touchN a n }
    match s.core.health.firstLost a n with
    | some p => .error (u, BitVec.ofNat 64 (p - k.base))
    | none => engineReads k t (u.touched (engineTouch k s.core true a n))

/-- Bytes that a command writes. -/
def State.engineWrite (s : State) (k : Cmd) (a : Nat) (bs : List Byte) : State :=
  (s.mapCore fun c => c.writeScratch a bs).touched (engineTouch k s.core false a bs.length)

/-- The bytes of element i of w bits of a row at a. -/
def elemSpan (a w i : Nat) : Nat × Nat := if w < 8 then (a + i / 2, 1) else (a + i * (w / 8), w / 8)

/-- Element i of w bits of a row at a. -/
def Core.readElem (c : Core) (a w i : Nat) : Nat :=
  let p := elemSpan a w i
  bitsOf (leNat (c.readScratch p.1 p.2)) (if w < 8 then 4 * (i % 2) else 0) w

/-- Element i of w bits of a row at a written; the neighbour in its byte stands. -/
def State.writeElem (s : State) (k : Cmd) (a w i bits : Nat) : State :=
  let p := elemSpan a w i
  if w < 8 then s.engineWrite k p.1 [BitVec.ofNat 8 (setBits (s.core.scratch.read p.1).toNat (4 * (i % 2)) 4 bits)]
  else s.engineWrite k p.1 (leBytes p.2 bits)

/-- Elements of a row written, each its number and bits. -/
def State.writeElems (s : State) (k : Cmd) (a w : Nat) (l : List (Nat × Nat)) : State :=
  l.foldl (fun s e => s.writeElem k a w e.1 e.2) s

/-- The scratchpad offset of row i of a command's local record. -/
def Cmd.row (k : Cmd) (r : LRec) (i : Nat) : Nat := k.base + (r.row i 0).toNat

/-! ### VMEM performed -/

/-- The numbers of the active elements of w bits below n. -/
def actives (m : Word) (w n : Nat) : List Nat := (List.range n).filter fun i => activeAt m w i

/-- VLD's register r after its row at a: active elements below n are loaded, those from n up are zero (R177). -/
def vldRow (c : Core) (m : Word) (w n a : Nat) (d : VReg) : Regs :=
  putElems c.regs d w fun i => if activeAt m w i then some (if i < n then c.readElem a w i else 0) else none

/-- VLD performed (R177). -/
def performVld (k : Cmd) (s : State) : Perf :=
  match k.lrec with
  | none => .ok s {}
  | some r =>
    let w := tyBits k.x.ty.val
    let m := s.core.regs.rm k.x.mask
    let act := actives m w r.e0
    match engineReads k ((List.range r.e1).flatMap fun i => act.map fun j => elemSpan (k.row r i) w j) s with
    | .error (t, v) => .fault t .memerr v
    | .ok t =>
      .ok (t.mapCore fun c =>
        (List.range r.e1).foldl (fun c i =>
          { c with regs := vldRow c m w r.e0 (k.row r i) (Fin.ofNat 32 (k.x.d.val + i)) }) c) {}

/-- The elements of a register with their numbers, those in idx. -/
def Regs.pick (r : Regs) (d : VReg) (w : Nat) (idx : List Nat) : List (Nat × Nat) := idx.map fun i => (i, r.elem d w i)

/-- Element i of a register v of a type as a context counts it: an E2M1 escape has its value of the block in its half of the register
(06_numbers.md R101, R102, R116; the place of the block is DEDUCED, log entry 51). -/
def seenAt (ty : Nat) (v : VWord) (i bits : Nat) : Seen :=
  if ty = 13 ∧ bits % 16 = 8 ∧ i % 64 < 32 then
    { fmt := fmtOf ty, val := (e2Block (bitsOf v.toNat (256 * (i / 64)) 256)).1.getD (i % 64) .pzero }
  else seenOf ty bits

/-- What VST and VSTR count when X = 1 (R158): the elements of registers, each with its register, number and bits. A store counts and
raises nothing, an escape of E2M1 that no entry carries or a block count above 4 included (DESIGN CHOICE: 06_numbers.md R102 gives NV to a
command that reads such a block and does not say whether counting it is a reading; log entry 51). -/
def storeEffect (k : Cmd) (l : List (VWord × Nat × Nat)) : Effect :=
  { hist := k.x.hist, seen := if k.x.x then l.map fun e => seenAt k.x.ty.val e.1 e.2.1 e.2.2 else [] }

/-- VST performed (R177). -/
def performVst (k : Cmd) (s : State) : Perf :=
  match k.lrec with
  | none => .ok s {}
  | some r =>
    let w := tyBits k.x.ty.val
    let act := actives (s.core.regs.rm k.x.mask) w r.e0
    let row (i : Nat) : List (Nat × Nat) := s.core.regs.pick (Fin.ofNat 32 (k.x.d.val + i)) w act
    .ok ((List.range r.e1).foldl (fun s i => s.writeElems k (k.row r i) w (row i)) s)
      (storeEffect k ((List.range r.e1).flatMap fun i => (row i).map fun e => (s.core.regs.rv (Fin.ofNat 32 (k.x.d.val + i)), e)))

/-- The scratchpad offset of a command's first declared byte. -/
def Cmd.at_ (l : List Range) : Nat := match l with | r :: _ => r.lo | [] => 0

/-- VLDR performed (R176). -/
def performVldr (k : Cmd) (s : State) : Perf :=
  let w := tyBits k.x.ty.val
  let a := Cmd.at_ k.reads
  let m := s.core.regs.rm k.x.mask
  match engineReads k ((actives m w (512 / w)).map fun j => elemSpan a w j) s with
  | .error (t, v) => .fault t .memerr v
  | .ok t => .ok (t.mapCore fun c => { c with regs := vldRow c m w (512 / w) a k.x.d }) {}

/-- VSTR performed (R176). -/
def performVstr (k : Cmd) (s : State) : Perf :=
  let w := tyBits k.x.ty.val
  let l := s.core.regs.pick k.x.d w (actives (s.core.regs.rm k.x.mask) w (512 / w))
  .ok (s.writeElems k (Cmd.at_ k.writes) w l) (storeEffect k (l.map fun e => (s.core.regs.rv k.x.d, e)))

/-- VLDBC performed (R176). -/
def performVldbc (k : Cmd) (s : State) : Perf :=
  let w := tyBits k.x.ty.val
  let a := Cmd.at_ k.reads
  match engineReads k [elemSpan a w 0] s with
  | .error (t, v) => .fault t .memerr v
  | .ok t =>
    let b := t.core.readElem a w 0
    vElems k w (fun _ => (b, noFlags)) t

/-- VMEM performed. -/
def performVmem (k : Cmd) (s : State) : Perf :=
  match k.sub with
  | 0 => performVld k s
  | 1 => performVst k s
  | 2 => performVldr k s
  | 3 => performVstr k s
  | _ => performVldbc k s

/-! ### Issue -/

/-- VLD and VST in one member: the breaches of R177 raise ILLOP, then the record's faults come. -/
def tileIssue (sub : Nat) (wr : Bool) (x : XOp) (s : State) : R :=
  let r := s.core.regs.lrec x.l.val
  let ty := x.ty.val
  if r.ty ≠ ty ∨ r.plain = false ∨ lanesOf ty < r.e0 ∨ r.e1 < 1 ∨ 8 < r.e1 ∨ r.e2 ≠ 1 ∨ 32 < x.d.val + r.e1 then
    illopX 7 sub x s
  else
    match localRec s r ty 0 with
    | .error c => .trap s c r.base
    | .ok g =>
      let l := g.toList
      place { q := .v, cls := 7, sub := sub, x := x, lrec := some r, reads := if wr then [] else l, writes := if wr then l else [] } s

/-- VLDR, VSTR and VLDBC in one member: n bytes from ea, aligned to the element. -/
def rowIssue (sub : Nat) (wr : Bool) (n : Nat) (x : XOp) (s : State) : R :=
  let ea := XOp.ea x s.core.regs
  match localSpan s ea n (max 1 (tyBits x.ty.val / 8)) with
  | .error c => .trap s c ea
  | .ok g => place { q := .v, cls := 7, sub := sub, x := x, reads := if wr then [] else [g], writes := if wr then [g] else [] } s

/-- VLD (R177). -/
def execVld (x : XOp) (s : State) : Out := xissue 7 0 x true (lrecRegs x.l.val) (tileIssue 0 false x) s
/-- VST (R177). -/
def execVst (x : XOp) (s : State) : Out := xissue 7 1 x true (lrecRegs x.l.val) (tileIssue 1 true x) s
/-- VLDR (R176). -/
def execVldr (x : XOp) (s : State) : Out := xissue 7 2 x true [x.a] (rowIssue 2 false 64 x) s
/-- VSTR (R176). -/
def execVstr (x : XOp) (s : State) : Out := xissue 7 3 x true [x.a] (rowIssue 3 true 64 x) s
/-- VLDBC (R176). -/
def execVldbc (x : XOp) (s : State) : Out := xissue 7 4 x true [x.a] (rowIssue 4 false (max 1 (tyBits x.ty.val / 8)) x) s

end Sys2Proof.Machine
end

