-- ==== Sys2Proof/Machine/Matrix.lean ====
section
/-!
DEFINITION. The matrix macro (10_vector_matrix.md R178 to R191, R194): planes, passes, the special-value side path, read-out
and provenance (24_debug.md R378).
-/
namespace Sys2Proof.Machine

/-! ### Source rows and columns (R181, R183) -/

/-- The width of an A or B element. -/
def srcWidth (ty aw : Nat) : Nat := if ty = 15 then awBits aw else tyBits ty

/-- The bytes of a row or column of n elements: E2M1 data lies in blocks of 32 bytes (06_numbers.md R101). -/
def srcBytes (ty aw n : Nat) : Nat := if ty = 13 then n else rowBytes ty aw n

/-- A row or column as read: values with their marks, the exponents (E2M1: scales) of the blocks that are not empty, and the NV
of R102. -/
structure SrcRow where
  cells : List (Int × Spec)
  exps : List Int
  nv : Bool
deriving DecidableEq, Repr

/-- A row of blocks put in front of another. -/
def SrcRow.join (a b : SrcRow) : SrcRow := { cells := a.cells ++ b.cells, exps := a.exps ++ b.exps, nv := a.nv || b.nv }

/-- The mark of element i of an image with its masks; both bits read as NaN (R169). -/
def imageMark (nan inf sign i : Nat) : Spec :=
  if bitAt nan i then .nan else if bitAt inf i then (if bitAt sign i then .ninf else .pinf) else .none

/-- One aligned block image (R169). -/
def readImage (aw b : Nat) : SrcRow :=
  let top := if aw < 2 then 48 else 64
  let g (o n : Nat) : Nat := bitsOf b (8 * (top + o)) n
  let cells := (List.range 32).map fun i =>
    let m := imageMark (g 4 32) (g 8 32) (g 12 32) i
    ((if m = .none then sxt (awBox aw) (bitsOf b (awBox aw * i) (awBox aw)) else 0 : Int), m)
  { cells := cells, exps := if cells.any (fun c => c.1 != 0 || c.2 != .none) then [sxt 16 (g 0 16)] else [], nv := false }

/-- Twice a value on the grid of halves. -/
def twice (v : FVal) : Int :=
  match v with
  | .num s m e => signedAt s m (e + 1) 0
  | _ => 0

/-- One E2M1 block: cells are twice the values (R181). -/
def readE2 (b : Nat) : SrcRow :=
  let r := e2Block b
  { cells := r.1.map fun v => (twice v, .none), exps := if bitsOf b 0 128 = 0 then [] else [(bitsOf b 128 8 : Nat)], nv := r.2 }

/-- The blocks of a row from block i on. -/
def readBlocks (c : Core) (a size : Nat) (f : Nat → SrcRow) : Nat → Nat → SrcRow
  | _, 0 => { cells := [], exps := [], nv := false }
  | i, n + 1 => (f (leNat (c.readScratch (a + i * size) size))).join (readBlocks c a size f (i + 1) n)

/-- The row or column of n elements at a scratchpad offset. -/
def readSrc (c : Core) (ty aw n a : Nat) : SrcRow :=
  if ty = 15 then readBlocks c a (imageBytes aw) (readImage aw) 0 (n / 32)
  else if ty = 13 then readBlocks c a 32 readE2 0 (n / 32)
  else { cells := (List.range n).map fun i => (intValue ty (c.readElem a (tyBits ty) i), .none), exps := [], nv := false }

/-- The blocks disagree in their exponent or scale. -/
def SrcRow.differs (r : SrcRow) : Bool :=
  match r.exps with
  | [] => false
  | e :: t => t.any fun x => x != e

/-! ### Provenance (R191; 24_debug.md R378) -/

/-- An event of a command: its kind, row (or accumulator place) and lane. -/
structure MEvent where
  kind : Nat
  row : Nat
  lane : Nat
deriving DecidableEq, Repr

/-- The order of kinds: poison, NaN, NV with no NaN, SAT, an infinity. -/
def kindRank (k : Nat) : Nat :=
  match k with
  | 6 => 0
  | 1 => 1
  | 5 => 2
  | 4 => 3
  | _ => 4

/-- One event comes before another. -/
def MEvent.before (a b : MEvent) : Bool :=
  decide (kindRank a.kind < kindRank b.kind)
    || (kindRank a.kind == kindRank b.kind && (decide (a.row < b.row) || (a.row == b.row && decide (a.lane < b.lane))))

/-- The first event in the order of R191. -/
def firstEvent : List MEvent → Option MEvent
  | [] => none
  | e :: t =>
    match firstEvent t with
    | none => some e
    | some f => some (if f.before e then f else e)

/-- The record of an event: A type, plane type, plane and the accumulator of a row. -/
def provOf (k : Cmd) (at_ bt plane : Nat) (acc : Nat → Nat) (l : List MEvent) : Option Word :=
  (firstEvent l).map fun e =>
    BitVec.ofNat 64 (k.mser % 2 ^ 16 * 2 ^ 48 + k.x.ty.val * 2 ^ 38 + bt * 2 ^ 34 + at_ * 2 ^ 30 + plane * 2 ^ 29
      + k.sub * 2 ^ 26 + acc e.row % 4 * 2 ^ 24 + e.lane * 2 ^ 17 + e.kind)

/-- The event of a special class. -/
def specKind (s : Spec) : Option Nat :=
  match s with
  | .none => none
  | .nan => some 1
  | .pinf => some 2
  | .ninf => some 3

/-! ### MLDB (R181) -/

/-- The plane an instruction names. -/
def planeOf (x : XOp) : Fin 2 := Fin.ofNat 2 (x.w2f 0 1)

/-- A column of a plane; free is the scale of an E2M1 column whose blocks disagree, which the spec does not state. -/
def colOf (ty : Nat) (free : Byte) (r : SrcRow) : PCol :=
  if r.differs then { cells := [], eb := 0, sc := if ty = 13 then free else 0x7F }
  else
    { cells := r.cells.map fun c => { v := BitVec.ofInt 16 c.1, mark := c.2 }
      eb := if ty = 13 then (if r.exps = [] then 0 else BitVec.ofInt 16 (-1)) else BitVec.ofInt 16 (r.exps.headD 0)
      sc := if ty = 13 then (match r.exps with | [] => 0x7F | e :: _ => BitVec.ofInt 8 e) else 0x7F }

/-- MLDB performed (R181). -/
def performMldb (k : Cmd) (s : State) : Perf :=
  match k.lrec with
  | none => .ok s {}
  | some r =>
    let ty := k.x.ty.val
    let aw := k.x.aw.val
    match engineReads k ((List.range r.e1).map fun i => (k.row r i, srcBytes ty aw r.e0)) s with
    | .error (t, v) => .fault t .memerr v
    | .ok t =>
      let rows := (List.range r.e1).map fun i => readSrc t.core ty aw r.e0 (k.row r i)
      let cols := (List.range r.e1).zip rows |>.map fun p => colOf ty (Config.freeByte (s.fresh + p.1)) p.2
      let bad := ((List.range r.e1).zip rows).filter fun p => p.2.nv || p.2.differs
      let p := planeOf k.x
      .ok
        { (t.mapCore fun c =>
            { c with mac := { c.mac with planes := c.mac.planes.set p { c.mac.planes[p] with cols := cols, ty := ty, aw := aw } } })
          with fresh := s.fresh + 128 }
        { flags := { nv := bad != [] }
          prov := provOf k 0 ty p.val (fun _ => 0) (bad.map fun q => { kind := 5, row := 0, lane := q.1 }) }

/-! ### Passes (R183 to R185, R188) -/

/-- The class of a product and the NV it raises (R185). -/
def prodClass (a : Int) (am : Spec) (b : Int) (bm : Spec) : Spec × Bool :=
  let sgn (v : Int) (m : Spec) : Bool := m == .ninf || (m == .none && decide (v < 0))
  if am = .nan ∨ bm = .nan then (.nan, false)
  else if am = .none ∧ bm = .none then (.none, false)
  else if (am = .none ∧ a = 0) ∨ (bm = .none ∧ b = 0) then (.nan, true)
  else (if sgn a am != sgn b bm then .ninf else .pinf, false)

/-- Merge of R185 and the NV it raises. -/
def mergeSpec (x y : Spec) : Spec × Bool :=
  match x, y with
  | .nan, _ => (.nan, false)
  | _, .nan => (.nan, false)
  | .none, z => (z, false)
  | z, .none => (z, false)
  | a, b => if a = b then (a, false) else (.nan, true)

/-- A lane's sum, class and NV so far. -/
structure LaneSum where
  sum : Int
  spec : Spec
  nv : Bool
deriving DecidableEq, Repr

/-- One more product. -/
def LaneSum.add (l : LaneSum) (a : Int × Spec) (b : Int × Spec) : LaneSum :=
  let p := prodClass a.1 a.2 b.1 b.2
  let m := mergeSpec l.spec p.1
  { sum := l.sum + a.1 * b.1, spec := m.1, nv := l.nv || p.2 || m.2 }

/-- A cell's value and mark. -/
def PCell.val (c : PCell) : Int × Spec := (c.v.toInt, c.mark)

/-- The sum over k of one lane; a row or column that has ended gives zeros. -/
def dotLane : List (Int × Spec) → List PCell → LaneSum → LaneSum
  | [], cs, l => cs.foldl (fun l c => l.add (0, .none) c.val) l
  | a :: t, [], l => dotLane t [] (l.add a (0, .none))
  | a :: t, c :: cs, l => dotLane t cs (l.add a c.val)

/-- What a pass computes for one lane. -/
structure LanePart where
  sum : LaneSum
  eb : BitVec 16
  sc : BitVec 8
deriving DecidableEq, Repr

/-- What a pass computes for one row. -/
structure RowPart where
  ea : BitVec 16
  dis : Bool
  lanes : List LanePart
deriving DecidableEq, Repr

/-- A plane's column n. -/
def Plane.col (p : Plane) (n : Nat) : PCol := p.cols.getD n { cells := [], eb := 0, sc := 0x7F }

/-- One A row against a plane; free is the EA of a row whose blocks disagree, which the spec does not state. -/
def rowPart (p : Plane) (free : Word) (r : SrcRow) : RowPart :=
  { ea := if r.differs then free.setWidth 16 else BitVec.ofInt 16 (r.exps.headD 0), dis := r.differs
    lanes := (List.range 128).map fun n =>
      let c := p.col n
      { sum := dotLane r.cells c.cells { sum := 0, spec := .none, nv := false }, eb := c.eb, sc := c.sc } }

/-- The rows of a member's pass. -/
def passRows (k : Cmd) (fresh : Nat) (c : Core) : List RowPart :=
  match k.lrec with
  | none => []
  | some r =>
    (List.range r.e1).map fun i =>
      rowPart c.mac.planes[planeOf k.x] (Config.freeWord (fresh + i))
        (if r.empty then { cells := [], exps := [], nv := false } else readSrc c k.x.ty.val k.x.aw.val r.e0 (k.row r i))

/-- The bytes that a pass reads. -/
def passSpans (k : Cmd) : List (Nat × Nat) :=
  match k.lrec with
  | none => []
  | some r => if r.empty then [] else (List.range r.e1).map fun i => (k.row r i, srcBytes k.x.ty.val k.x.aw.val r.e0)

/-- A lane's sums added, and its classes merged, with another member's (R184). -/
def LanePart.with_ (a b : LanePart) : LanePart :=
  let m := mergeSpec a.sum.spec b.sum.spec
  let same := a.eb == b.eb && a.sc == b.sc
  { a with sum := { sum := a.sum.sum + b.sum.sum, spec := if same then m.1 else .nan, nv := a.sum.nv || b.sum.nv || m.2 || !same } }

/-- A row joined with another member's. -/
def RowPart.with_ (a b : RowPart) : RowPart :=
  { a with dis := a.dis || b.dis || a.ea != b.ea, lanes := List.zipWith LanePart.with_ a.lanes b.lanes }

/-- Row i of the joint result of members' rows, in member order: over the members whose record has a row i (DESIGN CHOICE, log
entry 52). -/
def joinRows (l : List (List RowPart)) (i : Nat) : Option RowPart :=
  match l.filterMap fun r => r[i]? with
  | [] => none
  | a :: t => some (t.foldl RowPart.with_ a)

/-- A member's row with the joint sums; its own exponents and scales are captured. -/
def RowPart.own (mine joint : RowPart) : RowPart :=
  { ea := mine.ea, dis := joint.dis
    lanes := List.zipWith (fun (m j : LanePart) => { m with sum := j.sum }) mine.lanes joint.lanes }

/-- A lane after a pass: the lane, NV, SAT. acc is true when the pass accumulates. -/
def passLane (acc sat mmul bad : Bool) (old : AccLane) (p : LanePart) : AccLane × Bool × Bool :=
  let spec := if bad then .nan else p.sum.spec
  if acc then
    let t := old.v.toInt + p.sum.sum
    let past := sat && (decide (2 ^ 47 - 1 < t) || decide (t < -(2 ^ 47)))
    let t := if past then (if 0 < t then 2 ^ 47 - 1 else -(2 ^ 47)) else t
    let m := mergeSpec old.mark spec
    let differ := old.ebl != p.eb || old.scl != p.sc
    ({ old with v := BitVec.ofInt 48 t, ebl := p.eb, scl := p.sc, mark := if differ then .nan else m.1 },
      p.sum.nv || m.2 || differ, past)
  else
    ({ v := BitVec.ofInt 48 p.sum.sum, ebl := p.eb, scl := p.sc, mark := spec, poison := if mmul then false else old.poison },
      p.sum.nv, false)

/-- A row into an accumulator, with the flags and events; row is its number in the command. A lane's mark after the pass is an event, one that an
earlier pass left included (DEDUCED, log entry 51). -/
def passAcc (mmac sat : Bool) (row : Nat) (a : Acc) (p : RowPart) : Acc × Flags × List MEvent :=
  let acc := mmac && a.full
  let eaBad := acc && a.ea != p.ea
  let lanes := (List.range 128).map fun n =>
    passLane acc sat (!mmac) (p.dis || eaBad) (a.lanes[Fin.ofNat 128 n]) (p.lanes.getD n { sum := { sum := 0, spec := .none, nv := false }, eb := 0, sc := 0 })
  ({ ea := p.ea, full := true, lanes := Vector.ofFn fun n => (lanes.getD n.val ({}, false, false)).1 },
    { nv := p.dis || eaBad || lanes.any fun l => l.2.1, sat := lanes.any fun l => l.2.2 },
    ((List.range 128).zip lanes).flatMap fun l =>
      (match specKind l.2.1.mark with | some q => [{ kind := q, row := row, lane := l.1 }] | none => [])
        ++ (if l.2.2.2 then [{ kind := 4, row := row, lane := l.1 }] else []))

/-- The accumulator of row i of a pass. -/
def passTarget (k : Cmd) (i : Nat) : Fin 4 := Fin.ofNat 4 (k.x.d.val + i)

/-- The rows of a pass into the accumulators, from row i on. -/
def passInto (k : Cmd) : Nat → List RowPart → Core → Core × Flags × List MEvent
  | _, [], c => (c, noFlags, [])
  | i, p :: t, c =>
    let q := passTarget k i
    let a := passAcc (k.sub == 2) k.x.sat i c.regs.acc[q] p
    let r := passInto k (i + 1) t { c with regs := { c.regs with acc := c.regs.acc.set q a.1 } }
    (r.1, a.2.1.or r.2.1, a.2.2 ++ r.2.2)

/-- Lanes of an accumulator poisoned. -/
def Acc.poisoned (a : Acc) (l : List Nat) : Acc :=
  { a with lanes := Vector.ofFn fun n => if l.contains n.val then { a.lanes[n] with poison := true } else a.lanes[n] }

/-- The residue check at the end of a pass: lanes that mismatch again on the replay are set POISON, and MACC is reported with
the lowest one of the first row that has any (R188). now is the cycle. -/
def residues (k : Cmd) (now : Nat) : Nat → Nat → Core → Core
  | _, 0, c => c
  | i, n + 1, c =>
    let q := passTarget k i
    let l := (c.mac.resFail.filter fun f => f.1 == q.val).map Prod.snd
    if l = [] then residues k now (i + 1) n c
    else
      let lo := l.foldl min 127
      let c := { c with
        regs := { c.regs with acc := c.regs.acc.set q (c.regs.acc[q].poisoned l) }
        mac := { c.mac with resFail := c.mac.resFail.filter fun f => f.1 != q.val }
        deferred := c.deferred ++ [{ cause := .macc, tval := BitVec.ofNat 64 (q.val + 4 * lo), q := some .m, at_ := now, mgmt := k.mgmt }] }
      residues k now (i + 1) n c

/-- A member's accumulators after its rows, with what the command commits. -/
def passEnd (k : Cmd) (now : Nat) (rows : List RowPart) (c : Core) : Core × Effect :=
  let p := planeOf k.x
  let r := passInto k 0 rows c
  (residues k now 0 rows.length r.1,
    { flags := r.2.1, prov := provOf k k.x.ty.val c.mac.planes[p].ty p.val (fun i => k.x.d.val + i) r.2.2 })

/-- A member's rows with the joint sums of all members' rows. -/
def jointRows (all : List (List RowPart)) (mine : List RowPart) : List RowPart :=
  (List.range mine.length).filterMap fun i =>
    match mine[i]?, joinRows all i with
    | some m, some a => some (m.own a)
    | _, _ => none

/-- The part of member i, which is not the core, in a joint pass: its reads, its accumulators, its queue and its commit. -/
def passMember (k : Cmd) (fresh : Nat) (all : List (List RowPart)) (s : State) (i : Nat) : State :=
  let t := focus i s
  match t.core.jointCmd k with
  | none => s
  | some j =>
    let mine := passRows j fresh t.core
    let t := match engineReads j (passSpans j) t with | .ok u => u | .error e => e.1
    focus i (t.mapCore fun c =>
      let r := passEnd j s.grove.cycle (jointRows all mine) c
      ({ r.1 with cmds := c.cmds.filter fun h => h.serial != j.serial } : Core).merge r.2)

/-- A member of a joint pass cannot read its row. -/
def passLost (k : Cmd) (c : Core) : Bool :=
  match c.jointCmd k with
  | none => false
  | some j => (passSpans j).any fun p => (c.health.firstLost p.1 p.2).isSome

/-- MMUL and MMAC performed (R183, R184). -/
def performPass (k : Cmd) (s : State) : Perf :=
  let joint := k.x.w2f 8 1 == 1 && decide (1 < k.g)
  match engineReads k (passSpans k) s with
  | .error (t, v) => .fault t .memerr v
  | .ok t =>
    let mine := passRows k s.fresh t.core
    if joint then
      let cs := jointCores k s
      if cs.all (Core.jointReady k) && !s.peers.any (fun c => k.inGang s.core c && passLost k c) then
        let all := cs.filterMap fun c => (c.jointCmd k).map fun j => passRows j s.fresh c
        let r := passEnd k s.grove.cycle (jointRows all mine) t.core
        .ok ((List.range t.peers.length).foldl (fun u i => if (s.peers[i]?).any (k.inGang s.core) then passMember k t.fresh all u (i + 1) else u)
          { t with core := r.1, fresh := t.fresh + 4 }) r.2
      else .notYet
    else
      let r := passEnd k s.grove.cycle mine t.core
      .ok { t with core := r.1, fresh := t.fresh + 4 } r.2

/-! ### Read-out (R189, R190) -/

/-- What a read-out gives for one lane: bits, flags, the value counted, and its event kinds with their row. -/
structure LaneOut where
  bits : Nat
  flags : Flags
  evs : List (Nat × Nat)
deriving DecidableEq, Repr

/-- One lane of MRD (R189). -/
def mrdLane (ty : Nat) (sat : Bool) (mode : RMode) (u : Nat) (sh : Int) (l : AccLane) : LaneOut :=
  let w := tyBits ty
  let sk (q : Nat) : List (Nat × Nat) := [(q, 0)]
  if ty = 8 then
    if l.poison then { bits := 0x7FA00001, flags := flagNV, evs := sk 6 }
    else
      match l.mark with
      | .nan => { bits := 0x7FC00000, flags := noFlags, evs := sk 1 }
      | .pinf => { bits := 0x7F800000, flags := noFlags, evs := sk 2 }
      | .ninf => { bits := 0xFF800000, flags := noFlags, evs := sk 3 }
      | .none =>
        let r := roundF .fp32 mode u ((FVal.ofInt l.v.toInt).scale sh)
        { bits := FFmt.fp32.pack r.1, flags := r.2, evs := [] }
  else
    if l.poison then { bits := 2 ^ (w - 1), flags := flagNV, evs := sk 6 }
    else
      match l.mark with
      | .nan => { bits := 0, flags := flagNV, evs := sk 1 }
      | .pinf => if sat then { bits := 2 ^ (w - 1) - 1, flags := flagSAT, evs := sk 4 } else { bits := 0, flags := flagNV, evs := sk 5 }
      | .ninf => if sat then { bits := 2 ^ (w - 1), flags := flagSAT, evs := sk 4 } else { bits := 0, flags := flagNV, evs := sk 5 }
      | .none =>
        let m := roundInt mode u (decide (l.v.toInt < 0)) l.v.toInt.natAbs sh
        let r := intToInt true w sat m.1
        { bits := r.1, flags := { r.2 with nx := m.2 }, evs := if r.2.sat then sk 4 else [] }

/-- A read-out's lanes as an effect. -/
def readOutEffect (k : Cmd) (acc : Nat → Nat) (l : List LaneOut) : Effect :=
  { flags := flagsOf (l.map fun o => o.flags), hist := k.x.hist
    seen := if k.x.x then l.map fun o => seenOf k.x.ty.val o.bits else []
    prov := provOf k 0 0 0 acc (((List.range l.length).zip l).flatMap fun o => o.2.evs.map fun e => { kind := e.1, row := e.2, lane := o.1 }) }

/-- MRD performed (R189). -/
def performMrd (k : Cmd) (s : State) : Perf :=
  match k.lrec with
  | none => .ok s {}
  | some r =>
    let ty := k.x.ty.val
    let acc := s.core.regs.acc[Fin.ofNat 4 k.x.a.val]
    let l := (List.range r.e0).map fun n =>
      mrdLane ty k.x.sat k.rc.mode (k.rc.draw n) (sxt 8 (k.x.w2f 0 8)) acc.lanes[Fin.ofNat 128 n]
    .ok (s.writeElems k (k.row r 0) (tyBits ty) ((List.range r.e0).zip (l.map fun o => o.bits)))
      (readOutEffect k (fun _ => k.x.a.val) l)

/-- The term of an accumulator's lane in VSCALC. -/
def scalcTerm (scaled : Bool) (a : Acc) (l : AccLane) : FVal :=
  if l.mark = .nan ∨ (scaled = true ∧ l.scl = 0xFF) then .nan
  else
    match l.mark with
    | .pinf => .inf false
    | .ninf => .inf true
    | _ => (FVal.ofInt l.v.toInt).scale (a.ea.toInt + l.ebl.toInt + (if scaled then (l.scl.toNat : Int) - 127 else 0))

/-- A value is finite. -/
def FVal.finite (v : FVal) : Bool := !v.isNan && !v.isInf

/-- The accumulators of VSCALC applied to one element, in order; dst is the element as it stood. -/
def scalcSteps (k : Cmd) (dst : FVal) (n : Nat) : List (Nat × Acc) → FVal → Flags → List (Nat × Nat) → LaneOut
  | [], y, f, e => { bits := FFmt.fp32.pack y, flags := f, evs := e }
  | (q, a) :: t, y, f, e =>
    let l := a.lanes[Fin.ofNat 128 n]
    let j := k.x.w2f 0 2 + 1
    if l.poison then { bits := 0x7FA00001, flags := f.or flagNV, evs := e ++ [(6, q)] }
    else
      let v := scalcTerm (k.x.w2f 2 1 == 1) a l
      let r := fadd .fp32 k.rc.mode (k.rc.draw (n * j + q)) y v
      let clip := k.x.sat && r.1.isInf && v.finite && dst.finite
      let y' := if clip then FFmt.fp32.maxFin r.1.neg else r.1
      let f' := if clip then { r.2 with ov := false, sat := true } else r.2
      let ev : List (Nat × Nat) :=
        (if v.isNan || r.2.nv then [(1, q)] else []) ++ (if clip then [(4, q)] else [])
          ++ (match v with | .inf s => [(if s then 3 else 2, q)] | _ => [])
      scalcSteps k dst n t y' (f.or f') (e ++ ev)

/-- VSCALC performed (R190). -/
def performVscalc (k : Cmd) (s : State) : Perf :=
  match k.lrec with
  | none => .ok s {}
  | some r =>
    let a := k.row r 0
    let n := if r.empty then 0 else r.e0
    match engineReads k (if n = 0 then [] else [(a, 4 * n)]) s with
    | .error (t, v) => .fault t .memerr v
    | .ok t =>
      let accs := (List.range (k.x.w2f 0 2 + 1)).map fun q => (q, t.core.regs.acc[Fin.ofNat 4 (k.x.a.val + q)])
      let l := (List.range n).map fun n =>
        let d := FFmt.fp32.unpack (t.core.readElem a 32 n)
        scalcSteps k d n accs d noFlags []
      .ok (t.writeElems k a 32 ((List.range n).zip (l.map fun o => o.bits))) (readOutEffect k (fun q => k.x.a.val + q) l)

/-- MCLR performed (R191). -/
def performMclr (k : Cmd) (s : State) : Perf :=
  .ok (s.mapRegs fun r => { r with acc := Vector.ofFn fun i => if k.x.w2f i.val 1 = 1 then {} else r.acc[i] }) {}

/-- MATRIX performed; MSHR and MREL did their part at issue. -/
def performMatrix (k : Cmd) (s : State) : Perf :=
  match k.sub with
  | 0 => performMldb k s
  | 1 | 2 => performPass k s
  | 3 => performMrd k s
  | 4 => performMclr k s
  | 5 | 6 => .ok s {}
  | _ => performVscalc k s

/-! ### Issue (R179, R180) -/

/-- The activation may not use the macro's planes: its owner is another actor, and it is not shared. -/
def macroHeld (c : Core) : Option Word :=
  match c.mac.owner with
  | some o => if o = c.regs.aid ∨ c.mac.shared then none else some (o.setWidth 64)
  | none => none

/-- The activation may not change the ownership: there is an owner, and it is another. -/
def macroOwned (c : Core) : Option Word :=
  match c.mac.owner with
  | some o => if o = c.regs.aid then none else some (o.setWidth 64)
  | none => none

/-- The extents a MATRIX subop's record keeps, its type and its flags. -/
def matrixRecOk (x : XOp) (r : LRec) (lo hi : Nat) : Bool :=
  r.ty == x.ty.val && r.plain && decide (r.e0 ≤ 128) && decide (lo ≤ r.e1) && decide (r.e1 ≤ hi) && r.e2 == 1
    && ((x.ty != 15 && x.ty != 13) || r.e0 % 32 == 0)

/-- VSCALC's record: R190 says e1 = e2 = 1 and names no trap, so an extent of 0 issues and does nothing (04_formats.md R78, log entry 45). -/
def scalcRecOk (x : XOp) (r : LRec) : Bool := matrixRecOk x { r with e1 := max 1 r.e1, e2 := max 1 r.e2 } 1 1

/-- The local range of a MATRIX record, with the bytes of its rows. -/
def matrixRange (s : State) (x : XOp) (r : LRec) : Except Cause (Option Range) :=
  if x.ty = 13 then (localRec s { r with ty := 1 } 1 0) else localRec s r x.ty.val x.aw.val

/-- Bytes of a declared range. -/
def rangeLen (g : Option Range) : Nat := match g with | some r => r.hi - r.lo | none => 0

/-- A MATRIX instruction that reads a record, in one member: ILLOP, then MOWN, then the record's faults (log entry 18). -/
def matrixRec (sub : Nat) (x : XOp) (ok : LRec → Bool) (held : Core → Option Word) (f : LRec → Option Range → Req) (after : Core → Core)
    (s : State) : R :=
  let r := s.core.regs.lrec x.l.val
  if ok r = false then illopX 8 sub x s
  else
    match held s.core with
    | some o => .trap s .mown o
    | none =>
      match matrixRange s x r with
      | .error c => .trap s c r.base
      | .ok g => (match place (f r g) s with | .done t => .done (t.mapCore after) | a => a)

/-- Ownership and format that an MLDB leaves at its issue (R179, R183). -/
def ownPlane (x : XOp) (c : Core) : Core :=
  let p := planeOf x
  let pl := c.mac.planes[p]
  { c with
    mac := { c.mac with
      planes := c.mac.planes.set p { pl with issuedTy := x.ty.val, issuedAw := x.aw.val }
      owner := if c.mac.owner = none ∧ c.regs.aid ≠ 0 then some c.regs.aid else c.mac.owner
      shared := if c.mac.owner = none ∧ c.regs.aid ≠ 0 then false else c.mac.shared } }

/-- MLDB (R181, R182). -/
def execMldb (x : XOp) (s : State) : Out :=
  xissue 8 0 x true (lrecRegs x.l.val)
    (matrixRec 0 x (fun r => matrixRecOk x r 0 128) macroHeld
      (fun r g =>
        { q := .m, cls := 8, sub := 0, x := x, lrec := some r, reads := g.toList
          grant := .toAsk (8 + max (ceilDiv (rangeLen g) 512) r.e0) })
      (ownPlane x)) s

/-- h of R186, from the format of the MLDB issued last. -/
def Plane.rowH (p : Plane) : Nat := if p.issuedTy = 2 ∨ (p.issuedTy = 15 ∧ 2 ≤ p.issuedAw) then 2 else 1

/-- The energy of a pass of m rows (R186). -/
def passEnergy (p : Plane) (x : XOp) (m : Nat) : Nat :=
  if p.issuedTy = 14 then m * 8 else m * srcWidth x.ty.val x.aw.val * p.rowH

/-- An A row too wide for a TS8 plane (R183). -/
def tooWide (p : Plane) (x : XOp) : Bool := p.issuedTy == 14 && decide (8 < srcWidth x.ty.val x.aw.val)

/-- MMUL and MMAC. -/
def passIssue (sub : Nat) (x : XOp) (s : State) : Out :=
  xissue 8 sub x true (lrecRegs x.l.val)
    (fun s =>
      let p := s.core.mac.planes[planeOf x]
      matrixRec sub x (fun r => matrixRecOk x r 1 4 && !tooWide p x) macroHeld
        (fun r g =>
          { q := .m, cls := 8, sub := sub, x := x, lrec := some r, reads := g.toList, grant := .toAsk (passEnergy p x r.e1) }) id s) s

/-- MMUL (R183). -/
def execMmul (x : XOp) (s : State) : Out := passIssue 1 x s
/-- MMAC (R183). -/
def execMmac (x : XOp) (s : State) : Out := passIssue 2 x s

/-- MRD (R189): N = e0 lanes. -/
def execMrd (x : XOp) (s : State) : Out :=
  xissue 8 3 x true (lrecRegs x.l.val)
    (matrixRec 3 x (fun r => matrixRecOk x r 1 1) (fun _ => none)
      (fun r g => { q := .m, cls := 8, sub := 3, x := x, lrec := some r, writes := g.toList, lanes := r.e0 }) id) s

/-- VSCALC (R190): j lanes per element. -/
def execVscalc (x : XOp) (s : State) : Out :=
  xissue 8 7 x true (lrecRegs x.l.val)
    (matrixRec 7 x (scalcRecOk x) (fun _ => none)
      (fun r g => { q := .m, cls := 8, sub := 7, x := x, lrec := some r, reads := g.toList, writes := g.toList, lanes := r.e0 * (x.w2f 0 2 + 1) })
      id) s

/-- MCLR (R191). -/
def execMclr (x : XOp) (s : State) : Out := xissue 8 4 x true [] (place { q := .m, cls := 8, sub := 4, x := x }) s

/-- MSHR and MREL: the ownership changes at issue, where it is checked (log entry 18). -/
def ownIssue (sub : Nat) (x : XOp) (f : Macro → Macro) (s : State) : Out :=
  xissue 8 sub x true []
    (fun s =>
      match macroOwned s.core with
      | some o => .trap s .mown o
      | none =>
        match place { q := .m, cls := 8, sub := sub, x := x } s with
        | .done t => .done (t.mapCore fun c => if c.mac.owner = none then c else { c with mac := f c.mac })
        | a => a) s

/-- MSHR (R191). -/
def execMshr (x : XOp) (s : State) : Out := ownIssue 5 x (fun m => { m with shared := x.w2f 0 1 == 1 }) s
/-- MREL (R191). -/
def execMrel (x : XOp) (s : State) : Out := ownIssue 6 x (fun m => { m with owner := none, shared := false }) s

end Sys2Proof.Machine
end

