-- ==== Sys2Proof/Machine/Gang.lean ====
section
/-!
DEFINITION. GANG, SPLIT and the gang's barrier (10_vector_matrix.md R192 to R194; 02_execution.md R39 to R41).
-/
namespace Sys2Proof.Machine

/-- GANG in one member (R192): it arrives with its tag and its split target, and waits. -/
def gangArrive (x : XOp) (s : State) : R :=
  let c := s.core
  if c.ganged then illopX 9 0 x s
  else
    match c.act with
    | none => .done s
    | some a =>
      if a.g ≤ 1 then .done s
      else
        .wait (s.mapCore fun c =>
          { c with act := some { a with split := wordTarget c.regs.pc (sxt 32 x.w2.toNat), arrived := some ((c.regs.rs x.a).setWidth 16) } })

/-- GANG (R192). -/
def execGang (x : XOp) (s : State) : Out := xissue 9 0 x true [x.a] (gangArrive x) s

/-- SPLIT (R193): when it has issued in a gang, the gang dissolves, the followers at their split targets. -/
def execSplit (x : XOp) (s : State) : Out :=
  match xissue 9 1 x true [] (fun s => .done s) s with
  | .next t => .next (if s.core.ganged ∧ xok 9 1 x ∧ t.core.ganged then dissolve t else t)
  | o => o

/-- The tag a core waits at GANG with. -/
def Core.gangTag (c : Core) : Option (BitVec 16) := if c.ganged then none else c.act.bind fun a => a.arrived

/-- The gang size of the core's activation. -/
def Core.gangOf (c : Core) : Nat := match c.act with | some a => a.g | none => 1

/-- The gang that a core waits for at GANG: the launch's slot, and the group of the last field that its item lies in
(02_execution.md R39). -/
def Core.gangKey (c : Core) : Option (BitVec 12 × Nat) :=
  if c.gangTag.isSome then c.act.map fun a => (a.slot, c.regs.wid.toNat / a.g) else none

/-- The members' cores of the gang that the core will lead. -/
def State.gangCores (s : State) : List Core := s.core :: s.peers.take (s.core.gangOf - 1)

/-- The core that stands n places on waits as item n of the core's gang. -/
def Core.nthItem (c : Core) (n : Nat) (d : Core) : Bool :=
  d.gangTag.isSome && d.gangKey == c.gangKey && d.ix.val == c.ix.val + n && d.regs.wid.toNat % c.gangOf == n

/-- The core is the first of a gang whose members all wait at GANG, each on its own core (02_execution.md R39); their tags. -/
def State.gangTags (s : State) : Option (List (BitVec 16)) :=
  let l := s.gangCores
  if 1 < s.core.gangOf ∧ l.length = s.core.gangOf ∧ (((List.range l.length).zip l).all fun p => s.core.nthItem p.1 p.2) then
    some (l.filterMap Core.gangTag)
  else none

/-- A core that joins as member number ix. -/
def Core.joinGang (c : Core) (ix : Nat) : Core :=
  { c with ganged := true, gseq := 0, hold := false, act := c.act.map fun a => { a with arrived := none }, regs := { c.regs with gangix := ix } }

/-- The members of a gang that wait at GANG trap there, each in its own containment (R192). -/
def trapWaiting (c : Cause) (key : Option (BitVec 12 × Nat)) (s : State) : State :=
  (List.range (s.peers.length + 1)).foldl
    (fun s k =>
      let t := focus k s
      match t.core.gangTag with
      | some g => if t.core.gangKey = key then focus k (t.trapNow c (g.setWidth 64)) else s
      | none => s) s

/-- GANG_JOIN (R40, R192): equal tags join the members, the leader at PC + 12; other tags raise GANGERR in every member. -/
def execGangJoin (tags : List (BitVec 16)) (s : State) : Out :=
  match s.gangTags with
  | none => .refused .notDue
  | some l =>
    if l ≠ tags then .refused .notDue
    else if l.all fun g => some g == l.head? then
      let lead := (s.core.issued s.grove.cycle).joinGang 0
      let lead := { lead with regs := lead.regs.advance 12 }
      let n := s.core.gangOf - 1
      let t : State := { s with core := lead, peers := (List.range s.peers.length).zip s.peers |>.map fun p =>
        if p.1 < n then (p.2.issued s.grove.cycle).joinGang (p.1 + 1) else p.2 }
      .next t.follow
    else .next (trapWaiting .gangerr s.core.gangKey s)

/-- The core waits at GANG for a member that has not arrived, and its BARTMO sets it a limit. -/
def State.gangLacks (s : State) (c : Core) : Bool :=
  c.gangTag.isSome && c.regs.bartmo != 0 && decide ((s.cores.filter fun d => d.gangKey == c.gangKey).length < c.gangOf)

/-- GANG_TIMEOUT (R192): BARTO in every waiting member of the first gang that a member waits in vain for; a BARTMO of 0 never
times out. -/
def execGangTimeout (s : State) : Out :=
  match s.cores.find? s.gangLacks with
  | none => .refused .notDue
  | some c => .next (trapWaiting .barto c.gangKey s)

end Sys2Proof.Machine
end

