-- ==== Sys2Proof/Machine/Atomic.lean ====
section
/-!
DEFINITION. The ATOMIC class (12_memory.md R215 to R217).
-/
namespace Sys2Proof.Machine

/-- The code of a mode (06_numbers.md R107). -/
def rmodeCode (m : RMode) : Fin 8 :=
  match m with
  | .rne => 0
  | .rtz => 1
  | .rdn => 2
  | .rup => 3
  | .rna => 4
  | .sr => 5

/-- An atomic's arguments: b and c as read at issue, the resolved mode and the draw of lane 0. -/
def atomicArgs (sub : Nat) (x : XOp) (r : Regs) : AtomicArgs :=
  let rc := r.capture x.rm.val
  { op := Fin.ofNat 11 sub, ty := x.ty, rm := if sub = 10 then rmodeCode rc.mode else 0
    u := if sub = 10 then BitVec.ofNat 16 (rc.draw 0) else 0, b := r.rs x.b, c := r.rs x.c }

/-- A returning atomic's end: d receives the old value and FPCTL the flags. -/
def atomicDone (x : XOp) (d : Done) : R :=
  .done ((d.s.mapRegs fun r => r.accrue d.flags).ws x.d (atomicOld x.ty.val d.old))

/-- A local atomic, performed at issue (R216); ret writes d. -/
def atomicLocal (sub : Nat) (x : XOp) (ret : Bool) (ea : Word) (off : Nat) (s : State) : R :=
  let n := sizeOfTy x.ty.val
  match s.localAt off n with
  | none => .trap s .lrange ea
  | some p =>
    if s.core.blocked p n true then .hold
    else if s.core.health.lostIn p n then .trap (s.touchStore 0 p n) .memerr ea
    else
      let a := atomicArgs sub x s.core.regs
      let m := leNat (s.core.readScratch p n)
      let v := atomicOp a m
      let t := ((s.touchStore 0 p n).mapCore fun c => { c.writeScratch p (leBytes n v.1) with regs := c.regs.atomicCtr a }).touched
        (ownTouch s.core 2 p n)
      if ret then atomicDone x { s := t, flags := v.2, old := m } else .done (t.mapRegs fun r => r.accrue v.2)

/-- A returning atomic beyond the local view: it holds issue until its value returns (R216). SRCTR advances with the value: an AFADD that
traps precisely, by what is found at once or by a refusal that returns later, leaves it as it was (DEDUCED from 22_scheduling_faults.md
R347 against "at issue" of R217, log entry 59; nothing sees SRCTR while the hold lasts). -/
def atomicRemote (sub : Nat) (x : XOp) (ea : Word) (pl : Place) (pa len : Nat) (s : State) : R :=
  let n := sizeOfTy x.ty.val
  let a := atomicArgs sub x s.core.regs
  let addr := normal pl ea
  if s.atomicHeld addr pa n then .hold
  else
  let go (_ : Unit) : R :=
    if atomicLost s pl pa n then .trap ((s.touchAtomic pl n).respond pl ea pa) .memerr ea
    else
      let d := performAtomic s pl pa addr a s.core.source
      atomicDone x { d with s := (d.s.respond pl ea pa).mapRegs fun r => r.atomicCtr a }
  match pl with
  | .actor pk aid off =>
    (match s.reach pk aid off n .atomic with
     | .no .adead => .trap (s.respond pl ea pa) .adead ea
     | .no _ => .trap (s.respond pl ea pa) .wnack ea
     | .evicted => .wait ((performAtomic s pl pa addr a s.core.source).s.await (.atomic a x.d) ea len)
     | .away _ => .wait (s.await (.atomic a x.d) ea len)
     | .at_ _ _ => go ())
  | _ => go ()

/-- An atomic's checks in the order of R140 (R216), in one member; f takes it beyond the local view. -/
def atomicWith (sub : Nat) (x : XOp) (ret : Bool) (f : Word → Place → Nat → State → R) (s : State) : R :=
  let n := sizeOfTy x.ty.val
  let ea := XOp.ea x s.core.regs
  match placeOf s ea with
  | none => .trap s .aspace ea
  | some pl =>
    if ea.toNat % n ≠ 0 then .trap s .align ea
    else
      match pl with
      | .loc off => atomicLocal sub x ret ea off s
      | .inter va =>
        (match s.translate .write va with
         | none => .trap (s.missed va) (s.missCause va) ea
         | some (pa, t) => f ea pl pa t)
      | _ => f ea pl 0 s

/-- The length of an extended instruction. -/
def XOp.bytes (x : XOp) : Nat := if x.h.lit.isSome then 20 else 12

/-- A returning atomic. -/
def atomicRet (sub : Nat) (x : XOp) (s : State) : Out :=
  xissue 10 sub x (!x.x) ([x.d, x.a, x.b] ++ (if sub = 9 then [x.c] else []))
    (atomicWith sub x true fun ea pl pa s => atomicRemote sub x ea pl pa (XOp.bytes x) s) s

/-- A posted atomic: beyond the local view it is a command of the E queue (01_device.md R9, R214). -/
def atomicPost (sub : Nat) (x : XOp) (s : State) : Out :=
  xissue 10 sub x x.x [x.a, x.b]
    (atomicWith sub x false fun _ _ _ s =>
      place { q := .e, cls := 10, sub := sub, x := x, lanes := if sub = 10 then 1 else 0 } s) s

/-- The arguments of a queued atomic, from what it captured. -/
def Cmd.atomicArgs (k : Cmd) : AtomicArgs :=
  { op := Fin.ofNat 11 k.sub, ty := k.x.ty, rm := if k.sub = 10 then rmodeCode k.rc.mode else 0
    u := if k.sub = 10 then BitVec.ofNat 16 (k.rc.draw 0) else 0, b := k.sb, c := 0 }

/-- What an engine finds in the translation cache: a physical address, a right that is missing, or nothing (R350 to R353). -/
inductive Found where
  | hit (pa : Nat) (s : State)
  | noRight
  | nothing
deriving DecidableEq, Repr

/-- An engine's look into the translation cache, and then among the translations that its command has collected
(22_scheduling_faults.md R354). -/
def State.lookup (s : State) (held : List TlbEntry) (r : Right) (va : Nat) : Found :=
  match tlbFind s.grove.tlb s.core.tenant va with
  | some e => if e.grants r then .hit (s.pkg.cell (e.pa va)) (s.useTlb e) else .noRight
  | none =>
    match tlbFind held s.core.tenant va with
    | some e => if e.grants r then .hit (s.pkg.cell (e.pa va)) s else .noRight
    | none => .nothing

/-- A posted atomic performed by the E engine: it posts its one flit. -/
def performAtomicCmd (k : Cmd) (s : State) : Perf :=
  let ea := k.sa + sxtWord 32 k.x.w2.toNat
  let n := sizeOfTy k.x.ty.val
  let go (pl : Place) (pa : Nat) (t : State) : Perf :=
    .ok (t.mapCore fun c => c.postBy k (s.near pl) 1 ea (normal pl ea) pa (.atomic k.atomicArgs n)) {}
  match placeOf s ea with
  | some (.inter va) =>
    (match s.lookup k.pages .write va with
     | .hit pa t => go (.inter va) pa t
     | .noRight => .fault s .xfault ea
     | .nothing => .miss s va)
  | some (.linear pa) => go (.linear pa) pa s
  | some pl => go pl 0 s
  | none => .ok s {}

/-- AADD (R215). -/
def execAadd (x : XOp) (s : State) : Out := atomicRet 0 x s
/-- AAND (R215). -/
def execAand (x : XOp) (s : State) : Out := atomicRet 1 x s
/-- AOR (R215). -/
def execAor (x : XOp) (s : State) : Out := atomicRet 2 x s
/-- AXOR (R215). -/
def execAxor (x : XOp) (s : State) : Out := atomicRet 3 x s
/-- AMIN (R215). -/
def execAmin (x : XOp) (s : State) : Out := atomicRet 4 x s
/-- AMAX (R215). -/
def execAmax (x : XOp) (s : State) : Out := atomicRet 5 x s
/-- AMINU (R215). -/
def execAminu (x : XOp) (s : State) : Out := atomicRet 6 x s
/-- AMAXU (R215). -/
def execAmaxu (x : XOp) (s : State) : Out := atomicRet 7 x s
/-- ASWAP (R215). -/
def execAswap (x : XOp) (s : State) : Out := atomicRet 8 x s
/-- ACAS (R215): b new, c expected. -/
def execAcas (x : XOp) (s : State) : Out := atomicRet 9 x s
/-- AFADD (R217). -/
def execAfadd (x : XOp) (s : State) : Out := atomicRet 10 x s
/-- AADDP (R215). -/
def execAaddp (x : XOp) (s : State) : Out := atomicPost 0 x s
/-- AANDP (R215). -/
def execAandp (x : XOp) (s : State) : Out := atomicPost 1 x s
/-- AORP (R215). -/
def execAorp (x : XOp) (s : State) : Out := atomicPost 2 x s
/-- AXORP (R215). -/
def execAxorp (x : XOp) (s : State) : Out := atomicPost 3 x s
/-- AMINP (R215). -/
def execAminp (x : XOp) (s : State) : Out := atomicPost 4 x s
/-- AMAXP (R215). -/
def execAmaxp (x : XOp) (s : State) : Out := atomicPost 5 x s
/-- AMINUP (R215). -/
def execAminup (x : XOp) (s : State) : Out := atomicPost 6 x s
/-- AMAXUP (R215). -/
def execAmaxup (x : XOp) (s : State) : Out := atomicPost 7 x s
/-- ASWAPP (R215). -/
def execAswapp (x : XOp) (s : State) : Out := atomicPost 8 x s
/-- AFADDP (R217). -/
def execAfaddp (x : XOp) (s : State) : Out := atomicPost 10 x s

end Sys2Proof.Machine
end

