-- ==== Sys2Proof/Machine/Fetch.lean ====
section
/-!
DEFINITION. Fetch: the instruction at the program counter (04_formats.md R61, R62, R83; 08_scalar.md R153; 18_messages.md R289).
-/
namespace Sys2Proof.Machine

/-! ### Fetch -/

/-- What a fetch comes to: the words, or the fault of the instruction with its TVAL, and the state it leaves. -/
inductive Fetched where
  | words (l : List IWord) (s : State)
  | fault (c : Cause) (v : Word) (s : State)

/-- A word of code at a physical address: the cache takes its block when it does not hold it (2,048 blocks of 16 bytes, R5). Of a block
that it holds and that memory has changed since, the fetch finds either the old word or the new one: a free value (R153; log
entry 7). none: the memory's word is lost. -/
def State.codeWord (s : State) (pa : Nat) : Option (IWord × State) :=
  let new : IWord := BitVec.ofNat 32 (leNat (s.pkg.readMem pa 4))
  match s.core.icache.find? fun b => b.1 == pa / 16 with
  | none =>
    if s.pkg.memLost pa 4 then none
    else some (new, (s.activate (pa / 16 * 16) 16).mapCore fun c => { c with icache := ((pa / 16, s.pkg.readMem (pa / 16 * 16) 16) :: c.icache).take 2048 })
  | some b =>
    let old : IWord := BitVec.ofNat 32 (leNat ((b.2.drop (pa % 16)).take 4))
    if old = new then some (new, s)
    else some (if (Config.freeWord s.fresh).getLsbD 0 then old else new, { s with fresh := s.fresh + 1 })

/-- The word at pc of the instruction at first: in the interleaved view translated, with the X right; or a word of carried code, within
its block (18_messages.md R289). A fault of a fetch names the first word (R62). -/
def fetchWord (first pc : Word) (s : State) : Fetched :=
  if (s.core.act.bind fun a => a.carried).any fun b => decide (pc.toNat < b.lo) || decide (b.hi < pc.toNat + 4) then .fault .ccode pc s
  else
  match placeOf s pc with
  | some (.inter va) =>
    (match s.translate .fetch va with
     | none => .fault (s.missCause va) first (s.missed va)
     | some (pa, t) => (match t.codeWord pa with | some (w, u) => .words [w] u | none => .fault .memerr first (t.activate (pa / 16 * 16) 16)))
  | some (.loc off) =>
    (match s.localAt off 4 with
     | some p =>
       let t := s.touchStore 0 p 4
       if s.core.health.lostIn p 4 then .fault .memerr first t else .words [BitVec.ofNat 32 (leNat (s.core.readScratch p 4))] t
     | none => .fault .lrange first s)
  | _ => .fault .aspace first s

/-- n words from pc on, of the instruction at first. -/
def fetchWords (first : Word) : Nat → Word → State → Fetched
  | 0, _, s => .words [] s
  | n + 1, pc, s =>
    match fetchWord first pc s with
    | .fault c v t => .fault c v t
    | .words l t =>
      match fetchWords first n (pc + 4) t with
      | .fault c v t => .fault c v t
      | .words m u => .words (l ++ m) u

/-- The words of the instruction at the program counter: its first word tells how many (R61). -/
def fetch (s : State) : Fetched :=
  let pc := s.core.regs.pc
  if pc.toNat % 4 ≠ 0 then .fault .ialign pc s
  else
    match fetchWord pc pc s with
    | .fault c v t => .fault c v t
    | .words l t =>
      match fetchWords pc (wordsOf (l.headD 0).toNat - 1) (pc + 4) t with
      | .fault c v t => .fault c v t
      | .words m u => .words (l ++ m) u

/-- What a core holds unissued, an extended instruction: class, subop and word 2, of the words that its next issue fetches. -/
def heldInstr (s : State) : Option (Nat × Nat × IWord) :=
  if s.core.hold then
    match fetch s with
    | .words (w0 :: _ :: w2 :: _) _ => if bitAt w0.toNat 1 then some (bitsOf w0.toNat 2 6, bitsOf w0.toNat 12 10, w2) else none
    | _ => none
  else none

end Sys2Proof.Machine
end

