-- ==== Sys2Proof/Machine/Sync.lean ====
section
/-!
DEFINITION. The SYNC class, barriers and queue fences (12_memory.md R206 to R214).
-/
namespace Sys2Proof.Machine

/-! ### Sync words (R208, R209) -/

/-- An instruction on the sync word at sa + word 2: its faults, then the scoreboard over its 16 bytes, then f with the word's
scratchpad offset and address. A word that cannot be read is MEMERR, as a scalar load's (22_scheduling_faults.md R355). -/
def withSync (x : XOp) (rd wr : Bool) (f : Nat → Word → State → R) (s : State) : R :=
  let ea := XOp.ea x s.core.regs
  match localSpan s ea 16 16 with
  | .error c => .trap s c ea
  | .ok g =>
    if s.core.blocked g.lo 16 wr then .hold
    else if rd && s.core.health.lostIn g.lo 16 then .trap (s.touchStore 0 g.lo 16) .memerr ea
    else f g.lo ea (if rd then s.touchStore 0 g.lo 16 else s)

/-- EXPECT (R209). -/
def execExpect (x : XOp) (s : State) : Out :=
  xissue 11 0 x true [x.d, x.a, x.b]
    (withSync x true true fun p ea s =>
      let w := s.core.sync p
      let n := bitsOf (s.rs x.b).toNat 0 32
      if n = 0 ∨ w.target ≠ 0 then .trap s .swbusy ea
      else .done ((s.mapCore fun c => c.setSync p (w.expect n)).ws x.d (BitVec.ofNat 64 w.gen))) s

/-- WAITG (R209): it completes when the generation has passed, else it waits. -/
def execWaitg (x : XOp) (s : State) : Out :=
  xissue 11 1 x true [x.d, x.a, x.b]
    (withSync x true false fun p ea s =>
      let w := s.core.sync p
      let g := bitsOf (s.rs x.b).toNat 0 32
      if passed w.gen g then .done (s.ws x.d (BitVec.ofNat 64 w.gen)) else .wait (s.await (.gen p g x.d) ea (XOp.bytes x))) s

/-- SWINIT (R209). -/
def execSwinit (x : XOp) (s : State) : Out :=
  xissue 11 6 x true [x.a, x.b]
    (withSync x false true fun p _ s =>
      .done (s.mapCore fun c => c.setSync p { count := 0, target := 0, gen := bitsOf (c.regs.rs x.b).toNat 0 32, ovf := false })) s

/-- WAITG_TIMEOUT (R209): the first member that waits traps WAITTO; a BARTMO of 0 never times out. -/
def execWaitgTimeout (s : State) : Out :=
  match (List.range (s.peers.length + 1)).find? fun k =>
      let c := (focus k s).core
      c.regs.bartmo != 0 && (match c.await with | some { kind := .gen _ _ _, .. } => true | _ => false) with
  | none => .refused .notDue
  | some k =>
    let t := focus k s
    match t.core.await with
    | some w => answer k w.len (.trap t .waitto w.addr) s
    | none => .refused .notDue

/-! ### Barriers (R210 to R213) -/

/-- The instance that the running actor is a member of at an index; of a gang only the leader's item is one (R211). -/
def State.barOf (s : State) (idx : Nat) : Option BarInst :=
  match s.core.act, s.core.self with
  | some a, some me =>
    (match a.src with
     | .message _ _ =>
       if s.pkg.leads a.slot me.wid then s.pkg.bars.find? fun b => b.slot == a.slot && b.idx == idx && sharesFrom b.low me.wid b.share
       else none
     | .task _ => none)
  | _, _ => none

/-- The phase of the member's latest arrival; 0 when it never arrived. -/
def Actor.arrivals (a : Actor) (idx : Nat) : Nat := match a.bars.find? fun b => b.idx == idx with | some b => b.arrived | none => 0

/-- One more arrival. -/
def Actor.arrive (a : Actor) (idx : Nat) : Actor :=
  { a with bars := { idx := idx, arrived := a.arrivals idx + 1 } :: a.bars.filter fun b => b.idx != idx }

/-- The running actor's arrivals. -/
def Core.arrivals (c : Core) (idx : Nat) : Nat := match c.self with | some a => a.arrivals idx | none => 0

/-- The mark of a BAR that has arrived and not completed. -/
def Core.setBarHold (c : Core) (n : Nat) : Core := { c with act := c.act.map fun a => { a with barHold := n } }

/-- BARWT's part: it completes when the phase of the latest arrival is released. -/
def barWait (x : XOp) (b : BarInst) (idx : Nat) (s : State) : R :=
  if s.core.arrivals idx ≤ b.phase then .done (s.mapCore fun c => c.setBarHold 0)
  else .wait (s.await (.bar idx) 0 (XOp.bytes x))

/-- BARARR's part: the drain, the release of the member's previous phase, and the arrival; then f. -/
def barArrive (b : BarInst) (idx : Nat) (f : State → R) (s : State) : R :=
  if s.core.drained = false then .hold
  else if b.phase < s.core.arrivals idx then .hold
  else f (s.mapCore fun c => c.mapActor c.regs.aid fun a => a.arrive idx)

/-- A barrier instruction in one member: the leader's in a gang; NODECL, then BARTO of a broken instance. -/
def barPart (x : XOp) (f : BarInst → Nat → State → R) (s : State) : R :=
  let idx := x.w2f 0 4
  if s.core.ganged ∧ s.core.regs.gangix ≠ 0 then .done s
  else
    match s.barOf idx with
    | none => .trap s .nodecl (BitVec.ofNat 64 idx)
    | some b => if b.broken then .trap s .barto (BitVec.ofNat 64 idx) else f b idx s

/-- BAR (R212). -/
def execBar (x : XOp) (s : State) : Out :=
  xissue 11 2 x true []
    (barPart x fun b idx s =>
      if (s.core.act.map fun a => a.barHold) = some (idx + 1) then barWait x b idx s
      else barArrive b idx (fun s => barWait x b idx (s.mapCore fun c => c.setBarHold (idx + 1))) s) s

/-- BARARR (R212). -/
def execBararr (x : XOp) (s : State) : Out := xissue 11 3 x true [] (barPart x fun b idx s => barArrive b idx .done s) s

/-- BARWT (R212). -/
def execBarwt (x : XOp) (s : State) : Out := xissue 11 4 x true [] (barPart x fun b idx s => barWait x b idx s) s

/-- What a wait for a generation or a release comes to now; none: it goes on. -/
def pollSync (s : State) : Option R :=
  match s.core.await with
  | some { kind := .gen p g d, .. } =>
    let w := s.core.sync p
    if passed w.gen g then some (.done (s.ws d (BitVec.ofNat 64 w.gen))) else none
  | some { kind := .bar idx, .. } =>
    (match s.barOf idx with
     | none => some (.trap s .nodecl (BitVec.ofNat 64 idx))
     | some b =>
       if b.broken then some (.trap s .barto (BitVec.ofNat 64 idx))
       else if s.core.arrivals idx ≤ b.phase then some (.done (s.mapCore fun c => c.setBarHold 0))
       else none)
  | _ => none

/-- The actors of the state that are members of an instance. -/
def State.barMembers (s : State) (b : BarInst) : List Actor :=
  ((s.cores.flatMap fun c => c.actors.filterMap id) ++ (s.pkg.evicted.map fun e => e.actor)).filter fun a =>
    a.slot == b.slot && sharesFrom b.low a.wid b.share && s.pkg.leads b.slot a.wid

/-- Every member that the state holds has arrived in the instance's present phase, there is one, and none is still to be made; members
that stand beyond the state arrive with the event. -/
def State.barFull (s : State) (b : BarInst) : Bool :=
  let l := s.barMembers b
  !b.broken && !s.itemsDue b.slot b.low b.share && l != [] && l.all fun a => decide (b.phase < a.arrivals b.idx)

/-- The instance at an index whose phase is due for release. -/
def State.barDue (s : State) (idx : Nat) : Option BarInst := s.pkg.bars.find? fun b => b.idx == idx && s.barFull b

/-- An instance changed. -/
def State.mapBar (s : State) (b : BarInst) (f : BarInst → BarInst) : State :=
  { s with pkg := { s.pkg with bars := s.pkg.bars.map fun x => if x = b then f x else x } }

/-- BARRIER_RELEASE (R212). -/
def execBarrierRelease (idx : Nat) (s : State) : Out :=
  match s.barDue idx with
  | none => .refused .notDue
  | some b => .next (s.mapBar b fun b => { b with phase := b.phase + 1 })

/-- The core waits at a barrier's index. -/
def Core.waitsAt (c : Core) (idx : Nat) : Bool :=
  match c.await with
  | some { kind := .bar i, .. } => i == idx
  | _ => false

/-- Members that wait on a broken instance trap BARTO (R213). -/
def trapBarred (b : BarInst) (s : State) : State :=
  (List.range (s.peers.length + 1)).foldl
    (fun s k =>
      let t := focus k s
      if t.core.waitsAt b.idx ∧ t.barOf b.idx = some b then focus k (t.trapNow .barto (BitVec.ofNat 64 b.idx)) else s) s

/-- The core holds in a BAR at an index on the phase of its latest arrival, which it arrived in by a BARARR. -/
def State.holdsAt (s : State) (idx : Nat) (b : BarInst) : Bool :=
  match heldInstr s with
  | some (11, 2, w) => bitsOf w.toNat 0 4 == idx && decide (b.phase < s.core.arrivals idx)
  | _ => false

/-- The instance at an index for which a member of the state counts cycles to a limit. -/
def State.barCounted (s : State) (idx : Nat) : Option BarInst :=
  (List.range (s.peers.length + 1)).findSome? fun k =>
    let t := focus k s
    (t.barOf idx).bind fun b => if t.core.regs.bartmo ≠ 0 ∧ (t.core.waitsAt idx || t.holdsAt idx b) ∧ b.broken = false then some b else none

/-- The instance at an index of which a member stands beyond the state: its count may reach its limit at any time. -/
def State.barFar (s : State) (idx : Nat) : Option BarInst :=
  s.pkg.bars.find? fun b => b.idx == idx && !b.broken && s.pkg.dir.any fun e =>
    e.slot == b.slot && sharesFrom b.low e.wid b.share && s.pkg.leads b.slot e.wid && (match e.at_ with | .away _ => true | _ => false)

/-- BARRIER_TIMEOUT (R213): the instance breaks; every member then waiting traps, and one that holds in a BAR when it issues again. -/
def execBarrierTimeout (idx : Nat) (s : State) : Out :=
  match (s.barCounted idx).or (s.barFar idx) with
  | none => .refused .notDue
  | some b =>
    let t := s.mapBar b fun b => { b with broken := true }
    .next (trapBarred { b with broken := true } t)

/-! ### QFENCE (R214) -/

/-- The queues of a mask. -/
def maskQueues (m : Nat) : List Queue := [Queue.v, .m, .s, .e, .g, .l, .q, .n].filter fun k => bitAt m (queueNum k)

/-- QFENCE (R214). -/
def execQfence (x : XOp) (s : State) : Out :=
  xissue 11 5 x true []
    (fun s => if (maskQueues (x.w2f 0 8)).all fun k => s.core.queue k == [] then .done s else .hold) s

end Sys2Proof.Machine
end

