-- ==== Sys2Proof/Machine/Engine.lean ====
section
/-!
DEFINITION. The ENGINE class: pushes, gathers, scatters and reduction trees (12_memory.md R204, R218 to R223).
-/
namespace Sys2Proof.Machine

/-! ### Device memory through a view -/

/-- A range of the interleaved view cut at the 4 KiB granules, of which pages are made: the address and length of each part. -/
def pageCuts : Nat → Nat → Nat → List (Nat × Nat)
  | 0, _, _ => []
  | fuel + 1, va, n =>
    if n = 0 then []
    else
      let k := min n (0x1000 - va % 0x1000)
      (va, k) :: pageCuts fuel (va + k) (n - k)

/-- What translating ranges comes to: physical parts in order, a right that is missing at an address, or a page not found. -/
inductive Mapped where
  | ok (l : List (Nat × Nat)) (s : State)
  | noRight (addr : Word)
  | miss (va : Nat)
deriving DecidableEq, Repr

/-- Parts of the interleaved view translated through the cache and the translations that the command has collected, all of them or
none. -/
def mapParts (held : List TlbEntry) (r : Right) : List (Nat × Nat) → State → Mapped
  | [], s => .ok [] s
  | (va, n) :: t, s =>
    match s.lookup held r va with
    | .noRight => .noRight (BitVec.ofNat 64 (2 ^ 60 + va))
    | .nothing => .miss va
    | .hit pa u =>
      match mapParts held r t u with
      | .ok l v => .ok ((pa, n) :: l) v
      | m => m

/-- n bytes of device memory at an address of either view, as physical parts. -/
def mapRange (held : List TlbEntry) (r : Right) (addr : Word) (n : Nat) (s : State) : Mapped :=
  match placeOf s addr with
  | some (.inter va) => mapParts held r (pageCuts (n / 0x1000 + 2) va n) s
  | some (.linear pa) => .ok [(pa, n)] s
  | _ => .ok [] s

/-- Ranges of device memory, as physical parts of each. -/
def mapRanges (held : List TlbEntry) (r : Right) : List (Word × Nat) → State → Except Perf (List (List (Nat × Nat)) × State)
  | [], s => .ok ([], s)
  | (a, n) :: t, s =>
    match mapRange held r a n s with
    | .noRight w => .error (.fault s .xfault w)
    | .miss va => .error (.miss s va)
    | .ok l u =>
      match mapRanges held r t u with
      | .ok (ls, v) => .ok (l :: ls, v)
      | .error e => .error e

/-- The pages of ranges of the interleaved view, in ascending order and each once. -/
def pagesOf (s : State) (l : List (Word × Nat)) : List Nat :=
  let pages := l.flatMap fun x =>
    match placeOf s x.1 with
    | some (.inter va) => (pageCuts (x.2 / 0x1000 + 2) va x.2).map fun c => c.1 / 0x10000
    | _ => []
  (pages.eraseDups).mergeSort (· ≤ ·)

/-- The batch translation unit (22_scheduling_faults.md R354): the first page, in ascending order, that is neither in the cache nor
collected; with none, the ranges as physical parts. -/
def mapBatch (held : List TlbEntry) (r : Right) (l : List (Word × Nat)) (s : State) : Except Perf (List (List (Nat × Nat)) × State) :=
  match (pagesOf s l).find? fun p =>
      (tlbFind s.grove.tlb s.core.tenant (p * 0x10000)).isNone && (tlbFind held s.core.tenant (p * 0x10000)).isNone with
  | some p => .error (.miss s (p * 0x10000))
  | none => mapRanges held r l s

/-- The bytes of physical parts. -/
def Pkg.readParts (p : Pkg) (l : List (Nat × Nat)) : List Byte := l.flatMap fun x => p.readMem x.1 x.2

/-- Some part is lost. -/
def Pkg.partsLost (p : Pkg) (l : List (Nat × Nat)) : Bool := l.any fun x => p.memLost x.1 x.2

/-! ### Flits (R203, R204) -/

/-- Bytes at an address cut at the aligned boundaries of the flit size. -/
def flitCuts (size : Nat) : Nat → Nat → List Byte → List (Nat × List Byte)
  | 0, _, _ => []
  | fuel + 1, a, bs =>
    if bs = [] then []
    else
      let k := size - a % size
      (a, bs.take k) :: flitCuts size fuel (a + k) (bs.drop k)

/-- Rows that meet end to end joined into one run. -/
def joinRuns : List (Nat × List Byte) → List (Nat × List Byte)
  | [] => []
  | (a, b) :: t =>
    match joinRuns t with
    | (c, d) :: u => if a + b.length = c then (a, b ++ d) :: u else (a, b) :: (c, d) :: u
    | [] => [(a, b)]

/-- The flits of a push's rows; the flit size depends on the path. -/
def flitsOf (size : Nat) (rows : List (Nat × List Byte)) : List (Nat × List Byte) :=
  (joinRuns rows).flatMap fun r => flitCuts size (r.2.length + 1) r.1 r.2

/-- The flit size towards a place (R204). -/
def flitSize (s : State) (pl : Place) : Nat :=
  match pl with
  | .loc _ | .linear _ => 32
  | .inter _ => 64
  | .actor _ _ _ => if s.near pl then 32 else 64

/-! ### Records of pushes -/

/-- The rows of a record in order: i1 fastest, then i2 (R219). -/
def LRec.rows (r : LRec) : List Int := (List.range r.e2).flatMap fun j => (List.range r.e1).map fun i => r.row i j

/-- The bytes of one row of a record. -/
def LRec.rowLen (r : LRec) : Nat := rowBytes r.ty 0 r.e0

/-- The bytes of all rows. -/
def LRec.total (r : LRec) : Nat := r.rowLen * r.e1 * r.e2

/-- An INT4 row with an odd e0 (R218). -/
def oddRow (r : LRec) : Bool := r.ty == 7 && r.e0 % 2 == 1

/-- The record that names a push's destination and sync word. -/
def Cmd.dest (k : Cmd) (r : LRec) : LRec :=
  match k.rec2 with
  | some d => d
  | none =>
    -- SEND places rows densely from aux0
    { r with base := r.aux0, st1 := r.rowLen, st2 := (r.rowLen * r.e1 : Nat) }

/-- The sync word of a push: the issuer's, as a scratchpad offset, or one in actor space (R219). -/
def Cmd.syncAt (k : Cmd) (d : LRec) : Option SyncAt :=
  if d.flagS then
    (if d.aux1.toNat / 2 ^ 60 = 0 then some (.own (k.base + d.aux1.toNat)) else some (.remote d.aux1))
  else none

/-- The bytes of a record's rows read in the scratchpad, with the address of each row of the destination. -/
def sendRows (k : Cmd) (r d : LRec) (c : Core) : List (Nat × List Byte) :=
  (r.rows.zip d.rows).map fun p => (p.2.toNat, c.readScratch (k.base + p.1.toNat) r.rowLen)

/-- The flits of a push with the parts that their bytes have in device memory. -/
def postFlits (k : Cmd) (sync : Option SyncAt) : List ((Nat × List Byte) × Nat) → State → State
  | [], s => s
  | ((a, bs), pa) :: t, s =>
    let addr := BitVec.ofNat 64 a
    let u :=
      match placeOf s addr with
      | some pl => s.mapCore fun c => c.postBy k (s.near pl) 1 addr (normal pl addr) pa (.flit bs sync)
      | none => s
    postFlits k sync t u

/-- SEND and SENDL performed (R219): a local destination is written in units of 32 bytes; any other is pushed. -/
def performSend (k : Cmd) (s : State) : Perf :=
  match k.lrec with
  | none => .ok s {}
  | some r =>
    if r.empty then .ok s {}
    else
      let d := k.dest r
      match engineReads k (r.rows.map fun a => (k.base + a.toNat, r.rowLen)) s with
      | .error (t, v) => .fault t .memerr v
      | .ok t =>
        let rows := sendRows k r d t.core
        match placeOf t d.base with
        | some (.loc _) =>
          .ok ((flitsOf 32 (rows.map fun p => (k.base + p.1, p.2))).foldl (fun s f =>
            let u := s.engineWrite k f.1 f.2
            match k.syncAt d with
            | some (.own p) => u.mapCore fun c => c.arriveSync p f.2.length
            | _ => u) t) {}
        | some pl =>
          let fl := flitsOf (flitSize t pl) rows
          (match pl with
           | .inter _ =>
             (match mapRanges k.pages .write (fl.map fun f => (BitVec.ofNat 64 f.1, f.2.length)) t with
              | .error e => e
              | .ok (ps, u) => .ok (postFlits k (k.syncAt d) (fl.zip (ps.map fun l => match l with | (pa, _) :: _ => pa | [] => 0)) u) {})
           | _ => .ok (postFlits k (k.syncAt d) (fl.map fun f => (f, 0)) t) {})
        | none => .ok t {}

/-! ### Issue of pushes (R219) -/

/-- The gate of a gated command: its sync word must be one (R218). That a word out of place raises ALIGN or LRANGE at issue, before the record's
own checks, is DEDUCED (log entry 53). -/
def gateFault (x : XOp) (s : State) : Option (Cause × Word) :=
  if x.x then
    let a : Word := BitVec.ofNat 64 (bitsOf (s.rs x.c).toNat 0 32)
    match localSpan s a 16 16 with
    | .error c => some (c, a)
    | .ok _ => none
  else none

/-- A sync word's placement for a destination (R219): the view it may lie in. -/
def syncPlaced (s : State) (dst aux1 : Word) : Bool :=
  match placeOf s dst, placeOf s aux1 with
  | some (.loc _), some (.loc _) => true
  | some (.inter _), some (.loc _) | some (.inter _), some (.actor _ _ _) => true
  | some (.linear _), some (.loc _) | some (.linear _), some (.actor _ _ _) => true
  | some (.actor p a _), some (.actor q b _) => p == q && a == b
  | _, _ => false

/-- The local destination range of a push, or none; or its fault (R80). -/
def destRange (s : State) (d : LRec) : Except Cause (Option Range) :=
  let b := d.bounds d.ty 0
  match spanFault s d.base b.1 b.2 (baseAlign d.ty 0) with
  | some c => .error c
  | none =>
    match placeOf s d.base with
    | some (.loc _) => .ok (some (localRange s.core b.1 b.2))
    | _ => .ok none

/-- The sync word's fault: ALIGN, and LRANGE in the local view; ok answers its scratchpad range. -/
def syncRange (s : State) (a : Word) : Except Cause (Option Range) :=
  if a.toNat % 16 ≠ 0 then .error .align
  else
    match placeOf s a with
    | some (.loc off) => (match s.localAt off 16 with | some p => .ok (some { lo := p, hi := p + 16 }) | none => .error .lrange)
    | some _ => .ok none
    | none => .error .aspace

/-- A push whose record r is read and whose destination record is d, in one member. The order of its faults (the sync word's place, the
source, the destination, the sync word, their overlap) is a DESIGN CHOICE (log entry 53). -/
def pushIssue (sub : Nat) (x : XOp) (r d : LRec) (rec2 : Option LRec) (s : State) : R :=
  let k : Req := { q := .e, cls := 12, sub := sub, x := x, lrec := some r, rec2 := rec2, gate := x.x }
  if d.flagI ∨ d.rsv ≠ 0 ∨ (d.flagS = false ∧ d.aux1 ≠ 0) ∨ oddRow r then illopX 12 sub x s
  else if r.empty then place k s
  else if d.flagS ∧ syncPlaced s d.base d.aux1 = false then illopX 12 sub x s
  else
    match localRec s r r.ty 0 with
    | .error c => .trap s c r.base
    | .ok src =>
      match destRange s d with
      | .error c => .trap s c d.base
      | .ok dst =>
        match (if d.flagS then syncRange s d.aux1 else .ok none) with
        | .error c => .trap s c d.aux1
        | .ok y =>
          if (match dst, y with | some g, some h => g.meets h | _, _ => false) then illopX 12 sub x s
          else place { k with reads := src.toList, writes := dst.toList } s

/-- A gated command's gate first, then the push. -/
def gated (x : XOp) (m : State → R) (s : State) : R :=
  match gateFault x s with
  | some (c, v) => .trap s c v
  | none => m s

/-- SEND in one member. -/
def sendPart (x : XOp) (s : State) : R :=
  let r := s.core.regs.lrec x.l.val
  if r.ty ≠ x.ty.val then illopX 12 0 x s
  else
    pushIssue 0 x r { r with base := r.aux0, st1 := r.rowLen, st2 := (r.rowLen * r.e1 : Nat) } none s

/-- SENDL in one member. -/
def sendlPart (x : XOp) (s : State) : R :=
  let r := s.core.regs.lrec x.l.val
  let d := s.core.regs.lrec (x.w2f 0 2)
  if r.ty ≠ x.ty.val ∨ r.plain = false ∨ d.ty ≠ r.ty ∨ d.e0 ≠ r.e0 ∨ d.e1 ≠ r.e1 ∨ d.e2 ≠ r.e2 then illopX 12 1 x s
  else pushIssue 1 x r d (some d) s

/-- The gate's register. -/
def gateRegs (x : XOp) : List SReg := if x.x then [x.c] else []

/-- SEND (R219). -/
def execSend (x : XOp) (s : State) : Out := xissue 12 0 x true (lrecRegs x.l.val ++ gateRegs x) (gated x (sendPart x)) s
/-- SENDL (R219). -/
def execSendl (x : XOp) (s : State) : Out :=
  xissue 12 1 x true (lrecRegs x.l.val ++ lrecRegs (x.w2f 0 2) ++ gateRegs x) (gated x (sendlPart x)) s

/-! ### GATH and SCAT (R220, R221) -/

/-- The number of rows of the table that the record allows. -/
def LRec.tableRows (r : LRec) : Nat := if r.flagI then r.e2 else r.e1

/-- The scratchpad offsets of a gather's index list and dense side. -/
def Cmd.idxAt (k : Cmd) (r : LRec) : Nat := k.base + r.aux0.toNat
/-- The dense side's base. -/
def Cmd.denseAt (k : Cmd) (r : LRec) : Nat := k.base + (if r.flagI then k.sb.toNat else r.aux0.toNat)

/-- The table row that row i names. -/
def tableRow (k : Cmd) (r : LRec) (c : Core) (i : Nat) : Nat :=
  if r.flagI then leNat (c.readScratch (k.idxAt r + 4 * i) 4) else i

/-- The first row whose index is out of the table. -/
def badIndex (k : Cmd) (r : LRec) (c : Core) : Option Nat :=
  if r.flagI then (List.range r.e1).find? fun i => decide (r.e2 ≤ tableRow k r c i) else none

/-- The address of the table row that row i names. -/
def tableAddr (k : Cmd) (r : LRec) (c : Core) (i : Nat) : Word := BitVec.ofInt 64 (r.row (tableRow k r c i) 0)

/-- The local sync word of a gather or scatter. -/
def Cmd.gatherSync (k : Cmd) (r : LRec) : Option Nat := if r.flagS then some (k.base + r.aux1.toNat) else none

/-- The index list read by the engine, then every index checked, then every page translated (22_scheduling_faults.md R354). -/
def tablePrep (k : Cmd) (r : LRec) (right : Right) (s : State) : Except Perf (List (List (Nat × Nat)) × State) :=
  match engineReads k (if r.flagI then [(k.idxAt r, 4 * r.e1)] else []) s with
  | .error (t, v) => .error (.fault t .memerr v)
  | .ok t =>
    match badIndex k r t.core with
    | some i => .error (.fault t .idxr (BitVec.ofNat 64 i))
    | none => mapBatch k.pages right ((List.range r.e1).map fun i => (tableAddr k r t.core i, r.rowLen)) t

/-- A gathered row lands in the dense side and is counted (R220); a row already counted is not counted again (R221). -/
def landRow (k : Cmd) (r : LRec) (parts : List (Nat × Nat)) (i : Nat) (s : State) : State :=
  let bs := s.pkg.readParts parts
  let t := (parts.foldl (fun s p => (s.activate p.1 p.2).respond (.inter 0) 0 p.1) s).engineWrite k (k.denseAt r + i * r.rowLen) bs
  match k.gatherSync r with
  | some p => if k.counted.contains i then t else t.mapCore fun c => c.arriveSync p bs.length
  | none => t

/-- GATH performed (R220): every row that has not landed lands. -/
def performGath (k : Cmd) (s : State) : Perf :=
  match k.lrec with
  | none => .ok s {}
  | some r =>
    if r.empty then .ok s {}
    else
      match tablePrep k r .read s with
      | .error e => e
      | .ok (ps, t) =>
        match (List.range r.e1).find? fun i => t.pkg.partsLost (ps.getD i []) with
        | some i => .fault t .memerr (tableAddr k r t.core i)
        | none => .ok (((List.range r.e1).filter fun i => !k.counted.contains i).foldl (fun s i => landRow k r (ps.getD i []) i s) t) {}

/-- SCAT performed (R220): the rows are posted in ascending order. -/
def performScat (k : Cmd) (s : State) : Perf :=
  match k.lrec with
  | none => .ok s {}
  | some r =>
    if r.empty then .ok s {}
    else
      match tablePrep k r .write s with
      | .error e => e
      | .ok (_, t) =>
        match engineReads k [(k.denseAt r, r.rowLen * r.e1)] t with
        | .error (u, v) => .fault u .memerr v
        | .ok u =>
          let size := match placeOf u r.base with | some pl => flitSize u pl | none => 64
          let fl := (List.range r.e1).flatMap fun i =>
            flitCuts size (r.rowLen + 1) (tableAddr k r u.core i).toNat (u.core.readScratch (k.denseAt r + i * r.rowLen) r.rowLen)
          (match mapRanges k.pages .write (fl.map fun f => (BitVec.ofNat 64 f.1, f.2.length)) u with
           | .error e => e
           | .ok (ps, v) =>
             .ok (postFlits k ((k.gatherSync r).map SyncAt.own) (fl.zip (ps.map fun l => match l with | (pa, _) :: _ => pa | [] => 0)) v) {})

/-- GATHER_ROW_LANDING (R220): one row of the GATH at the head of the G queue lands. -/
def execGatherRowLanding (row : Nat) (s : State) : Out :=
  match (s.core.queue .g).head? with
  | none => .refused .notDue
  | some k =>
    match k.lrec with
    | none => .refused .notDue
    | some r =>
      if k.sub ≠ 2 ∨ r.empty ∨ r.e1 ≤ row ∨ k.counted.contains row ∨ s.core.startable k = false ∨ gateOpen s.core k = false then
        .refused .notDue
      else
        match tablePrep k r .read s with
        | .error _ => .refused .notDue
        | .ok (ps, t) =>
          if t.pkg.partsLost (ps.getD row []) then .refused .notDue
          else
            let u := landRow k r (ps.getD row []) row t
            .next ((u.mapCore fun c =>
              { c with cmds := c.cmds.map fun j => if j.serial = k.serial then { j with counted := j.counted ++ [row] } else j }))

/-- A local range of a gather, or its fault with its address. -/
def denseRange (s : State) (a : Word) (n al : Nat) : Except (Cause × Word) Range :=
  match localSpan s a n al with
  | .error c => .error (c, a)
  | .ok g => .ok g

/-- GATH and SCAT in one member: the table, the index list, the dense side, the sync word (this order of their faults is a DESIGN CHOICE,
log entry 53). -/
def tableIssue (sub : Nat) (x : XOp) (s : State) : R :=
  let r := s.core.regs.lrec x.l.val
  let k : Req := { q := .g, cls := 12, sub := sub, x := x, lrec := some r, gate := x.x }
  if r.ty ≠ x.ty.val ∨ r.rsv ≠ 0 ∨ (r.flagI = false ∧ 1 < r.e2) ∨ oddRow r then illopX 12 sub x s
  else if r.empty then place k s
  else
    let b := LRec.bounds { r with e1 := r.tableRows, e2 := 1 } r.ty 0
    let table : Option Cause :=
      match placeOf s r.base with
      | some (.inter _) | some (.linear _) => spanFault s r.base b.1 b.2 (baseAlign r.ty 0)
      | _ => some .aspace
    match table with
    | some c => .trap s c r.base
    | none =>
      match (if r.flagI then (denseRange s r.aux0 (4 * r.e1) 4).map some else .ok none) with
      | .error (c, v) => .trap s c v
      | .ok ix =>
        match denseRange s (if r.flagI then s.rs x.b else r.aux0) (r.rowLen * r.e1) (baseAlign r.ty 0) with
        | .error (c, v) => .trap s c v
        | .ok g =>
          match (if r.flagS then (denseRange s r.aux1 16 16).map some else .ok none) with
          | .error (c, v) => .trap s c v
          | .ok _ =>
            if sub = 2 then place { k with reads := ix.toList, writes := [g] } s
            else place { k with reads := ix.toList ++ [g] } s

/-- GATH (R220). -/
def execGath (x : XOp) (s : State) : Out := xissue 12 2 x true (lrecRegs x.l.val ++ [x.b] ++ gateRegs x) (gated x (tableIssue 2 x)) s
/-- SCAT (R220). -/
def execScat (x : XOp) (s : State) : Out := xissue 12 3 x true (lrecRegs x.l.val ++ [x.b] ++ gateRegs x) (gated x (tableIssue 3 x)) s

/-! ### Reduction trees (R210, R222) -/

/-- The tree instance of an actor that is a member of one, with its declaration. -/
def State.treeOf (s : State) (slot : BitVec 12) (wid : Word) (i : Nat) : Option (TreeInst × TreeDecl) :=
  if s.pkg.leads slot wid = false then none
  else match s.pkg.trees.find? fun t => t.slot == slot && t.idx == i && sharesFrom t.low wid t.share, (s.pkg.launch slot).bind fun l => l.trees[i]? with
  | some t, some d => some (t, d)
  | _, _ => none

/-- The members of an instance in rank order: the directory's actors of the launch that share its prefix, a gang counting as
its leader (R211). -/
def putByWid (e : DirEnt) : List DirEnt → List DirEnt
  | [] => [e]
  | d :: t => if e.wid ≤ d.wid then e :: d :: t else d :: putByWid e t

/-- The members in ascending WID order. -/
def State.treeMembers (s : State) (t : TreeInst) : List DirEnt :=
  (s.pkg.dir.filter fun e => e.slot == t.slot && sharesFrom t.low e.wid t.share && s.pkg.leads t.slot e.wid && e.at_ != .destroyed).foldr
    putByWid []

/-- The root's result address in actor space: the member of rank 0. -/
def rootAddr (s : State) (t : TreeInst) (d : TreeDecl) : Option Word := (s.treeMembers t).head?.map fun e => actorAddr e.aid d.result

/-- The vector registers a V command writes. -/
def Cmd.vdests (k : Cmd) : List VReg :=
  let up (n : Nat) : List VReg := (List.range n).map fun i => Fin.ofNat 32 (k.x.d.val + i)
  match k.cls, k.sub with
  | 1, _ | 2, _ | 6, _ | 3, 8 => up 1
  | 3, _ | 5, 7 => []
  | 4, 1 => if k.x.w2f 5 1 = 1 then [] else up (if k.x.aw.val < 2 then 1 else 2)
  | 4, 3 => up (if k.x.ty = 8 then 2 else 1)
  | 4, 4 => up 4
  | 4, _ | 5, _ => up 1
  | 7, 0 => up (match k.lrec with | some r => r.e1 | none => 1)
  | 7, 2 | 7, 4 => up 1
  | _, _ => []

/-- An earlier V command that writes the register has not completed. -/
def vPending (c : Core) (k : Cmd) (v : VReg) : Bool :=
  c.cmds.any fun e => e.q == .v && decide (e.serial < k.serial) && e.vdests.contains v

/-- TREDUCE performed (R222): the contribution is posted. -/
def performTreduce (k : Cmd) (s : State) : Perf :=
  if vPending s.core k k.x.a then .notYet
  else
    match s.treeOf k.slot k.wid (k.x.w2f 0 4) with
    | none => .ok s {}
    | some (t, d) =>
      let addr := (rootAddr s t d).getD 0
      let near := match placeOf s addr with | some pl => s.near pl | none => false
      .ok (s.mapCore fun c => c.postBy k near 1 addr addr 0 (.contribution k.slot (k.x.w2f 0 4) k.wid (c.regs.rv k.x.a))) {}

/-- TREDUCE in one member: the leader's in a gang; NODECL, then ILLOP for a type that is not the declared one. -/
def treducePart (x : XOp) (s : State) : R :=
  let i := x.w2f 0 4
  let c := s.core
  if c.ganged ∧ c.regs.gangix ≠ 0 then .done s
  else
    let t := match c.act, c.self with
      | some a, some me => (match a.src with | .message _ _ => s.treeOf a.slot me.wid i | .task _ => none)
      | _, _ => none
    match t with
    | none => .trap s .nodecl (BitVec.ofNat 64 i)
    | some (_, d) =>
      if d.ty ≠ x.ty.val then illopX 12 4 x s else place { q := .e, cls := 12, sub := 4, x := x, gate := x.x } s

/-- TREDUCE (R222). -/
def execTreduce (x : XOp) (s : State) : Out := xissue 12 4 x true (gateRegs x) (gated x (treducePart x)) s

/-- One element of a tree's operation. -/
def treeElem (op ty a b : Nat) : Nat :=
  let w := tyBits ty
  match fmtOf ty with
  | some f =>
    let p := f.unpack a
    let q := f.unpack b
    f.pack (match op with | 0 => (fadd f .rne 0 p q).1 | 1 => fminV p q | _ => fmaxV p q)
  | none =>
    let p := readInt true w a
    let q := readInt true w b
    lowBits w (match op with | 0 => p + q | 1 => min p q | _ => max p q)

/-- A tree's operation on 64-byte vectors. -/
def treeOp (d : TreeDecl) (a b : VWord) : VWord :=
  let w := tyBits d.ty
  ofElems w (List.zipWith (treeElem d.op d.ty) (elems w a) (elems w b))

/-- Runs of f entries, each folded from its first. -/
def treeLevel (d : TreeDecl) : Nat → List VWord → List VWord
  | 0, _ => []
  | fuel + 1, l =>
    match l with
    | [] => []
    | a :: t => ((t.take (d.fan - 1)).foldl (treeOp d) a) :: treeLevel d fuel (t.drop (d.fan - 1))

/-- The total of contributions in rank order (R222). -/
def treeTotal (d : TreeDecl) : Nat → List VWord → VWord
  | 0, l => l.headD 0
  | fuel + 1, l => if l.length ≤ 1 then l.headD 0 else treeTotal d fuel (treeLevel d l.length l)

/-- The contribution of a member to the instance's present round, if it is in. -/
def TreeInst.part (t : TreeInst) (wid : Word) : Option VWord :=
  (t.parts.find? fun p => p.1 == t.rounds && p.2.1 == wid).map fun p => p.2.2

/-- Contributions agree with what is in: those of the members that the state or the package holds must be in, and equal. -/
def partsAgree (s : State) (t : TreeInst) : List DirEnt → List VWord → Bool
  | [], [] => true
  | e :: es, v :: vs =>
    (match t.part e.wid with
     | some u => u == v
     | none => (match e.at_ with | .away _ => true | _ => false)) && partsAgree s t es vs
  | _, _ => false

/-- Bytes of a list replaced from place o on. -/
def patch (l : List Byte) (o : Nat) (bs : List Byte) : List Byte := l.take o ++ bs ++ l.drop (o + bs.length)

/-- The bytes of a sync word. -/
def SyncWord.bytes (w : SyncWord) : List Byte :=
  leBytes 4 w.count ++ leBytes 4 w.target ++ leBytes 4 w.gen ++ leBytes 4 (if w.ovf then 1 else 0)

/-- A sync word among bytes. -/
def syncOf (l : List Byte) (o : Nat) : SyncWord :=
  let f (k : Nat) : Nat := leNat ((l.drop (o + k)).take 4)
  { count := f 0, target := f 4, gen := f 8, ovf := bitAt (f 12) 0 }

/-- A total written to the root's region and counted into its sync word; an evicted root's stands in its image. -/
def writeTotal (s : State) (aid : BitVec 24) (d : TreeDecl) (v : VWord) : State :=
  match residentAt aid s.cores 0 with
  | some (k, a) =>
    let t := s.writeAt k (a.base + d.result) (vBytes v) 3 { core := 0, aid := 0, other := true }
    t.syncAt k (a.base + d.sync) 64
  | none =>
    { s with pkg := { s.pkg with
        evicted := s.pkg.evicted.map fun e =>
          if e.actor.aid = aid then
            let r := patch e.im.region d.result (vBytes v)
            { e with im := { e.im with region := patch r d.sync ((syncOf r d.sync).arrive 64).bytes } }
          else e } }

/-- TREE_ROUND_TOTAL (R222): the present round of a tree at index i is complete with these contributions, in rank order; no member of it is
still to be made. -/
def execTreeRoundTotal (i : Nat) (parts : List VWord) (s : State) : Out :=
  match s.pkg.trees.find? fun t => t.idx == i && !s.itemsDue t.slot t.low t.share && (t.parts.any fun p => p.1 == t.rounds) && partsAgree s t (s.treeMembers t) parts with
  | none => .refused .notDue
  | some t =>
    match (s.pkg.launch t.slot).bind fun l => l.trees[i]?, (s.treeMembers t).head? with
    | some d, some root =>
      let u := writeTotal s root.aid d (treeTotal d parts.length parts)
      .next ({ u with pkg := { u.pkg with
        trees := u.pkg.trees.map fun x =>
          if x = t then { t with parts := t.parts.filter fun p => p.1 != t.rounds, rounds := t.rounds + 1 } else x } })
    | _, _ => .refused .notDue

/-- ENGINE performed. -/
def performEngine (k : Cmd) (s : State) : Perf :=
  match k.sub with
  | 0 | 1 => performSend k s
  | 2 => performGath k s
  | 3 => performScat k s
  | _ => performTreduce k s

end Sys2Proof.Machine
end

