-- ==== Sys2Proof/Machine/Scan.lean ====
section
/-!
DEFINITION. The SCAN class: operator slots, the fold of a tile, and the ride (16_scan.md R258 to R278).
-/
namespace Sys2Proof.Machine

/-! ### Operators (R259, R260) -/

/-- The micro-ops before the first END. -/
def OpSlot.body (o : OpSlot) : List MicroOp := o.ops.toList.takeWhile fun m => m.op != 0

/-- The slot is well formed (R259). -/
def OpSlot.ok (o : OpSlot) : Bool := o.valid && o.ops.toList.any fun m => m.op == 0

/-- The slot's step cost in cycles (R259). -/
def OpSlot.cost (o : OpSlot) : Nat := max 1 (ceilDiv o.body.length 4)

/-- Roundings of a micro-op (R260). -/
def MicroOp.rounds (m : MicroOp) : Nat :=
  match m.op.val with
  | 2 | 3 | 4 | 5 => 1
  | 9 => 2
  | _ => 0

/-- Roundings of one combination. -/
def OpSlot.rounds (o : OpSlot) : Nat := (o.body.map MicroOp.rounds).sum

/-- The components that a scan writes, in ascending order. -/
def OpSlot.outs (o : OpSlot) : List Nat := (List.range 4).filter fun k => o.out.getLsbD k

/-- The identity's components below nst. -/
def OpSlot.ident (o : OpSlot) : List Nat := (o.idn.toList.take o.nst).map BitVec.toNat

/-- The state of a combination: temporaries, the draws used, flags. -/
structure Comb where
  t : List Nat
  q : Nat
  fl : Flags

/-- An operand: the earlier state, the later state, a temporary; what a list does not hold reads as +0. -/
def Comb.operand (s : Comb) (e l : List Nat) (c : Nat) : Nat :=
  if c < 4 then e.getD c 0 else if c < 8 then l.getD (c - 4) 0 else s.t.getD (c - 8) 0

/-- A rounded result written to temporary t. -/
def Comb.put (s : Comb) (t : Nat) (v : FVal × Flags) : Comb :=
  { t := s.t.set t (FFmt.fp32.pack v.1), q := s.q + 1, fl := s.fl.or v.2 }

/-- An exact sum of two exact products, rounded once (R133). -/
def dot2 (mode : RMode) (u : Nat) (p q : FVal × Flags) : FVal × Flags :=
  let s := addV mode p.1 q.1
  finish .fp32 mode u (s.1, (p.2.or q.2).or s.2)

/-- One micro-op (R260); draws come from place base on. -/
def microStep (rc : RCtx) (base : Nat) (e l : List Nat) (s : Comb) (m : MicroOp) : Comb :=
  let g (c : Nat) : Nat := s.operand e l c
  let v (c : Nat) : FVal := FFmt.fp32.unpack (g c)
  let a := m.a.val
  let b := m.b.val
  let t := m.t.val
  let u := rc.draw (base + s.q)
  let copy (x : Nat) : Comb := { s with t := s.t.set t x }
  match m.op.val with
  | 1 => copy (g a)
  | 2 => s.put t (fadd .fp32 rc.mode u (v a) (v b))
  | 3 => s.put t (fsub .fp32 rc.mode u (v a) (v b))
  | 4 => s.put t (fmul .fp32 rc.mode u (v a) (v b))
  | 5 => s.put t (ffma .fp32 rc.mode u (v a) (v b) (v m.c.val))
  | 6 => copy (FFmt.fp32.pack (fmaxV (v a) (v b)))
  | 7 => copy (FFmt.fp32.pack (fminV (v a) (v b)))
  | 8 => copy (if vlt .pzero (v a) then g b else g m.c.val)
  | 9 =>
    let neg (p : FVal × Flags) : FVal × Flags := (p.1.negate, p.2)
    let re := dot2 rc.mode u (mulV (v a) (v b)) (neg (mulV (v (a + 1)) (v (b + 1))))
    let im := dot2 rc.mode (rc.draw (base + s.q + 1)) (mulV (v a) (v (b + 1))) (mulV (v (a + 1)) (v b))
    (s.put t re).put (t + 1) im
  | 10 => copy (FFmt.fp32.pack (v a).negate)
  | 11 => copy (FFmt.fp32.pack (v a).absv)
  | _ => s

/-- Combine of R120 and R260: the operator run on the earlier and the later state. -/
def combine (o : OpSlot) (rc : RCtx) (base : Nat) (e l : List Nat) : List Nat × Flags :=
  let r := o.body.foldl (microStep rc base e l) { t := List.replicate 8 0, q := 0, fl := noFlags }
  (r.t.take o.nst, r.fl)

/-- Lift of R261. -/
def OpSlot.lift (o : OpSlot) (x : List Nat) : List Nat := x ++ o.ident.drop x.length

/-! ### Whether pass 2 is skipped (R266) -/

/-- A component in the application of the identity to a later state: a number, component k of the later state or its negative, or
something else. -/
inductive Known where
  | is (x : Nat)
  | later (k : Nat) (neg : Bool)
  | other
deriving DecidableEq, Repr

/-- The component is ±0. -/
def Known.zero : Known → Bool
  | .is x => x % 2 ^ 31 == 0
  | _ => false

/-- The sign turned. -/
def Known.negate : Known → Known
  | .is x => .is (FFmt.fp32.pack (FFmt.fp32.unpack x).negate)
  | .later k n => .later k (!n)
  | .other => .other

/-- The result of an operation on two numbers that rounds nothing. -/
def Known.number (r : FVal × Flags) : Option Known := if r.2.nx then none else some (.is (FFmt.fp32.pack r.1))

/-- A product that needs no rounding: with 0, with ±1, or of numbers. -/
def Known.mul (a b : Known) : Option Known :=
  if a.zero || b.zero then some (.is 0)
  else
    match a, b with
    | .is x, .is y => Known.number (fmul .fp32 .rne 0 (FFmt.fp32.unpack x) (FFmt.fp32.unpack y))
    | .is x, k | k, .is x => if x = 0x3F800000 then some k else if x = 0xBF800000 then some k.negate else none
    | _, _ => none

/-- A sum that needs no rounding: with 0, or of numbers. -/
def Known.add (a b : Known) : Option Known :=
  match a, b with
  | .is x, .is y => Known.number (fadd .fp32 .rne 0 (FFmt.fp32.unpack x) (FFmt.fp32.unpack y))
  | _, _ => if a.zero then some b else if b.zero then some a else none

/-- The larger or the smaller: a bound that nothing passes gives the other. -/
def Known.pick (bound : Nat) (f : FVal → FVal → FVal) (a b : Known) : Known :=
  match a, b with
  | .is x, .is y => .is (FFmt.fp32.pack (f (FFmt.fp32.unpack x) (FFmt.fp32.unpack y)))
  | .is x, k | k, .is x => if x = bound then k else .other
  | _, _ => if a = b then a else .other

/-- One micro-op on such components; none: it may round. -/
def knownStep (e : List Nat) (t : List Known) (m : MicroOp) : Option (List Known) :=
  let g (c : Nat) : Known := if c < 4 then .is (e.getD c 0) else if c < 8 then .later (c - 4) false else t.getD (c - 8) (.is 0)
  let a := g m.a.val
  let b := g m.b.val
  let put (k : Option Known) : Option (List Known) := k.map fun k => t.set m.t.val k
  match m.op.val with
  | 1 => put (some a)
  | 2 => put (a.add b)
  | 3 => put (a.add b.negate)
  | 4 => put (a.mul b)
  | 5 => put ((a.mul b).bind fun p => p.add (g m.c.val))
  | 6 => put (some (Known.pick 0xFF800000 fmaxV a b))
  | 7 => put (some (Known.pick 0x7F800000 fminV a b))
  | 8 => put (some (match a with
      | .is x => if vlt .pzero (FFmt.fp32.unpack x) then b else g m.c.val
      | _ => if b = g m.c.val then b else .other))
  | 9 =>
    let a1 := g (m.a.val + 1)
    let b1 := g (m.b.val + 1)
    (match (a.mul b).bind fun p => (a1.mul b1).bind fun q => p.add q.negate, (a.mul b1).bind fun p => (a1.mul b).bind p.add with
     | some x, some y => some ((t.set m.t.val x).set (m.t.val + 1) y)
     | _, _ => none)
  | 10 => put (some a.negate)
  | _ => put (some (match a with | .is x => .is (x % 2 ^ 31) | _ => .other))

/-- The operator's combination with its identity gives the later state, and rounds nothing, up to the sign of a zero and what infinities
and NaNs give (DEDUCED, log entry 19). -/
def OpSlot.exact (o : OpSlot) : Bool :=
  match o.body.foldl (fun t m => t.bind fun t => knownStep o.ident t m) (some (List.replicate 8 (.is 0))) with
  | some t => (List.range o.nst).all fun k => t.getD k .other == .later k false
  | none => false

/-! ### The fold of a lane (R265, R267) -/

/-- The local prefixes of the steps from number s on: each step its reset bit and its input. -/
def prefixes (o : OpSlot) (rc : RCtx) (at_ : Nat → Nat) : Nat → Option (List Nat) → List (Bool × List Nat) → List (List Nat × Flags)
  | _, _, [] => []
  | s, prev, (rst, x) :: t =>
    let p :=
      match prev with
      | some q => if rst then (o.lift x, noFlags) else combine o rc (at_ s) q (o.lift x)
      | none => (o.lift x, noFlags)
    p :: prefixes o rc at_ (s + 1) (some p.1) t

/-- Pass 1 of a lane: its reset mark and its local prefixes. at_ s is the first draw of the lane's element at step s. -/
def passOne (o : OpSlot) (rc : RCtx) (at_ : Nat → Nat) (l : List (Bool × List Nat)) : (Nat × List (List Nat)) × Flags :=
  let ps := prefixes o rc at_ 0 none l
  (((l.findIdx? fun x => x.1).getD l.length, ps.map Prod.fst), flagsOf (ps.map Prod.snd))

/-- Pass 2 of a lane with its carry in, m the operator's roundings: the states written. -/
def passTwo (o : OpSlot) (rc : RCtx) (at_ : Nat → Nat) (m : Nat) (cin : List Nat) (p : Nat × List (List Nat)) : List (List Nat) × Flags :=
  let ys := (List.range p.2.length).zip p.2 |>.map fun q => if q.1 < p.1 then combine o rc (at_ q.1 + m) cin q.2 else (q.2, noFlags)
  (ys.map Prod.fst, flagsOf (ys.map Prod.snd))

/-- The carry out of a lane. -/
def carryOut (o : OpSlot) (rc : RCtx) (at_ : Nat → Nat) (cin : List Nat) (p : Nat × List (List Nat)) : List Nat × Flags :=
  let agg := p.2.getLastD []
  if p.1 < p.2.length then (agg, noFlags) else combine o rc (at_ p.2.length) cin agg

/-- What a lane's fold gives: the states written, the carry out, the flags. -/
structure FoldOut where
  ys : List (List Nat)
  cout : List Nat
  fl : Flags
deriving DecidableEq, Repr

/-- The fold of one lane with its carry in; carry tells whether cout is computed. -/
def foldLane (o : OpSlot) (rc : RCtx) (at_ : Nat → Nat) (m : Nat) (carry : Bool) (cin : List Nat) (l : List (Bool × List Nat)) :
    FoldOut :=
  let p := passOne o rc at_ l
  let y := passTwo o rc at_ m cin p.1
  let c := if carry then carryOut o rc at_ cin p.1 else ([], noFlags)
  { ys := y.1, cout := c.1, fl := (p.2.or y.2).or c.2 }

/-! ### SCAN and SCANC performed (R263 to R271) -/

/-- The addresses of the steps and components of a tile: step s, component k, as scratchpad offsets. -/
def Cmd.tile (k : Cmd) (r : LRec) (s c : Nat) : Nat := k.base + (r.row s c).toNat

/-- The scratchpad offset of component c of lane l in the carry record. -/
def Cmd.carryAt (k : Cmd) (r : LRec) (l c : Nat) : Nat := k.base + r.aux1.toNat + 64 * c + 4 * l

/-- The carry that a lane takes from the hop, as a state of the receiver's operator (R269). -/
def OpSlot.adapt (o : OpSlot) (carry : List (BitVec 32)) : List Nat := o.lift ((carry.map BitVec.toNat).take o.nst)

/-- The carry record's lane. -/
def carryLane (k : Cmd) (r : LRec) (o : OpSlot) (c : Core) (l : Nat) : List Nat :=
  (List.range o.nst).map fun i => leNat (c.readScratch (k.carryAt r l i) 4)

/-- The bytes that a fold reads: inputs, mask, and the lanes of the carry record. -/
def foldReads (k : Cmd) (r : LRec) (o : OpSlot) (lanes : List Nat) : List (Nat × Nat) :=
  ((List.range r.e1).flatMap fun s =>
      (List.range r.e2).map (fun c => (k.tile r s c, 4 * r.e0))
        ++ (if k.x.w2f 4 1 = 1 then [(k.base + k.sb.toNat + 2 * s, 2)] else []))
    ++ lanes.flatMap fun l => (List.range o.nst).map fun c => (k.carryAt r l c, 4)

/-- The steps of a lane: its reset bits and inputs. -/
def laneSteps (k : Cmd) (r : LRec) (c : Core) (l : Nat) : List (Bool × List Nat) :=
  (List.range r.e1).map fun s =>
    (k.x.w2f 4 1 == 1 && bitAt (leNat (c.readScratch (k.base + k.sb.toNat + 2 * s) 2)) l,
     (List.range r.e2).map fun i => leNat (c.readScratch (k.tile r s i + 4 * l) 4))

/-- The first draw of a lane's element at step s (R267). -/
def Cmd.drawAt (k : Cmd) (m l s : Nat) : Nat := (16 * k.ix + l + 16 * k.g * s) * (2 * m)

/-- The folds of the computed lanes with their carries in. -/
def foldLanes (k : Cmd) (r : LRec) (o : OpSlot) (carry : Bool) (cin : Nat → List Nat) (c : Core) : List FoldOut :=
  let m := o.rounds
  (List.range r.e0).map fun l => foldLane o k.rc (k.drawAt m l) m carry (cin l) (laneSteps k r c l)

/-- The outputs of a fold written, step by step. -/
def writeFold (k : Cmd) (r : LRec) (o : OpSlot) (ls : List FoldOut) (s : State) : State :=
  let d : LRec := { r with base := r.aux0 }
  (List.range r.e1).foldl (fun s st =>
    ((List.range o.outs.length).zip o.outs).foldl (fun s q =>
      s.engineWrite k (k.tile d st q.1) (ls.flatMap fun x => leBytes 4 ((x.ys.getD st []).getD q.2 0))) s) s

/-- Lanes of the carry record written: from lane 0 up, each its components. -/
def writeCarry (k : Cmd) (r : LRec) (o : OpSlot) (cs : List (List Nat)) (s : State) : State :=
  (List.range o.nst).foldl (fun s c => s.engineWrite k (k.carryAt r 0 c) (cs.flatMap fun x => leBytes 4 (x.getD c 0))) s

/-- SCAN performed (R266). All inputs of the tile are read before its first output is written (DESIGN CHOICE: R263 orders only a step's own
inputs before its outputs, log entry 58). -/
def performScan1 (k : Cmd) (r : LRec) (o : OpSlot) (s : State) : Perf :=
  let c1 := k.x.w2f 3 1 == 1
  if r.empty then .ok s {}
  else
  match engineReads k (foldReads k r o (if c1 then List.range r.e0 else [])) s with
  | .error (t, v) => .fault t .memerr v
  | .ok t =>
    let ls := foldLanes k r o c1 (fun l => if c1 then carryLane k r o t.core l else o.ident) t.core
    let u := writeFold k r o ls t
    .ok (if c1 then writeCarry k r o (ls.map fun x => x.cout) u else u) { flags := flagsOf (ls.map fun x => x.fl) }

/-- A queued command's scan work changed. -/
def State.setScan (s : State) (k : Cmd) (w : ScanWork) : State :=
  s.mapCore fun c => { c with cmds := c.cmds.map fun e => if e.serial = k.serial then { e with scan := some w } else e }

/-- Phase 2 of a SCANC (R270): pass 1 over its bytes, and the carry record of member 0 with them. A tile of no steps has no lanes to
compute: every lane passes its carry on (04_formats.md R78, log entry 45). -/
def scancPassOne (k : Cmd) (r : LRec) (o : OpSlot) (rd : Ride) (s : State) : Perf :=
  if r.empty then .more (s.setScan k { lanes := [], fl := noFlags })
  else
    let lanes := if rd.pos = 0 ∧ k.x.w2f 3 1 = 1 then List.range 16 else []
    match engineReads k (foldReads k r o lanes) s with
    | .error (t, v) => .fault t .memerr v
    | .ok t =>
      let ps := (List.range r.e0).map fun l => passOne o k.rc (k.drawAt o.rounds l) (laneSteps k r t.core l)
      .more (t.setScan k { lanes := ps.map Prod.fst, fl := flagsOf (ps.map Prod.snd), record := lanes.map (carryLane k r o t.core) })

/-- The carry that lane l of a SCANC takes in: from the hop (with no carry, the identity), or for member 0 the identity or its carry
record's. -/
def ScanWork.carryIn (w : ScanWork) (o : OpSlot) (rd : Ride) (l : Nat) : List Nat :=
  if rd.pos ≠ 0 then o.adapt ((rd.hop.headD []).getD l []) else w.record.getD l o.ident

/-- The carries out of a SCANC's 16 lanes, with their flags: an uncomputed lane passes its carry on (R269). -/
def ScanWork.couts (w : ScanWork) (k : Cmd) (o : OpSlot) (cin : List (List Nat)) : List (List Nat × Flags) :=
  (List.range 16).map fun l =>
    match w.lanes[l]? with
    | some p => carryOut o k.rc (k.drawAt o.rounds l) (cin.getD l []) p
    | none => (cin.getD l [], noFlags)

/-- Phases 3 and 4 of a SCANC: the carry in is taken, and cout goes on to the successor. -/
def scancHandOn (k : Cmd) (o : OpSlot) (a : Actor) (rd : Ride) (w : ScanWork) (s : State) : Perf :=
  if rideWaits s k then .notYet
  else
    let ch := k.x.w2f 5 1
    let cin := (List.range 16).map (w.carryIn o rd)
    let cs := w.couts k o cin
    let t := s.mapCore fun c => c.mapActor k.aid fun a => a.mapRide ch fun q => { q with hop := if rd.pos = 0 then q.hop else q.hop.drop 1, sent := q.sent + 1 }
    let t := t.sendCarry a ch (cs.map fun x => x.1.map (BitVec.ofNat 32))
    .more (t.setScan k { w with cin := some cin, fl := w.fl.or (flagsOf (cs.map Prod.snd)) })

/-- Phases 5 and 6 of a SCANC: pass 2, and what its commit writes. -/
def scancPassTwo (k : Cmd) (r : LRec) (o : OpSlot) (w : ScanWork) (cin : List (List Nat)) (s : State) : Perf :=
  let m := o.rounds
  let ys := (List.range w.lanes.length).zip w.lanes |>.map fun p => passTwo o k.rc (k.drawAt m p.1) m (cin.getD p.1 []) p.2
  let u := writeFold k r o (ys.map fun y => { ys := y.1, cout := [], fl := y.2 }) s
  let u := if k.x.w2f 3 1 = 1 ∧ r.empty = false then writeCarry k r o ((w.couts k o cin).map Prod.fst) u else u
  let u := u.mapCore fun c => c.mapActor k.aid fun a => a.mapRide (k.x.w2f 5 1) fun q => { q with rounds := q.rounds + 1 }
  .ok u { flags := w.fl.or (flagsOf (ys.map Prod.snd)) }

/-- SCANC performed (R269, R270), one phase after the other. -/
def performScanc (k : Cmd) (r : LRec) (o : OpSlot) (s : State) : Perf :=
  match (s.core.actor k.aid).bind fun a => (a.ride (k.x.w2f 5 1)).map fun rd => (a, rd) with
  | none => .ok s {}
  | some (a, rd) =>
    match k.scan with
    | none => scancPassOne k r o rd s
    | some w => match w.cin with | none => scancHandOn k o a rd w s | some cin => scancPassTwo k r o w cin s

/-- SCAN class performed. -/
def performScanClass (k : Cmd) (s : State) : Perf :=
  match k.lrec, k.op with
  | some r, some o => if k.sub = 1 then performScan1 k r o s else performScanc k r o s
  | _, _ => .ok s {}

/-! ### SCOP (R262) -/

/-- A slot of the core changed. -/
def Core.mapSlot (c : Core) (i : Nat) (f : OpSlot → OpSlot) : Core :=
  { c with slots := c.slots.set (Fin.ofNat 8 i) (f c.slots[Fin.ofNat 8 i]) }

/-- SCOP of a micro-op (R262). -/
def execScop (x : XOp) (s : State) : Out :=
  xissue 13 0 x (decide (x.w2f 28 4 ≠ 12) && decide (x.w2f 28 4 ≠ 13)) []
    (fun s => .done (s.mapCore fun c => c.mapSlot (x.w2f 0 3) fun o =>
      { o with ops := o.ops.set (Fin.ofNat 16 (x.w2f 8 4)) { op := Fin.ofNat 16 (x.w2f 28 4), c := Fin.ofNat 16 (x.w2f 24 4), b := Fin.ofNat 16 (x.w2f 20 4), a := Fin.ofNat 16 (x.w2f 16 4), t := Fin.ofNat 8 (x.w2f 13 3) } })) s

/-- SCOP of a header (R262). -/
def execScophdr (x : XOp) (s : State) : Out :=
  xissue 13 0 x (decide (x.w2f 28 4 = 12)) []
    (fun s => .done (s.mapCore fun c => c.mapSlot (x.w2f 0 3) fun o =>
      { o with valid := true, nst := x.w2f 16 4, nin := x.w2f 20 4, out := BitVec.ofNat 4 (x.w2f 24 4) })) s

/-- SCOP of an identity component (R262). -/
def execScopid (x : XOp) (s : State) : Out :=
  xissue 13 0 x (decide (x.w2f 28 4 = 13)) [x.a]
    (fun s => .done (s.mapCore fun c => c.mapSlot (x.w2f 0 3) fun o =>
      { o with idn := o.idn.set (Fin.ofNat 4 (x.w2f 13 3)) ((c.regs.rs x.a).setWidth 32) })) s

/-! ### SCAN and SCANC issued (R263, R264, R267, R275) -/

/-- The input and output ranges of a tile, then the mask's and the carry record's: the first fault with its address. -/
def scanRanges (x : XOp) (r d : LRec) (s : State) : Except (Cause × Word) (List Range × List Range) :=
  match localRec s r 8 0, localRec s d 8 0 with
  | .error c, _ => .error (c, r.base)
  | _, .error c => .error (c, d.base)
  | .ok i, .ok o =>
    match (if x.w2f 4 1 = 1 then (denseRange s (s.rs x.b) (2 * r.e1) 2).map some else .ok none) with
    | .error e => .error e
    | .ok m =>
      match (if x.w2f 3 1 = 1 then (denseRange s r.aux1 256 64).map some else .ok none) with
      | .error e => .error e
      | .ok c => .ok (i.toList ++ m.toList ++ c.toList, o.toList ++ c.toList)

/-- The output overlaps the input in a way that R263 forbids. -/
def scanOverlap (r d : LRec) : Bool :=
  let a := r.bounds 8 0
  let b := d.bounds 8 0
  r.aux0 != r.base && decide (a.1 < b.2) && decide (b.1 < a.2)

/-- What a scan asks the clearing for, for each pass that it runs (R275). -/
def scanEnergy (sub : Nat) (x : XOp) (r : LRec) (o : OpSlot) : Nat := r.e1 * o.cost * (if sub = 1 ∧ x.w2f 3 1 = 0 ∧ o.exact then 1 else 2)

/-- SCAN and SCANC in one member. A tile of no steps issues and touches nothing (04_formats.md R78). -/
def scanIssue (sub : Nat) (x : XOp) (s : State) : R :=
  let r := s.core.regs.lrec x.l.val
  let slot := x.w2f 0 3
  let o := s.core.slots[Fin.ofNat 8 slot]
  let d : LRec := { r with base := r.aux0, e2 := o.outs.length }
  let k : Req := { q := .s, cls := 13, sub := sub, x := x, lrec := some r, op := some o, lanes := 16 * s.gangSize * (r.e1 + 1) * (2 * o.rounds) }
  if r.ty ≠ 8 ∨ r.plain = false ∨ r.e0 < 1 ∨ 16 < r.e0 then illopX 13 sub x s
  else if o.ok = false then .trap s .scslot (BitVec.ofNat 64 slot)
  else if r.e2 ≠ o.nin then illopX 13 sub x s
  else if r.empty then place k s
  else if scanOverlap r d then illopX 13 sub x s
  else
    match scanRanges x r d s with
    | .error (c, v) => .trap s c v
    | .ok (rd, wr) =>
      place { k with reads := rd, writes := wr, grant := if 64 < r.e1 then .toAsk (scanEnergy sub x r o) else .notNeeded } s

/-- The scalar registers that a scan reads. -/
def scanRegs (x : XOp) : List SReg := lrecRegs x.l.val ++ (if x.w2f 4 1 = 1 then [x.b] else [])

/-- SCAN (R266). -/
def execScan (x : XOp) (s : State) : Out := xissue 13 1 x true (scanRegs x) (scanIssue 1 x) s

/-- The running actor's place on a chain. -/
def Core.myRide (c : Core) (ch : Nat) : Option Ride :=
  match c.act with
  | some a => (match a.src with | .message _ _ => c.self.bind fun b => b.ride ch | .task _ => none)
  | none => none

/-- SCANC (R269): NODECL for an actor that is not a member (DEDUCED: before the record's checks, log entry 19). -/
def execScanc (x : XOp) (s : State) : Out :=
  xissue 13 2 x true (scanRegs x)
    (fun s =>
      if (s.core.myRide (x.w2f 5 1)).isNone then .trap s .nodecl (BitVec.ofNat 64 (x.w2f 5 1)) else scanIssue 2 x s) s

/-! ### RIDE, RBAR, SCWAIT (R268, R272, R273) -/

/-- RIDE in one member (R268): in a gang the leader's membership is the gang's. -/
def ridePart (ch : Nat) (s : State) : R :=
  let no : R := .trap s .nodecl (BitVec.ofNat 64 ch)
  match s.core.act, s.core.self with
  | some act, some me =>
    (match act.src with
     | .task _ => no
     | .message _ _ =>
       match s.rideLevel me.slot ch with
       | none => no
       | some (h, lv) =>
         if h.item me.wid (s.core.regs.gangix == 0) = false then no
         else if (me.ride ch).isSome then .done s
         else .done (s.mapCore fun c => c.mapActor me.aid fun a => a.joinRide ch h lv))
  | _, _ => no

/-- RIDE (R268). -/
def execRide (x : XOp) (s : State) : Out := xissue 13 3 x true [] (ridePart (x.w2f 0 1)) s

/-- The phase that RBAR waits for on a chain, if it has arrived. -/
def Core.rbarPhase (c : Core) (ch : Nat) : Option Nat := c.act.bind fun a => (a.rbar.find? fun p => p.1 == ch).map Prod.snd

/-- The phase noted, or (none) forgotten. -/
def Core.setRbar (c : Core) (ch : Nat) (p : Option Nat) : Core :=
  { c with act := c.act.map fun a => { a with rbar := (p.map fun n => (ch, n)).toList ++ a.rbar.filter fun q => q.1 != ch } }

/-- RBAR after its arrival: it completes when the phase is released. -/
def rbarWait (x : XOp) (ch p released : Nat) (s : State) : R :=
  if p ≤ released then .done (s.mapCore fun c => c.setRbar ch none) else .wait (s.await (.rbar ch) 0 (XOp.bytes x))

/-- No S command of the running actor, or of its gang, is queued. -/
def State.scansDone (s : State) : Bool :=
  s.together.all fun c => (c.queue .s).all fun k => k.aid != c.regs.aid

/-- RBAR in one member (R272): the leader's in a gang. -/
def rbarPart (x : XOp) (s : State) : R :=
  let ch := x.w2f 0 1
  if s.core.ganged ∧ s.core.regs.gangix ≠ 0 then .done s
  else
    match s.core.myRide ch with
    | none => .trap s .nodecl (BitVec.ofNat 64 ch)
    | some r =>
      match s.core.rbarPhase ch with
      | some p => rbarWait x ch p r.released s
      | none =>
        if s.scansDone = false then .hold
        else
          rbarWait x ch (r.arrived + 1) r.released
            (s.mapCore fun c =>
              (c.mapActor c.regs.aid fun a => a.mapRide ch fun q => { q with arrived := q.arrived + 1 }).setRbar ch (some (r.arrived + 1)))

/-- RBAR (R272). -/
def execRbar (x : XOp) (s : State) : Out := xissue 13 4 x true [] (rbarPart x) s

/-- SCWAIT (R273). -/
def execScwait (x : XOp) (s : State) : Out :=
  xissue 13 5 x true [x.d]
    (fun s =>
      if s.core.queue .s ≠ [] then .hold
      else
        .done (s.ws x.d (BitVec.ofNat 64 ((match s.core.myRide (x.w2f 0 1) with | some r => r.rounds | none => 0) % 2 ^ 32)))) s

/-- What a wait for a ride phase comes to now; none: it goes on. -/
def pollRide (s : State) : Option R :=
  match s.core.await with
  | some { kind := .rbar ch, .. } =>
    (match s.core.myRide ch, s.core.rbarPhase ch with
     | some r, some p => if p ≤ r.released then some (.done (s.mapCore fun c => c.setRbar ch none)) else none
     | _, _ => none)
  | _ => none

/-! ### Events of the ride -/

/-- The member of a chain that follows an actor, when the state holds it. -/
def State.nextOf (s : State) (a : Actor) (ch : Nat) : Option Actor :=
  match s.nextHop a ch with
  | .actor b => some b
  | _ => none

/-- An actor that the state holds, and its place on a chain. -/
def State.rider (s : State) (aid : BitVec 24) (ch : Nat) : Option (Actor × Ride) :=
  (s.heldActors.find? fun a => a.aid == aid).bind fun a => (a.ride ch).map fun r => (a, r)

/-- The state holds the member before an actor, and the actor has received all that it handed on: the carries to come are from its own S
engine. One that stood beyond the state at a member since destroyed still arrives (R271). -/
def State.holdsPredecessor (s : State) (a : Actor) (ch : Nat) : Bool :=
  s.heldActors.any fun b => (s.nextOf b ch) == some a && decide ((match b.ride ch with | some r => r.sent | none => 0) ≤ a.received ch)

/-- RIDE_CARRY_ARRIVAL (R269, R270): a carry of 16 lanes reaches the hop buffer of a member, which may yet execute RIDE; a full
buffer takes none. -/
def execRideCarryArrival (aid : Nat) (ch : Fin 2) (carry : List (List (BitVec 32))) (s : State) : Out :=
  match s.heldActors.find? fun a => a.aid == BitVec.ofNat 24 aid with
  | none => .refused .notDue
  | some a =>
    match s.rideLevel a.slot ch with
    | none => .refused .notDue
    | some (h, lv) =>
      if h.item a.wid false = false ∨ h.chainPos lv a.wid = 0 ∨ carry.length ≠ 16 ∨ 4 ≤ (a.hopOf ch).length ∨ s.holdsPredecessor a ch ∨ s.headless a ch then
        .refused .notDue
      else .next (s.mapAnyActor a.aid fun a => a.takeCarry ch carry)

/-- The WIDs of the places of an actor's chain, each with its gang's (R37). -/
def Header.chainWids (h : Header) (lv : Nat) (wid : Word) : List Nat :=
  (List.range (h.chainLen lv)).flatMap fun p =>
    (List.range h.gang).map fun j => h.chain lv wid + p * h.chainStep lv + j

/-- The phase after number n may be released at one place of a chain (R271, R272): its member passes everything; or it stands in the
state with an empty hop buffer and, where it leads, has arrived; or it stands beyond the state, where away allows that. -/
def State.seatReady (s : State) (slot : BitVec 12) (h : Header) (ch n : Nat) (away : Bool) (wid : Nat) : Bool :=
  s.passes slot wid
    || (match s.actorOfWid slot wid with
        | none => false
        | some e =>
          match s.heldActors.find? fun a => a.aid == e.aid with
          | none => away
          | some a => a.hopOf ch == [] && (wid % h.gang != 0 || (match a.ride ch with | some r => decide (n < r.arrived) | none => false)))

/-- The present phase of an actor's chain may be released. -/
def State.chainReady (s : State) (a : Actor) (r : Ride) (ch : Nat) (away : Bool) : Bool :=
  match s.rideLevel a.slot ch with
  | none => false
  | some (h, lv) => (h.chainWids lv a.wid).all fun w => s.seatReady a.slot h ch r.released away w

/-- The members of an actor's chain that the state holds. -/
def State.chainMembers (s : State) (a : Actor) (ch : Nat) : List (Actor × Ride) :=
  match s.rideLevel a.slot ch with
  | none => []
  | some (h, lv) =>
    s.heldActors.filterMap fun b =>
      if b.slot = a.slot ∧ h.chain lv b.wid = h.chain lv a.wid then (b.ride ch).map fun r => (b, r) else none

/-- RBAR_RELEASE (R272): every member that the state holds has arrived, and their hop buffers are empty; the phase is released to them.
Members beyond the state arrive with the event. -/
def execRbarRelease (aid : Nat) (ch : Fin 2) (s : State) : Out :=
  match s.rider (BitVec.ofNat 24 aid) ch with
  | none => .refused .notDue
  | some (a, r) =>
    if s.chainReady a r ch true then
      .next ((s.chainMembers a ch).foldl (fun s p => s.mapAnyActor p.1.aid fun b => b.mapRide ch fun q => { q with released := r.released + 1 }) s)
    else .refused .notDue

end Sys2Proof.Machine
end

