-- ==== Sys2Proof/Machine/Law.lean ====
section
/-!
DEFINITION. The LAW class, the sweeper and the crossing unit (14_lawstate.md R228 to R257).
-/
namespace Sys2Proof.Machine

/-! ### Crossings handed over (R239) -/

/-- A crossing appended to the crossing unit's queue. -/
def State.handOver (s : State) (x : Crossing) : State := { s with grove := { s.grove with crossings := s.grove.crossings ++ [x] } }

/-- The entry that a law word names. -/
def State.lawEntry (s : State) (lo : Word) : BitVec 256 := s.grove.lawTab[lwIndex lo]

/-! ### Commands performed (R246 to R252) -/

/-- The values of a law command written to d, and d + 1 for W128; d = 0 writes neither (R246). -/
def writeLaw (k : Cmd) (wide : Bool) (re im : Nat) (s : State) : State :=
  let d := k.x.d
  if d = 0 then s
  else
    let t := s.ws d (BitVec.ofNat 64 re)
    if wide then t.ws (d + 1) (BitVec.ofNat 64 im) else t

/-- LLD, LADD and LREB performed: the evaluation, the crossing, and but for LLD the rebase (R246, R248). LREB adds +0,
so a stored −0 becomes the +0 of R133's sum but under RDN (DEDUCED from R248 and R133, against R257's equality for this one value, log entry 20). -/
def performLawRead (k : Cmd) (s : State) : Perf :=
  let wide := k.x.w2f 0 1 == 1
  let p := k.base + k.lawEa.toNat
  match engineReads k [(p, if wide then 16 else 8)] s with
  | .error (t, v) => .fault t .memerr v
  | .ok t =>
    let lo := t.core.word p
    let hi := t.core.word (p + 8)
    let entry := t.lawEntry lo
    let l := lawOf entry
    let d := lawAge t.grove.lawnow lo
    if l.wide ≠ wide then .fault t .lkind k.lawEa
    else
      let cr := lawCrosses l lo hi d
      if cr ∧ t.grove.crossFull then .notYet
      else
        let a := lawAdvance l k.rc.mode lo hi d
        let add (w : Word) : Option FVal := if k.sub = 0 then none else some (if k.sub = 2 then FFmt.ofWord .fp32 w else .pzero)
        let re := lawRound k.rc.mode (k.rc.draw 0) (add k.sb) a.1
        let im := lawRound k.rc.mode (k.rc.draw 1) (add k.sc) a.2
        let t := if cr then t.handOver { lo := lo, hi := hi, entry := entry, age := d, lawnow := t.grove.lawnow, offset := BitVec.ofNat 32 (p - k.base), owner := k.aid, slot := k.slot, sweep := false } else t
        let lowWord := if k.sub = 0 then lwFire lo else lwBase re.1 t.grove.lawnow (lwFired lo || cr) (lwIndex lo)
        let t := if k.sub = 0 ∧ cr = false then t else t.engineWrite k p (leBytes 8 lowWord.toNat)
        let t := if k.sub ≠ 0 ∧ wide then t.engineWrite k (p + 12) (leBytes 4 im.1) else t
        .ok (writeLaw k wide re.1 im.1 t) { flags := re.2.or (if wide then im.2 else noFlags) }

/-- LST performed (R247). -/
def performLst (k : Cmd) (s : State) : Perf :=
  let wide := k.x.w2f 0 1 == 1
  let p := k.base + k.lawEa.toNat
  let idx := k.x.w2f 8 8
  if (lawOf s.grove.lawTab[Fin.ofNat 256 idx]).wide ≠ wide then .fault s .lkind k.lawEa
  else
    let lo := lwBase (bitsOf k.sb.toNat 0 32) s.grove.lawnow false idx
    let hi : Nat := bitsOf k.sc.toNat 0 32 * 2 ^ 32
    .ok (s.engineWrite k p (leBytes 8 lo.toNat ++ (if wide then leBytes 8 hi else []))) {}

/-- LSET performed (R249): a refused entry raises LTAB. -/
def performLset (k : Cmd) (s : State) : Perf :=
  let p := k.base + k.lawEa.toNat
  match engineReads k [(p, 32)] s with
  | .error (t, v) => .fault t .memerr v
  | .ok t =>
    let e := BitVec.ofNat 256 (leNat (t.core.readScratch p 32))
    if lawOk e then .ok { t with grove := { t.grove with lawTab := t.grove.lawTab.set (Fin.ofNat 256 (k.x.w2f 8 8)) e } } {}
    else .fault t .ltab k.lawEa

/-- LGET performed (R249). -/
def performLget (k : Cmd) (s : State) : Perf :=
  .ok (s.engineWrite k (k.base + k.lawEa.toNat) (leBytes 32 (s.grove.lawTab[Fin.ofNat 256 (k.x.w2f 8 8)]).toNat)) {}

/-! ### The sweeper (R242, R243) -/

/-- The kind of a word as the sweeper sees it. -/
def State.wideAt (s : State) (c : Core) (p : Nat) : Bool := (lawOf (s.lawEntry (c.word p))).wide

/-- The sweeper visits the word at an offset of a region from lo up (R242). -/
def State.visits (s : State) (c : Core) (lo p : Nat) : Bool :=
  p % 16 == 0 || (!s.wideAt c p && !(decide (lo + 8 ≤ p) && s.wideAt c (p - 8)))

/-- The visited words of a region. -/
def State.regionWords (s : State) (c : Core) (r : Range) : List Nat :=
  ((List.range ((r.hi - r.lo) / 8)).map fun i => r.lo + 8 * i).filter fun p => s.visits c r.lo p

/-- The sweep regions that are swept: those of a task that is saved are not. -/
def Grove.swept (g : Grove) : List Sweep := (g.sweeps.toList.filterMap id).filter fun w => w.parked.isNone

/-- Every registered word that the state holds stays below 2^22 when LAWNOW advances by n (R243). -/
def State.tickFree (s : State) (n : Nat) : Bool :=
  s.grove.swept.all fun w =>
    match s.cores.find? fun c => c.ix == w.core with
    | none => true
    | some c => (s.regionWords c w.bytes).all fun p => decide (lawAge s.grove.lawnow (c.word p) + n < 2 ^ 22)

/-- LTICK performed (R250): n = 0 does nothing in any mode. -/
def performLtick (k : Cmd) (s : State) : Perf :=
  let n := k.sa.toNat
  if n = 0 then .ok s {}
  else if 65536 < n ∨ s.grove.lawMode ≠ .ltickOnly then .fault s .lclock k.sa
  else if s.tickFree n = false then .notYet
  else .ok { s with grove := { s.grove with lawnow := s.grove.lawnow + BitVec.ofNat 48 n } } {}

/-- LNOW performed (R251). -/
def performLnow (k : Cmd) (s : State) : Perf := .ok (s.ws k.x.d (s.grove.lawnow.setWidth 64)) {}

/-- The first free sweep region. -/
def Grove.freeSweep (g : Grove) : Option Nat := g.sweeps.toList.findIdx? fun o => o.isNone

/-- LREG performed (R252): the lowest free index (DESIGN CHOICE, log entry 20). The region of a task that has ended, or of an
actor that is gone, is freed at once (R242). -/
def performLreg (k : Cmd) (s : State) : Perf :=
  match s.grove.freeSweep with
  | none => .ok (s.ws k.x.d (BitVec.ofNat 64 (2 ^ 64 - 1))) {}
  | some i =>
    let lives := if k.aid = 0 then s.core.act.isSome && s.core.regs.aid == 0 else (s.core.actor k.aid).isSome
    let r : Range := { lo := k.base + k.sa.toNat, hi := k.base + k.sa.toNat + k.sb.toNat }
    let w : Sweep := { core := s.core.ix, aid := k.aid, base := k.base, bytes := r }
    let t : State := { s with grove := { s.grove with sweeps := s.grove.sweeps.set (Fin.ofNat 16 i) (if lives then some w else none) } }
    .ok (t.ws k.x.d (BitVec.ofNat 64 i)) {}

/-- LREGF performed (R252). -/
def performLregf (k : Cmd) (s : State) : Perf :=
  let i : Fin 16 := Fin.ofNat 16 k.sa.toNat
  match s.grove.sweeps[i] with
  | none => .fault s .ltab k.lawEa
  | some w =>
    if w.aid = k.aid ∧ (k.aid ≠ 0 ∨ (w.core = s.core.ix ∧ w.parked = none)) then .ok { s with grove := { s.grove with sweeps := s.grove.sweeps.set i none } } {}
    else .fault s .ltab k.lawEa

/-- LAW performed. -/
def performLaw (k : Cmd) (s : State) : Perf :=
  match k.sub with
  | 0 | 2 | 3 => performLawRead k s
  | 1 => performLst k s
  | 4 => performLset k s
  | 5 => performLget k s
  | 6 => performLtick k s
  | 7 => performLnow k s
  | _ => if k.x.w2f 1 1 = 1 then performLregf k s else performLreg k s

/-! ### Issue (R245) -/

/-- The address of a law instruction. -/
def XOp.lawEa (x : XOp) (r : Regs) : Word := r.rs x.a + sxtWord 16 (x.w2f 16 16)

/-- A law command on n bytes aligned to n, in one member. -/
def lawIssue (sub n : Nat) (x : XOp) (wr : Bool) (lanes : Nat) (dst : List SReg) (s : State) : R :=
  let ea := XOp.lawEa x s.core.regs
  match localSpan s ea n n with
  | .error c => .trap s c ea
  | .ok g =>
    place { q := .l, cls := 14, sub := sub, x := x, reads := if wr then [] else [g], writes := if wr then [g] else [], dst := dst
            lanes := lanes } s

/-- W of a law instruction. -/
def lawWide (x : XOp) : Bool := x.w2f 0 1 == 1

/-- The registers that a law instruction writes. -/
def lawDst (x : XOp) : List SReg := if lawWide x && x.d != 0 then [x.d, x.d + 1] else [x.d]

/-- LLD, LADD, LREB: one or two draws (R235). -/
def lawRead (sub : Nat) (x : XOp) (regs : List SReg) (s : State) : Out :=
  let n := if lawWide x then 16 else 8
  xissue 14 sub x true (x.a :: regs ++ lawDst x) (lawIssue sub n x true (if lawWide x then 2 else 1) (lawDst x)) s

/-- LLD (R246). -/
def execLld (x : XOp) (s : State) : Out := lawRead 0 x [] s
/-- LST (R247). -/
def execLst (x : XOp) (s : State) : Out :=
  xissue 14 1 x true ([x.a, x.b] ++ (if lawWide x then [x.c] else [])) (lawIssue 1 (if lawWide x then 16 else 8) x true 0 []) s
/-- LADD (R248). -/
def execLadd (x : XOp) (s : State) : Out := lawRead 2 x ([x.b] ++ (if lawWide x then [x.c] else [])) s
/-- LREB (R248). -/
def execLreb (x : XOp) (s : State) : Out := lawRead 3 x [] s

/-- A command that only the leader of a gang performs. -/
def leadOnly (m : State → R) (s : State) : R := if s.core.ganged ∧ s.core.regs.gangix ≠ 0 then .done s else m s

/-- LSET (R249). -/
def execLset (x : XOp) (s : State) : Out := xissue 14 4 x true [x.a] (leadOnly (lawIssue 4 32 x false 0 [])) s
/-- LGET (R249). -/
def execLget (x : XOp) (s : State) : Out := xissue 14 5 x true [x.a] (lawIssue 5 32 x true 0 []) s
/-- LTICK (R250). -/
def execLtick (x : XOp) (s : State) : Out := xissue 14 6 x true [x.a] (leadOnly (place { q := .l, cls := 14, sub := 6, x := x })) s
/-- LNOW (R251). -/
def execLnow (x : XOp) (s : State) : Out := xissue 14 7 x true [x.d] (place { q := .l, cls := 14, sub := 7, x := x, dst := [x.d] }) s

/-- LREG's checks, in order (R252). -/
def lregFault (base len : Word) (s : State) : Option Cause :=
  match placeOf s base with
  | some (.loc off) =>
    if base.toNat % 8 ≠ 0 ∨ len.toNat % 8 ≠ 0 then some .align
    else if len = 0 ∨ s.core.span.2 < off + len.toNat then some .lrange
    else none
  | _ => some .aspace

/-- LREG (R252). -/
def execLreg (x : XOp) (s : State) : Out :=
  xissue 14 8 x (decide (x.w2f 1 1 = 0)) [x.d, x.a, x.b]
    (fun s =>
      match lregFault (s.rs x.a) (s.rs x.b) s with
      | some c => .trap s c (s.rs x.a)
      | none => place { q := .l, cls := 14, sub := 8, x := x, dst := [x.d] } s) s

/-- LREGF (R252). -/
def execLregf (x : XOp) (s : State) : Out :=
  xissue 14 8 x (decide (x.w2f 1 1 = 1)) [x.a] (place { q := .l, cls := 14, sub := 8, x := x }) s

/-! ### Events of law time -/

/-- LAWNOW_ADVANCE (R228): every d-th cycle of divider mode. -/
def execLawnowAdvance (s : State) : Out :=
  match s.grove.lawMode with
  | .ltickOnly => .refused .notDue
  | .divider _ => .next { s with grove := { s.grove with lawnow := s.grove.lawnow + 1 } }

/-- The launch that owns a region's words: its actor's, or the running task's. -/
def Core.sweepSlot (c : Core) (w : Sweep) : BitVec 12 :=
  match c.actor w.aid with
  | some a => a.slot
  | none => match c.act with | some a => a.slot | none => 0

/-- A visit of the word at scratchpad offset p of the core at age d (R242, R244): evaluated under RNE with no flags, checked for
a crossing, rebased when it is old or a reload asks; none: the crossing unit has no room, and the visit waits (R239). A word
that cannot be read is passed over (DESIGN CHOICE, log entry 17). -/
def sweepWord (w : Sweep) (p d : Nat) (reload : Bool) (s : State) : Option State :=
  let c := s.core
  let lo := c.word p
  let hi := c.word (p + 8)
  let entry := s.lawEntry lo
  let l := lawOf entry
  let cr := lawCrosses l lo hi d
  if c.health.lostIn p (if l.wide then 16 else 8) then some s
  else if cr ∧ s.grove.crossFull then none
  else
    let s := if cr then s.handOver { lo := lo, hi := hi, entry := entry, age := d, lawnow := s.grove.lawnow, offset := BitVec.ofNat 32 (p - w.base), owner := w.aid, slot := c.sweepSlot w, sweep := true } else s
    let fired := lwFired lo || cr
    if reload ∨ 2 ^ 21 ≤ d then
      let v := lawRne l lo hi d
      let t := s.mapCore fun c => c.writeScratch p (leBytes 8 (lwBase v.1 s.grove.lawnow fired (lwIndex lo)).toNat)
      let t := if l.wide then t.mapCore fun c => c.writeScratch (p + 12) (leBytes 4 v.2) else t
      some t
    else if cr then some (s.mapCore fun c => c.writeScratch p (leBytes 8 (lwFire lo).toNat))
    else some s

/-- SWEEPER_VISIT (R242): off is the core's index × 2^18 + the word's scratchpad offset. -/
def execSweeperVisit (off : Nat) (s : State) : Out :=
  let ix : Fin 32 := Fin.ofNat 32 (off / 2 ^ 18)
  let p := off % 2 ^ 18
  match s.memberOf ix with
  | none => .refused .notDue
  | some k =>
    let t := focus k s
    match s.grove.swept.find? fun w =>
        w.core == ix && decide (w.bytes.lo ≤ p) && decide (p < w.bytes.hi) && p % 8 == 0 && t.visits t.core w.bytes.lo p with
    | none => .refused .notDue
    | some w =>
      match sweepWord w p (lawAge s.grove.lawnow (t.core.word p)) false t with
      | none => .refused .notDue
      | some u => .next (focus k u)

/-! ### The crossing unit (R239 to R241) -/

/-- The smallest age at which Past holds (R239). -/
def Crossing.found (x : Crossing) : Nat := bisect (lawPast (lawOf x.entry) x.lo x.hi) 64 0 x.age

/-- The message's payload (R240). -/
def Crossing.payload (x : Crossing) : List Byte :=
  let dc := x.found
  let l := lawOf x.entry
  let v := lawRne l x.lo x.hi dc
  let tc := (x.lawnow.toNat + 2 ^ 48 * (x.age / 2 ^ 48 + 1) - x.age + dc) % 2 ^ 48
  leBytes 4 x.offset.toNat ++ leBytes 3 x.owner.toNat ++ leBytes 1 (lwIndex x.lo) ++ leBytes 8 tc ++ leBytes 4 v.1
    ++ leBytes 4 (if l.wide then v.2 else 0) ++ leBytes 4 (if dc < 2 ^ 32 then dc else 0xFFFFFFFF) ++ leBytes 4 (if x.sweep then 1 else 0)

/-- The crossing unit as a source: it is no core. -/
def crossSource : Source := { core := 0, aid := 0, other := true }

/-- A crossing message sent to its target: taken, held behind the full ring or an earlier held one, queued for an evicted actor while its
holding queue has room (18_messages.md R292), or discarded with the launch's ignored-fault count one higher (R241). What becomes of it
at an actor beyond the state, a free value tells (log entry 20). -/
def sendCross (x : HeldCross) (s : State) : State :=
  let keep (t : State) : State := { t with grove := { t.grove with crossHeld := t.grove.crossHeld ++ [x] } }
  let dead (t : State) : State := { t with pkg := t.pkg.mapLaunch x.slot fun l => { l with ign := min (l.ign + 1) 0xFFFFFFFF } }
  if (s.grove.crossHeld.any fun y => y.tgt == x.tgt) || s.queueing (actorAddr x.tgt 0) then keep s
  else
    match s.place none x.tgt with
    | .at_ k _ =>
      (match meetMessage s k x.tgt x.msg none crossSource with
       | .taken t _ => t
       | .noRoom t _ => keep t
       | .no _ => dead s)
    | .evicted =>
      s.holdFor x.tgt { src := crossSource, addr := actorAddr x.tgt 0, bytes := [], len := 0, sync := none, flit := false, atomic := none, msg := some x.msg }
    | .away _ =>
      let f := s.free
      if f.1.toNat % 3 = 0 then f.2 else if f.1.toNat % 3 = 1 then keep f.2 else dead f.2
    | .no _ => dead s

/-- The held crossing messages to an actor sent again, in order. -/
def retryCross (aid : BitVec 24) (s : State) : State :=
  let l := s.grove.crossHeld.filter fun x => x.tgt == aid
  l.foldl (fun s x => sendCross x s) { s with grove := { s.grove with crossHeld := s.grove.crossHeld.filter fun x => x.tgt != aid } }

/-- CROSSING_SEARCH_END (R239, R240): the oldest search ends and its message is posted. -/
def execCrossingSearchEnd (s : State) : Out :=
  match s.grove.crossings with
  | [] => .refused .notDue
  | x :: t =>
    let l := lawOf x.entry
    let m : MsgArgs := { h0 := header0 0xFF 0 32 l.cls false false l.typ, h1 := s.grove.crossSeq.setWidth 64, payload := x.payload }
    let u : State := { s with grove := { s.grove with crossings := t, crossSeq := s.grove.crossSeq + 1 } }
    .next (sendCross { tgt := l.tgt, slot := x.slot, msg := m } u)

end Sys2Proof.Machine
end

