-- ==== Sys2Proof/Machine/Msg.lean ====
section
/-!
DEFINITION. The MSG class (18_messages.md R283, R284, R294 to R297).
-/
namespace Sys2Proof.Machine

/-! ### SENDM (R294) -/

/-- The ring size that the directory or the resident actor gives; none: the actor does not exist or has been destroyed. -/
def State.ringOf (s : State) (aid : BitVec 24) : Option Nat :=
  match residentAt aid s.cores 0 with
  | some (_, a) => some a.ringK
  | none => (s.pkg.entry aid).bind fun e => if e.at_ = .destroyed then none else some e.ringK

/-- The cache of ring sizes with an entry used or filled; it holds 32. -/
def Core.useRing (c : Core) (key : Word) (k : Nat) : Core :=
  { c with ringSizes := ((key, k) :: c.ringSizes.filter fun p => p.1 != key).take 32 }

/-- What the cache knows an actor by: its address without offset. -/
def ringKey (pl : Place) (a : Word) : Word := BitVec.ofNat 64 ((normal pl a).toNat / 2 ^ 20 * 2 ^ 20)


/-- A destination's ring size: in the cache, found by the lookup, absent, or to be asked of another package. -/
inductive RingSize where
  | is (k : Nat) (s : State)
  | gone
  | ask
deriving DecidableEq, Repr

/-- The ring-size lookup: a hit does not consult the destination. -/
def State.ringSize (s : State) (pk : Option Nat) (aid : BitVec 24) (key : Word) : RingSize :=
  match s.core.ringSizes.find? fun p => p.1 == key with
  | some p => .is p.2 (s.mapCore fun c => c.useRing key p.2)
  | none =>
    match pk with
    | some n => if s.cutOff n then .gone else .ask
    | none =>
      match s.ringOf aid with
      | some k => .is k (s.mapCore fun c => c.useRing key k)
      | none => .gone

/-- The payload length of a SENDM. -/
def sendLen (x : XOp) : Nat := x.w2f 16 10

/-- The command of a SENDM whose destination's ring has 2^k bytes: MSGBIG, then the queue; without go it issues no command yet. -/
def sendPlace (x : XOp) (go : Bool) (k : Nat) (reads : List Range) (s : State) : R :=
  let n := recordBytes (sendLen x)
  if 2 ^ k - 16 < n then .trap s .msgbig (BitVec.ofNat 64 n)
  else if go then place { q := .e, cls := 15, sub := 0, x := x, reads := reads } s
  else .done s

/-- SENDM in one member, its checks in order (R294). -/
def sendmPart (x : XOp) (go : Bool) (s : State) : R :=
  let a := s.rs x.a
  match placeOf s a with
  | some (.actor pk aid off) =>
    let key := ringKey (.actor pk aid off) a
    (match (if sendLen x = 0 then .ok none else (denseRange s (s.rs x.b) (sendLen x) 16).map some) with
     | .error (c, v) => .trap s c v
     | .ok g =>
       match s.ringSize pk aid key with
       | .gone => .trap s .adead a
       | .is k t => sendPlace x go k g.toList t
       | .ask => .wait (s.await (.ringSize key) a (XOp.bytes x)))
  | _ => .trap s .aspace a

/-- The member's SENDM must ask another package for a ring's size. -/
def sendmAsks (x : XOp) (s : State) : Bool := s.core.regs.guard x.h.g && (sendmPart x false s).isWait

/-- SENDM (R294): while some member of a gang must ask for a ring's size, no member's command is placed; the instruction issues again
when the answer has come. -/
def execSendm (x : XOp) (s : State) : Out :=
  let go := !((List.range (s.members + 1)).any fun k => sendmAsks x (focus k s))
  xissue 15 0 x true [x.a, x.b, x.c] (sendmPart x go) s

/-- The message that a SENDM's command builds. -/
def Cmd.message (k : Cmd) (c : Core) : MsgArgs :=
  let n := sendLen k.x
  { h0 := header0 0xFF k.aid n (k.x.w2f 8 3) (k.x.w2f 6 1 == 1) (k.x.w2f 5 1 == 1) (k.x.w2f 0 5)
    h1 := BitVec.ofNat 64 (k.sc.toNat % 2 ^ 37)
    payload := if n = 0 then [] else c.readScratch (k.base + k.sb.toNat) n }

/-- SENDM performed (R284, R294): the message is copied into the store, which must have room, and its flits are counted. -/
def performSendm (k : Cmd) (s : State) : Perf :=
  let n := sendLen k.x
  if 8192 < s.core.stored + recordBytes n then .notYet
  else
    match engineReads k (if n = 0 then [] else [(k.base + k.sb.toNat, n)]) s with
    | .error (t, v) => .fault t .memerr v
    | .ok t =>
      match placeOf t k.sa with
      | some (.actor pk aid _) =>
        let pl : Place := .actor pk aid 0
        let addr : Word := normal pl (BitVec.ofNat 64 (k.sa.toNat / 2 ^ 20 * 2 ^ 20))
        .ok (t.mapCore fun c => c.postBy k (t.near pl) (ceilDiv (recordBytes n) (flitSize t pl)) k.sa addr 0 (.msg (k.message c))) {}
      | _ => .ok t {}

/-! ### MBOX, MASKC, UNMC (R291, R295 to R297) -/

/-- An instruction that acts on the running actor, at place me: NOACT in a task. -/
def withActor (cls sub : Nat) (x : XOp) (f : Actor → State → R) (s : State) : R :=
  match s.core.self with
  | some a => f a s
  | none => .trap s .noact ((BitVec.ofNat 32 (x.word0 cls sub)).setWidth 64)

/-- The running actor changed. -/
def State.mapSelf (s : State) (f : Actor → Actor) : State := s.mapCore fun c => c.mapActor c.regs.aid f

/-- MBOX's counts of records that would be eligible, by filed class (R295). -/
def mboxCounts (a : Actor) : Nat :=
  let l := openRecs a a.recs []
  ((List.range 8).map fun c => min 255 (l.filter fun r => r.filed.val == c).length * 2 ^ (8 * c)).sum

/-- The classes that hold a closed record. -/
def closedClasses (a : Actor) : Nat :=
  ((List.range 8).map fun c =>
    if a.recs.any fun r => !r.pad && !r.dispatched && r.filed.val == c && entryCL a.handlers[r.typ] then 2 ^ c else 0).sum

/-- MBOX's value (R295). -/
def mboxValue (sel : Nat) (a : Actor) (c : Core) : Word :=
  BitVec.ofNat 64 (match sel with
    | 0 => a.head + a.tail * 2 ^ 16 + a.ringK * 2 ^ 32 + a.used * 2 ^ 40
    | 1 => mboxCounts a
    | _ => a.cmask.toNat + closedClasses a * 2 ^ 8 + (if c.room = [] then 0 else 2 ^ 16))

/-- MBOX (R295). -/
def execMbox (x : XOp) (s : State) : Out :=
  xissue 15 1 x true [x.d] (withActor 15 1 x fun a s => .done (s.ws x.d (mboxValue (x.w2f 0 2) a s.core))) s

/-- MASKC (R296). -/
def execMaskc (x : XOp) (s : State) : Out :=
  xissue 15 2 x true [] (withActor 15 2 x fun _ s => .done (s.mapSelf fun a => { a with cmask := a.cmask ||| BitVec.ofNat 8 (x.w2f 0 8) })) s

/-- UNMC (R296). -/
def execUnmc (x : XOp) (s : State) : Out :=
  xissue 15 3 x true [] (withActor 15 3 x fun _ s => .done (s.mapSelf fun a => { a with cmask := a.cmask &&& ~~~(BitVec.ofNat 8 (x.w2f 0 8)) })) s

end Sys2Proof.Machine
end

