-- ==== Sys2Proof/Machine/Launch.lean ====
section
/-!
DEFINITION. Launch headers and declarations, the making of work items, and fresh assignment (02_execution.md R26, R27, R32 to
R38; 12_memory.md R210, R211; 22_scheduling_faults.md R335, R336).
-/
namespace Sys2Proof.Machine

/-! ### Device memory read by an instruction or by Phopol -/

/-- Parts of the interleaved view translated, each through its walk, or the fault with the state that the walks leave. -/
def walkParts (r : Right) : List (Nat × Nat) → State → Except (Cause × State) (List (Nat × Nat) × State)
  | [], s => .ok ([], s)
  | (va, n) :: t, s =>
    match s.translate r va with
    | none => .error (s.missCause va, s.missed va)
    | some (pa, u) => (walkParts r t u).map fun q => ((pa, n) :: q.1, q.2)

/-- The physical parts of n bytes of device memory at an address. -/
def devParts (r : Right) (addr : Word) (n : Nat) (s : State) : Except (Cause × State) (List (Nat × Nat) × State) :=
  match placeOf s addr with
  | some (.inter va) => walkParts r (pageCuts (n / 0x1000 + 2) va n) s
  | some (.linear pa) => .ok ([(pa, n)], s)
  | _ => .error (.aspace, s)

/-- n bytes of device memory, or the fault. -/
def devRead (addr : Word) (n : Nat) (s : State) : Except (Cause × State) (List Byte × State) :=
  match devParts .read addr n s with
  | .error c => .error c
  | .ok (l, t) => if t.pkg.partsLost l then .error (.memerr, t.activateAll l) else .ok (t.pkg.readParts l, t.activateAll l)

/-- n bytes of device memory; bytes that cannot be read are free values (log entry 22). -/
def devBytes (addr : Word) (n : Nat) (s : State) : List Byte × State :=
  match devRead addr n s with
  | .ok p => p
  | .error (_, t) => ((List.range n).map fun i => Config.freeByte (s.fresh + i), { t with fresh := s.fresh + n })

/-! ### The header (02_execution.md R33, R34) -/

/-- The counts of the fields used, bounded by their widths. -/
def countsOk (n : Nat) (w c : List Nat) : Bool :=
  (List.range 6).all fun k =>
    let wk := w.getD k 0
    let ck := c.getD k 0
    if k < n then decide (1 ≤ wk) && decide (wk ≤ 64) && decide (1 ≤ ck) && decide (ck ≤ if wk = 64 then 2 ^ 64 - 1 else 2 ^ wk)
    else wk == 0 && ck == 0

/-- A ride-chain word's level, if it is valid. -/
def rideOf (q : Nat) : Option Nat := if bitAt q 0 then some (bitsOf q 1 3) else none

/-- A chain's declaration keeps R34's limits. -/
def rideOk (h : Header) (o : Option Nat) : Bool :=
  match o with
  | none => true
  | some lv => decide (lv < h.n) && decide (h.chainLen lv ≤ 256)

/-- Bytes of a region. -/
def Header.size (h : Header) : Nat := h.units * 4096

/-- The fields of a header of 256 bytes. -/
def headerOf (raw : List Byte) : Header :=
  let q (o : Nat) : Nat := leNat ((raw.drop o).take 8)
  let six (f : Nat → Nat) : List Nat := (List.range 6).map f
  { code := BitVec.ofNat 64 (q 0), lawMode := bitsOf (q 8) 10 2, retrySafe := bitAt (q 8) 9, n := bitsOf (q 8) 6 3
    cls := bitsOf (q 8) 3 3, gangCode := bitsOf (q 8) 1 2, actors := bitAt (q 8) 0
    w := six fun k => ((raw.drop (0x10 + k)).headD 0).toNat, pol := six fun k => bitsOf (q 0x18) (2 * k) 2
    cnt := six fun k => q (0x20 + 8 * k), div := bitsOf (q 0x50) 0 16, seed := BitVec.ofNat 64 (q 0x58), mode := bitsOf (q 0x60) 0 3
    himg := BitVec.ofNat 64 (q 0x68), ringK := bitsOf (q 0x70) 7 4, units := bitsOf (q 0x70) 0 7, plen := bitsOf (q 0x78) 16 10
    htype := bitsOf (q 0x78) 0 5, paddr := BitVec.ofNat 64 (q 0x80), ride := [rideOf (q 0x98), rideOf (q 0xA0)]
    decl := BitVec.ofNat 64 (q 0xA8), nbar := bitsOf (q 0xB0) 8 5, ntree := bitsOf (q 0xB0) 0 5, stackMask := bitsOf (q 0x88) 8 8
    affinity := bitsOf (q 0x88) 0 3, nearTo := BitVec.ofNat 64 (q 0x90) }

/-- Reserved bits of a header are zero (R34). -/
def headerRsv (raw : List Byte) : Bool :=
  let q (o : Nat) : Nat := leNat ((raw.drop o).take 8)
  bitsOf (q 8) 12 52 == 0 && bitsOf (q 0x10) 48 16 == 0 && bitsOf (q 0x18) 12 52 == 0 && bitsOf (q 0x50) 16 48 == 0
    && bitsOf (q 0x60) 3 61 == 0 && bitsOf (q 0x88) 16 48 == 0 && bitsOf (q 0x88) 3 5 == 0 && bitsOf (q 0x98) 4 60 == 0
    && bitsOf (q 0xA0) 4 60 == 0 && bitsOf (q 0xB0) 13 51 == 0 && bitsOf (q 0xB0) 5 3 == 0 && (raw.drop 0xB8).all (fun b => b == 0)
    && bitsOf (q 0x70) 11 53 == 0 && bitsOf (q 0x78) 26 38 == 0 && bitsOf (q 0x78) 5 11 == 0

/-- What R34 asks of an actor launch's own fields, the region of R26 among them. -/
def actorFieldsOk (h : Header) : Bool :=
  decide (10 ≤ h.ringK) && decide (h.ringK ≤ 16) && decide (1 ≤ h.units) && decide (h.units ≤ 64)
    && decide (2 ^ h.ringK + 4096 ≤ h.size) && decide (h.plen ≤ 1008) && decide (recordBytes h.plen ≤ 2 ^ h.ringK - 16)

/-- What R34 asks of a launch and of a SPAWN alike; the code address lies in the interleaved view (04_formats.md R83). -/
def headerCommon (raw : List Byte) (h : Header) : Bool :=
  headerRsv raw && h.code.toNat / 2 ^ 48 == 0x1000 && h.lawMode != 3 && decide (h.mode ≤ 5) && bitsOf (leNat ((raw.drop 0x88).take 8)) 0 3 != 6
    && (h.lawMode != 1 || decide (1 ≤ h.div)) && decide (h.nbar ≤ 16) && decide (h.ntree ≤ 16) && (!h.actors || actorFieldsOk h)

/-- A launch's header, or none where R34 refuses it. -/
def parseLaunch (raw : List Byte) : Option Header :=
  let h := headerOf raw
  if headerCommon raw h ∧ 1 ≤ h.n ∧ h.n ≤ 6 ∧ countsOk h.n h.w h.cnt ∧ h.w.sum ≤ 64
      ∧ (h.cnt.take h.n).foldl (· * ·) 1 ≤ (if h.actors then 2 ^ 20 else 2 ^ 48) ∧ h.cnt.getD (h.n - 1) 0 % h.gang = 0
      ∧ h.ride.all (rideOk h) then some h
  else none

/-- A SPAWN's header (18_messages.md R298): kind 1 and its zero fields zero. -/
def parseSpawn (raw : List Byte) : Option Header :=
  let h := headerOf raw
  let z (o n : Nat) : Bool := ((raw.drop o).take n).all fun b => b == 0
  if headerCommon raw h ∧ h.actors ∧ h.n = 0 ∧ h.gangCode = 0 ∧ z 0x10 16 ∧ z 0x20 48 ∧ z 0x98 16 ∧ z 0xA8 16 then some h
  else none

/-! ### Declarations (12_memory.md R210, R211) -/

/-- A level of a declaration. -/
def levelOk (n lv : Nat) : Bool := decide (lv < n) || lv == 7

/-- A tree entry of 32 bytes, of a launch whose regions have size bytes: its result and its sync word lie in the root's region. -/
def treeOfBytes (n size : Nat) (b : List Byte) : Option TreeDecl :=
  let q (o : Nat) : Nat := leNat ((b.drop o).take 8)
  let d : TreeDecl := { fan := bitsOf (q 0) 32 8, ty := bitsOf (q 0) 24 4, op := bitsOf (q 0) 16 4, level := bitsOf (q 0) 0 3, result := bitsOf (q 8) 0 18, sync := bitsOf (q 16) 0 18 }
  if bitsOf (q 0) 40 24 = 0 ∧ bitsOf (q 0) 28 4 = 0 ∧ bitsOf (q 0) 20 4 = 0 ∧ bitsOf (q 0) 3 13 = 0 ∧ 2 ≤ d.fan ∧ d.fan ≤ 32
      ∧ [4, 6, 8].contains d.ty ∧ d.op ≤ 2 ∧ levelOk n d.level ∧ bitsOf (q 8) 18 46 = 0 ∧ d.result % 64 = 0
      ∧ bitsOf (q 16) 18 46 = 0 ∧ d.sync % 16 = 0 ∧ q 24 = 0 ∧ d.result + 64 ≤ size ∧ d.sync + 16 ≤ size then some d
  else none

/-- A barrier entry of 32 bytes: its level. -/
def barOfBytes (n : Nat) (b : List Byte) : Option Nat :=
  let lv := bitsOf (leNat b) 0 3
  if leNat b / 8 = 0 ∧ levelOk n lv then some lv else none

/-- All entries of a list accepted. -/
def allSome {α : Type} : List (Option α) → Option (List α)
  | [] => some []
  | none :: _ => none
  | some a :: t => (allSome t).map fun l => a :: l

/-- The declarations of a launch, read at its declaration address; none is a malformed header. -/
def declsOf (h : Header) (s : State) : Option (List TreeDecl × List Nat × State) :=
  let n := h.nbar + h.ntree
  if n = 0 then some ([], [], s)
  else if h.actors = false ∨ h.decl.toNat % 32 ≠ 0 then none
  else
    match devRead h.decl (32 * n) s with
    | .error _ => none
    | .ok (bs, t) =>
      let entry (i : Nat) : List Byte := (bs.drop (32 * i)).take 32
      match allSome ((List.range h.ntree).map fun i => treeOfBytes h.n h.size (entry i)),
        allSome ((List.range h.nbar).map fun i => barOfBytes h.n (entry (h.ntree + i))) with
      | some a, some b => some (a, b, t)
      | _, _ => none

/-- The lowest bit of a declaration's prefix (02_execution.md R36). -/
def declLow (h : Header) (lv : Nat) : Nat := if lv = 7 then 64 else h.low lv

/-- The instances of a declaration at a level among a launch's items: one for each prefix, a gang counting as its leader (R211). -/
def Header.instances (h : Header) (lv : Nat) : Nat :=
  if lv = 7 then 1 else (h.cnt.take (lv + 1)).foldl (· * ·) 1 / (if lv + 1 = h.n then h.gang else 1)

/-- The barrier instances that a launch has or will have. -/
def Pkg.barsOf (p : Pkg) (l : Launch) : Nat := max ((l.bars.map l.hdr.instances).sum) (p.bars.filter fun b => b.slot == l.slot).length

/-- The same of its trees. -/
def Pkg.treesOf (p : Pkg) (l : Launch) : Nat :=
  max ((l.trees.map fun d => l.hdr.instances d.level).sum) (p.trees.filter fun t => t.slot == l.slot).length

/-- The grove's channels that instances hold. -/
def Pkg.channels (p : Pkg) : Nat := (p.bars.filter fun b => b.unit == .channel true).length

/-- The canopy groups that instances hold. -/
def Pkg.groups (p : Pkg) : Nat := (p.bars.filter fun b => b.unit == .group).length

/-- The instances fit what there is of trees, channels and groups: 16 trees, 8 channels in each of 128 groves, and 16 groups
(01_device.md R11, R15, R17). -/
def Pkg.unitsFit (p : Pkg) : Bool :=
  decide ((p.launches.map p.treesOf).sum ≤ 16) && decide ((p.launches.map p.barsOf).sum ≤ 8 * 128 + 16)
    && decide (p.channels ≤ 8) && decide (p.groups ≤ 16)

/-- An instance with a member in the grove or beyond it: one that has all members in one grove stays on its channel, and another
moves to a canopy group (R211; that instances beyond the grove keep a channel there is a DESIGN CHOICE, log entry 55). -/
def BarInst.seat (b : BarInst) (inGrove : Bool) : BarInst :=
  if b.unit = .channel inGrove then b else { b with unit := .group }

/-- The instances of a launch's actor, as it is placed or reloaded in the grove or beyond it. -/
def seatBars (l : Launch) (wid : Word) (inGrove : Bool) (p : Pkg) : Pkg :=
  { p with bars := p.bars.map fun b => if b.slot = l.slot ∧ l.leads wid ∧ sharesFrom b.low wid b.share then b.seat inGrove else b }

/-- The instances that a new actor of a launch is a member of: those that are there, and those that it is the first member of. -/
def addInstances (l : Launch) (wid : Word) (inGrove : Bool) (p : Pkg) : Pkg :=
  if l.leads wid = false then p
  else
    let bars := (List.range l.bars.length).filterMap fun i =>
      let low := declLow l.hdr (l.bars.getD i 7)
      if p.bars.any fun b => b.slot == l.slot && b.idx == i && sharesFrom low wid b.share then none
      else some ({ slot := l.slot, idx := i, share := wid, low := low, phase := 0, broken := false, unit := .channel inGrove } : BarInst)
    let trees := (List.range l.trees.length).filterMap fun i =>
      let low := declLow l.hdr (match l.trees[i]? with | some d => d.level | none => 7)
      if p.trees.any fun b => b.slot == l.slot && b.idx == i && sharesFrom low wid b.share then none
      else some ({ slot := l.slot, idx := i, share := wid, low := low, parts := [], rounds := 0 } : TreeInst)
    let q := seatBars l wid inGrove p
    { q with bars := q.bars ++ bars, trees := q.trees ++ trees }

/-- The package holds what an actor's place asks of it. -/
def State.seated (s : State) (l : Launch) (wid : Word) (inGrove : Bool) : Option State :=
  let t : State := { s with pkg := addInstances l wid inGrove s.pkg }
  if t.pkg.unitsFit then some t else none

/-! ### Requests (26_system.md R384, R385) -/

/-- An answer given. -/
def State.reply (s : State) (a : Answer) : State := { s with pkg := { s.pkg with answers := s.pkg.answers ++ [a] } }

/-- A request: Phopol runs once the boot has passed (R383), and answers NOTREADY until all is brought up (R384). -/
def request (f : State → Out) (s : State) : Out :=
  if s.pkg.started = false then .refused .notDue else if s.pkg.ready = false then .next (s.reply .notReady) else f s

/-! ### Debug attachments (24_debug.md R380) -/

/-- The value of the attachments of the launches that a core was given. -/
def Pkg.attached (p : Pkg) (core : Nat) : Word :=
  (p.launches.filter fun l => l.given.contains core).foldl (fun w l => w ||| l.attach.getD 0) 0

/-- The core is given work of a launch: an attachment is written before its first dispatch for it. -/
def giveCore (l : Launch) (s : State) : State :=
  let s : State := { s with pkg := s.pkg.mapLaunch l.slot fun x => if x.given.contains s.core.pkgIx then x else { x with given := x.given ++ [s.core.pkgIx] } }
  if l.attach = none ∨ l.given.contains s.core.pkgIx then s
  else s.mapCore fun c => { c with dbg := { c.dbg with ctl := s.pkg.attached c.pkgIx &&& 7 } }

/-! ### Fresh assignment (22_scheduling_faults.md R336) -/

/-- The core holds no work: no actor, record or activation. -/
def Core.unused (c : Core) : Bool := c.act.isNone && c.retry.isNone && c.actors.all fun o => o.isNone

/-- The launch slot of a record. -/
def QRec.slot (q : QRec) : BitVec 12 :=
  match q with
  | .task r => r.slot
  | .resume ims => (match ims with | im :: _ => (match im.act with | some a => a.slot | none => 0) | [] => 0)

/-- The core holds no work of a launch but this one: no actor, activation or, in its own deque, record. -/
def State.freeFor (s : State) (slot : BitVec 12) : Bool := s.core.unused && s.grove.deques[s.core.ix].all fun q => q.slot == slot

/-- The grove holds no work: the cores of the state none, the deques and the ring none, and no actor stands on another core of it. -/
def State.groveUnused (s : State) : Bool :=
  s.cores.all Core.unused && s.grove.deques.toList.all (fun l => l == []) && s.grove.overflow == []
    && s.pkg.dir.all fun e => e.at_ != .away true

/-- The launches whose work the grove holds. -/
def State.groveSlots (s : State) : List (BitVec 12) :=
  (s.cores.flatMap fun c =>
    (c.actors.filterMap fun o => o.map fun a => a.slot) ++ (c.act.map fun a => a.slot).toList ++ (c.retry.map fun a => a.slot).toList)
    ++ (s.grove.deques.toList.flatten.map QRec.slot) ++ s.grove.overflow.map QRec.slot
    ++ (s.pkg.dir.filter fun e => e.at_ == .away true).map fun e => e.slot

/-- The coppice rows of the core's slice written to zero (20_nearmem.md R307), each an activation of its row (R309). -/
def Core.clearCoppice (c : Core) : Core :=
  { c with
    coppice := [], coppiceBad := []
    sliceRows := (List.range 512).map fun r => (r, (match c.sliceRows.find? fun p => p.1 == r with | some p => p.2 | none => 0) + 1) }

/-- What Phopol clears in a core that is freshly assigned, and the tenant it gives it by CRSET (DEDUCED, log entry 23). -/
def Core.fresh (c : Core) (tenant : BitVec 16) (root : Word) (slot : BitVec 12) : Core :=
  { c.clearCoppice with
    slots := Vector.replicate 8 {}
    stats := { off := c.stats.off }
    acctCount := Vector.replicate 64 0
    acctSum := Vector.replicate 64 0
    counters := Vector.replicate 6 0
    tenant := tenant
    troot := root
    launchSlot := slot
    begun := false }

/-- The root of a tenant's tables. -/
def Pkg.root (p : Pkg) (tenant : BitVec 16) : Word :=
  match p.roots.find? fun r => r.1 == tenant with
  | some r => BitVec.ofNat 64 r.2
  | none => 0

/-- The law time of a grove that is freshly assigned (14_lawstate.md R228, R233). -/
def Grove.fresh (g : Grove) (h : Header) : Grove :=
  { g with
    lawTab := Vector.replicate 256 0
    lawMode := if h.lawMode = 1 then .divider h.div else if h.lawMode = 2 then .ltickOnly else g.lawMode }

/-- The grove given work of a launch: its law table and law time are written when it held no work (R336). -/
def joinGrove (l : Launch) (s : State) : State := if s.groveUnused then { s with grove := s.grove.fresh l.hdr } else s

/-- The first core, and the grove, given work of a launch: what they hold is cleared when they held no work (R336). -/
def assign (l : Launch) (s : State) : State :=
  let s1 := joinGrove l s
  giveCore l (if s.freeFor l.slot then s1.mapCore fun c => c.fresh l.tenant (s.pkg.root l.tenant) l.slot else s1)

/-- The launch may join what the grove holds: launches of its tenant alone, under a law time that its header allows (R336). -/
def State.groveTakes (s : State) (l : Launch) : Bool :=
  (s.groveSlots.all fun x => match s.pkg.launch x with | some m => m.tenant == l.tenant | none => true)
    && (s.groveUnused || l.hdr.lawMode == 0
        || (match s.grove.lawMode with | .divider d => l.hdr.lawMode == 1 && l.hdr.div == d | .ltickOnly => l.hdr.lawMode == 2))

/-- The core has fewer than three failed banks; else the placer puts nothing on it (R356). -/
def Core.sound (c : Core) : Bool := decide (((List.range 64).filter fun i => c.health.failed.getLsbD i).length < 3)

/-- The launch may join what the core and the grove hold (R336). -/
def State.mayJoin (s : State) (l : Launch) : Bool :=
  (s.core.unused || s.core.tenant == l.tenant) && s.core.sound && s.groveTakes l

/-! ### Actors made (02_execution.md R26, R27, R32; 18_messages.md R298) -/

/-- The bytes of the resident actors' regions. -/
def Core.regions (c : Core) : Nat := (c.actors.map fun o => match o with | some a => a.size | none => 0).sum

/-- The core has a task scratch area: no region lies over its offsets (R27). -/
def Core.hasScratch (c : Core) : Bool := c.actors.all fun o => match o with | some a => decide (a.base + a.size ≤ 0x3C000) | none => true

/-- A region may lie at base (R27). -/
def Core.regionOk (c : Core) (base size : Nat) : Bool :=
  base % 4096 == 0 && decide (base + size ≤ 0x40000) && (c.actors.any fun o => o.isNone)
    && (c.actors.all fun o => match o with | some a => !overlaps a.base a.size base size | none => true)
    && (decide (base + size ≤ 0x3C000) || (decide (0x3C000 < c.regions + size) && (c.act.isNone || c.regs.aid != 0)
        && c.retry.all fun a => match a.src with | .task _ => false | .message _ _ => true))

/-- Nothing of an activation that has ended can still be performed in the core's regions. -/
def State.quieted (s : State) : Bool := s.core.act.isSome || s.settled

/-- What still waits of an activation that has ended is dropped (log entry 29). -/
def Core.dropLeft (c : Core) : Core := if c.act.isNone then { c with cmds := c.cmds.filter Cmd.mgmt } else c

/-- An id for a new actor; one of an actor destroyed is not used again before a launch clears the ring-size caches (18_messages.md R294). -/
def State.newAid (s : State) (aid : Nat) : Bool :=
  let id := BitVec.ofNat 24 aid
  decide (0 < aid) && decide (aid < 2 ^ 24) && !s.pkg.gone.contains id && (match s.pkg.entry id with | some e => e.at_ == .destroyed | none => true)

/-- A handler entry of the image, the header's code address added to its code offset (18_messages.md R285). -/
def imageEntry (code : Word) (b : List Byte) : BitVec 128 :=
  let w := leNat b
  BitVec.ofNat 128 (setBits w 0 48 (bitsOf w 0 48 + code.toNat))

/-- A directory entry put in place of any of the same id. -/
def Pkg.putEntry (p : Pkg) (e : DirEnt) : Pkg := { p with dir := p.dir.filter (fun d => d.aid != e.aid) ++ [e] }

/-- An actor put into the first free place. -/
def putActor (a : Actor) : List (Option Actor) → List (Option Actor)
  | [] => []
  | none :: t => some a :: t
  | o :: t => o :: putActor a t

/-- A new actor on the core, with its initial message landed in its ring. -/
def makeActor (h : Header) (slot : BitVec 12) (wid : Word) (aid : BitVec 24) (base : Nat) (sender : BitVec 24) (s : State) : State :=
  let early := ([0, 1] : List Nat).flatMap fun ch => (s.pkg.straysFor slot wid.toNat ch).map fun c => (ch, c)
  let im := devBytes h.himg 512 s
  let pl := if h.plen = 0 then ([], im.2) else devBytes h.paddr h.plen im.2
  let s := pl.2
  let a : Actor := { aid := aid, wid := wid, slot := slot, base := base, size := h.size, ringK := h.ringK, handlers := Vector.ofFn fun i => imageEntry h.code ((im.1.drop (16 * i.val)).take 16), seed := h.seed, stream := wid, mode := Fin.ofNat 8 h.mode, early := early }
  let m : MsgArgs := { h0 := header0 0xFF sender h.plen h.cls false false h.htype, h1 := 0, payload := pl.1 }
  let b := match reserve a m none with
    | some (b, _, _) => { b with recs := b.recs.map fun r => { r with landed := true, payload := [] } }
    | none => a
  let s := s.mapCore fun c =>
    { c.dropLeft.writeScratch base (leBytes 8 m.h0.toNat ++ leBytes 8 m.h1.toNat ++ m.payload) with actors := putActor b c.actors }
  { s with pkg := { s.pkg.putEntry { aid := aid, wid := wid, slot := slot, at_ := .here, ringK := h.ringK } with
      strays := s.pkg.strays.filter fun x => x.slot != slot || x.wid != wid.toNat } }

/-- The placer may give the launch work on another core of the grove, which the state does not hold. -/
def State.nearTakes (s : State) (l : Launch) : Bool := s.grove.on && s.groveTakes l

/-- An actor made on a core that the state does not hold. -/
def makeAway (h : Header) (slot : BitVec 12) (wid : Word) (aid : BitVec 24) (near : Bool) (s : State) : State :=
  { s with pkg := { s.pkg.putEntry { aid := aid, wid := wid, slot := slot, at_ := .away near, ringK := h.ringK } with
      strays := s.pkg.strays.filter fun x => x.slot != slot || x.wid != wid.toNat } }

/-- The neighbour that stands n places on from a core, as nothing has used it yet: its slice is the next 96 MiB and so on (R5, R6;
DESIGN CHOICE: the slices lie in the order of the cores, log entry 5). -/
def Core.neighbour (c : Core) (n : Nat) : Core :=
  { ix := Fin.ofNat 32 (c.ix.val + n), pkgIx := c.pkgIx + n, sliceBase := c.sliceBase + 0x6000000 * n, tenant := c.tenant, troot := c.troot }

/-- The neighbours of the core up to number k, unused ones added, as far as the grove goes and the state holds eight cores (DESIGN
CHOICE: neighbours are numbered on from the core, log entry 24). -/
def ensurePeers (k : Nat) (s : State) : State :=
  let lacks (n : Nat) : Bool := decide (s.core.ix.val + n < 32) && s.cores.all fun c => c.ix.val != s.core.ix.val + n
  let new := (((List.range k).map fun j => j + 1).filter lacks).map s.core.neighbour
  if new = [] ∨ 7 < s.peers.length + new.length then s else ({ s with peers := s.peers ++ new } : State).facing s.core.ix

/-- The live members of the gang of an item, with their items' places in it (02_execution.md R39). -/
def Pkg.gangOf (p : Pkg) (l : Launch) (wid : Word) : List DirEnt :=
  if l.hdr.gang ≤ 1 ∨ l.hdr.item wid false = false then []
  else p.dir.filter fun e => e.slot == l.slot && e.wid != wid && e.wid.toNat / l.hdr.gang == wid.toNat / l.hdr.gang && e.at_ != .destroyed

/-- An item may stand on a core of the state: its gang's g cores lie in the grove, and the members already placed stand on theirs
(R39; that they stand in the order of their items is a DESIGN CHOICE, log entry 52). -/
def State.gangPlace (s : State) (l : Launch) (wid : Word) (i : Fin 32) : Bool :=
  let g := l.hdr.gang
  g ≤ 1 || l.hdr.item wid false == false
      || (decide (wid.toNat % g ≤ i.val) && decide (i.val + g ≤ 32 + wid.toNat % g)
        && (s.pkg.gangOf l wid).all fun e =>
          match e.at_, residentAt e.aid s.cores 0 with
          | .here, some (k, _) => (focus k s).core.ix.val + wid.toNat % g == i.val + e.wid.toNat % g
          | .evicted, _ => true
          | _, _ => false)

/-- An item may stand beyond the state: the members of its gang already placed stand there too. -/
def State.gangAway (s : State) (l : Launch) (wid : Word) (near : Bool) : Bool :=
  (s.pkg.gangOf l wid).all fun e => e.at_ == .away near || e.at_ == .evicted

/-- The placer's answer carried out for one actor: the state with the actor, and its id; none where it cannot be so. -/
def placeActor (l : Launch) (h : Header) (wid : Word) (sender : BitVec 24) (ans : PlacerAns) (s : State) : Option (State × BitVec 24) :=
  match ans with
  | .here k aid base =>
    let t := focus k s
    if s.grove.on ∧ k ≤ 7 ∧ k ≤ s.peers.length ∧ s.newAid aid ∧ t.mayJoin l ∧ t.quieted ∧ t.core.regionOk base h.size ∧ s.gangPlace l wid t.core.ix then
      let s := focus k (makeActor h l.slot wid (BitVec.ofNat 24 aid) base sender (assign l t))
      (s.seated l wid true).map fun s => (s, BitVec.ofNat 24 aid)
    else none
  | .away aid near =>
    if s.newAid aid ∧ s.gangAway l wid near ∧ (near → s.nearTakes l) then
      let s := makeAway h l.slot wid (BitVec.ofNat 24 aid) near (if near then joinGrove l s else s)
      (s.seated l wid near).map fun s => (s, BitVec.ofNat 24 aid)
    else none
  | _ => none

/-! ### Launches started (02_execution.md R34, R35, R38) -/

/-- A slot that may be given to a launch. -/
def Pkg.slotFree (p : Pkg) (n : Nat) : Bool := decide (1 ≤ n) && decide (n ≤ 4095) && (p.launch (BitVec.ofNat 12 n)).isNone

/-- Every slot is held. -/
def Pkg.slotsFull (p : Pkg) : Bool := decide (4095 ≤ p.launches.length)

/-- A launch accepted in a slot. Phopol clears the ring-size caches (18_messages.md R294), and sizes the overflow ring
(02_execution.md R44): its size is a free value (log entry 22). -/
def startLaunch (l : Launch) (s : State) : State :=
  let s := s.mapCores fun c => { c with ringSizes := [] }
  let f := ({ s with pkg := { s.pkg with launches := s.pkg.launches ++ [l], gone := [] } } : State).free
  { f.2 with grove := { f.2.grove with overflowCap := max f.2.grove.overflow.length f.1.toNat } }

/-- A code of R298's table as d receives it. -/
def refusal (code : Nat) : Word := wordOfInt (-(code : Int))

end Sys2Proof.Machine
end

