-- ==== Sys2Proof/Machine/Actor.lean ====
section
/-!
DEFINITION. The ACTOR and TASK classes and the placer's answers (18_messages.md R297 to R304).
-/
namespace Sys2Proof.Machine

/-! ### SPAWN (R298) -/

/-- A launch header read by an instruction: it lies in device memory (R33); one that is not 256-byte aligned is no header and is
refused (the fault and the refusal are DEDUCED, log entry 25). -/
def readHeader (a : Word) (s : State) : Except (Cause × State) (Option (List Byte) × State) :=
  match placeOf s a with
  | some (.inter _) | some (.linear _) => if a.toNat % 256 ≠ 0 then .ok (none, s) else (devRead a 256 s).map fun p => (some p.1, p.2)
  | _ => .error (.aspace, s)

/-- The launch of the running activation. -/
def State.myLaunch (s : State) : Option Launch := s.core.act.bind fun a => s.pkg.launch a.slot

/-- A live actor of a launch holds the work identifier. -/
def State.widHeld (s : State) (slot : BitVec 12) (wid : Word) : Bool :=
  s.pkg.dir.any fun e => e.slot == slot && e.wid == wid && e.at_ != .destroyed

/-- SPAWN in one member: the header is read and checked, then the placer is asked. -/
def spawnPart (x : XOp) (s : State) : R :=
  let a := s.rs x.a
  match readHeader a s with
  | .error (c, t) => .trap t c a
  | .ok (raw, t) =>
    match raw, raw.bind parseSpawn, s.core.act with
    | some raw, some _, some act =>
      if s.widHeld act.slot (s.rs x.b) then .done (t.ws x.d (refusal 2))
      else .wait (t.await (.spawn x.d raw (s.rs x.b)) a (XOp.bytes x))
    | _, _, _ => .done (t.ws x.d (refusal 2))

/-- SPAWN (R298). -/
def execSpawn (x : XOp) (s : State) : Out := xissue 16 0 x true [x.d, x.a, x.b] (spawnPart x) s

/-! ### LAUNCH (R302) -/

/-- The completion record's and the notified actor's addresses (DEDUCED, log entry 25). -/
def launchFault (s : State) (comp notify : Word) : Option (Cause × Word) :=
  let dev := match placeOf s comp with | some (.inter _) | some (.linear _) => true | _ => false
  let act := match placeOf s notify with | some (.actor _ _ _) => true | _ => false
  if comp ≠ 0 ∧ dev = false then some (.aspace, comp)
  else if comp.toNat % 64 ≠ 0 then some (.align, comp)
  else if notify ≠ 0 ∧ act = false then some (.aspace, notify)
  else none

/-- LAUNCH in one member. -/
def launchPart (x : XOp) (s : State) : R :=
  let a := s.rs x.a
  match launchFault s (s.rs x.b) (s.rs x.c) with
  | some (c, v) => .trap s c v
  | none =>
    match readHeader a s with
    | .error (c, t) => .trap t c a
    | .ok (raw, t) =>
      match raw, (raw.bind parseLaunch).bind fun h => declsOf h t with
      | some raw, some (_, _, u) => .wait (u.await (.launch x.d raw (s.rs x.b) (s.rs x.c) (x.w2f 0 5)) a (XOp.bytes x))
      | _, _ => .done (t.ws x.d (refusal 2))

/-- LAUNCH (R302). -/
def execLaunch (x : XOp) (s : State) : Out := xissue 17 0 x true [x.d, x.a, x.b, x.c] (launchPart x) s

/-- WIDF (R304): outside a launch no field exists. -/
def widf (x : XOp) (l : Option Launch) (w : Word) : Word :=
  let k := x.w2f 0 3
  match l with
  | none => 0
  | some l =>
    if l.hdr.n ≤ k then 0
    else if x.w2f 3 1 = 1 then BitVec.ofNat 64 (w.toNat / 2 ^ l.hdr.low k * 2 ^ l.hdr.low k)
    else BitVec.ofNat 64 (l.hdr.field w k)

/-- WIDF (R304). -/
def execWidf (x : XOp) (s : State) : Out := xissue 17 1 x true [x.d, x.a] (fun s => .done (s.ws x.d (widf x s.myLaunch (s.rs x.a)))) s

/-! ### The placer's answer (R298, R302) -/

/-- A launch record as it starts. -/
def newLaunch (slot : Nat) (tenant : BitVec 16) (h : Header) (trees : List TreeDecl) (bars : List Nat) (byDevice : Bool)
    (comp notify : Word) (ntype slice : Nat) (attach : Option Word) : Launch :=
  { slot := BitVec.ofNat 12 slot, tenant := tenant, hdr := h, trees := trees, bars := bars, next := 0, killed := [], ign := 0
    byDevice := byDevice, comp := comp, notify := notify, ntype := ntype, slice := slice, attach := attach, given := [], report := none }

/-- A launch may lack barrier, tree or chain resources: its trees are more than remain; its barrier instances are more than remain
of the grove's channels or of the canopy groups; or it declares a chain (DESIGN CHOICE, log entry 55). -/
def Pkg.mayLack (p : Pkg) (l : Launch) : Bool :=
  decide (16 < (p.launches.map p.treesOf).sum + (l.trees.map fun d => l.hdr.instances d.level).sum)
    || decide (8 < p.channels + (l.bars.map l.hdr.instances).sum) || decide (16 < p.groups + (l.bars.map l.hdr.instances).sum)
    || l.hdr.ride.any Option.isSome

/-- A header that a host names, whose launch has no core to read for it: of its addresses those in the bank-linear view, which is a core's
own slice (12_memory.md R202), name no byte (log entry 22). -/
def Header.forHost (h : Header) : Header :=
  let a (v : Word) : Word := if v.toNat / 2 ^ 60 = 2 then BitVec.allOnes 64 else v
  { h with himg := a h.himg, paddr := a h.paddr, decl := a h.decl }

/-- A launch started with the placer's answer: the code of its refusal, or the state and the slot; none where the answer cannot
be given. -/
def answerLaunch (raw : List Byte) (tenant : BitVec 16) (byDevice : Bool) (comp notify : Word) (ntype : Nat) (attach : Option Word)
    (ans : PlacerAns) (s : State) : Option (Sum Nat (State × Nat)) :=
  match (parseLaunch raw).map fun h => if byDevice then h else h.forHost with
  | none => some (.inl 2)
  | some h =>
    match declsOf h s with
    | none => some (.inl 2)
    | some (trees, bars, t) =>
      match ans with
      | .slot n =>
        let l := newLaunch n tenant h trees bars byDevice comp notify ntype s.core.sliceBase attach
        if t.pkg.slotFree n ∧ ({ t.pkg with launches := t.pkg.launches ++ [l] } : Pkg).unitsFit then some (.inr (startLaunch l t, n)) else none
      | .refuse 1 => some (.inl 1)
      | .refuse 3 => if h.actors then some (.inl 3) else none
      | .refuse 4 =>
        let l := newLaunch 0 tenant h trees bars byDevice comp notify ntype 0 attach
        if t.pkg.mayLack l then some (.inl 4) else none
      | .refuse 5 => if t.pkg.slotsFull then some (.inl 5) else none
      | _ => none

/-- What an answer comes to for the member that waits for it (focus core). -/
def placerPart (ans : PlacerAns) (s : State) : Option R :=
  match s.core.await with
  | some { kind := .spawn d raw wid, .. } =>
    (match ans, parseSpawn raw, s.myLaunch with
     | .refuse c, _, _ => if c = 1 ∨ c = 3 then some (.done (s.ws d (refusal c))) else none
     | _, some h, some l =>
       if s.widHeld l.slot wid then some (.done (s.ws d (refusal 2)))
       else (placeActor l h wid s.core.regs.aid ans s).map fun p => .done (p.1.ws d (actorAddr p.2 0))
     | _, _, _ => none)
  | some { kind := .launch d raw comp notify ntype, .. } =>
    (answerLaunch raw s.core.tenant true comp notify ntype none ans s).map fun r =>
      match r with
      | .inl c => .done (s.ws d (refusal c))
      | .inr (t, n) => .done (t.ws d (BitVec.ofNat 64 n))
  | _ => none

/-- The answer with its core numbered as it is when core k stands first. -/
def ansFrom (k : Nat) (ans : PlacerAns) : PlacerAns :=
  match ans with
  | .here j aid base => .here (if j = k then 0 else if j = 0 then k else j) aid base
  | a => a

/-- The cores that an answer names stand in the state. -/
def roomFor (ans : PlacerAns) (s : State) : State :=
  match ans with
  | .here j _ _ => ensurePeers j s
  | _ => s

/-- The place among the members of the first that waits for the placer. -/
def State.asking (s : State) : Option Nat :=
  (List.range (s.peers.length + 1)).find? fun k =>
    match (focus k s).core.await with
    | some { kind := .spawn _ _ _, .. } | some { kind := .launch _ _ _ _ _, .. } => true
    | _ => false

/-- The first launch of actors with an item not yet made. -/
def Pkg.nextItem (p : Pkg) : Option Launch := p.launches.find? fun l => l.hdr.actors && decide (l.next < l.hdr.items) && l.report.isNone

/-- PLACER_ANSWER (R298, R302; 02_execution.md R35): for the member that waits, or for the next item of a launch of actors. -/
def execPlacerAnswer (ans : PlacerAns) (s : State) : Out :=
  match s.asking with
  | some k =>
    let s := roomFor ans s
    let t := focus k s
    (match placerPart (ansFrom k ans) t, t.core.await with
     | some r, some w => answer k w.len r s
     | _, _ => .refused .notDue)
  | none =>
    match s.pkg.nextItem with
    | none => .refused .notDue
    | some l =>
      let wid := l.hdr.itemWid l.next
      let step (t : State) : State := { t with pkg := t.pkg.mapLaunch l.slot fun l => { l with next := l.next + 1 } }
      if l.skips wid then .next (step s)
      else
        match placeActor l l.hdr wid 0 ans (roomFor ans s) with
        | some (t, _) => .next (step t)
        | none => .refused .notDue

/-! ### HSET, HCLR, WSET, WCLR (R299, R300) -/

/-- HSET's operands keep the reserved bits of R285 zero. -/
def hsetOk (a b : Word) : Bool := a.toNat % 4 == 0 && bitsOf a.toNat 48 16 == 0 && bitsOf b.toNat 18 46 == 0 && bitsOf b.toNat 10 1 == 0

/-- HSET (R299). -/
def execHset (x : XOp) (s : State) : Out :=
  xissue 16 1 x true [x.a, x.b]
    (withActor 16 1 x fun _ s =>
      let t : Fin 32 := Fin.ofNat 32 (x.w2f 0 5)
      if hsetOk (s.rs x.a) (s.rs x.b) then
        .done (s.mapSelf fun a => { a with handlers := a.handlers.set t (BitVec.ofNat 128 ((s.rs x.a).toNat + (s.rs x.b).toNat * 2 ^ 64)) })
      else .trap s .hbad (BitVec.ofNat 64 t.val)) s

/-- HCLR (R299). -/
def execHclr (x : XOp) (s : State) : Out :=
  xissue 16 2 x true []
    (withActor 16 2 x fun _ s =>
      .done (s.mapSelf fun a => { a with handlers := Vector.ofFn fun i => if x.w2.getLsbD i.val then a.handlers[i] &&& ~~~(BitVec.ofNat 128 (2 ^ 81)) else a.handlers[i] })) s

/-- Two windows share an actor-space offset. -/
def winMeets (a b : Word) : Bool := overlaps (winOff a) (winLen a) (winOff b) (winLen b)

/-- A descriptor that WSET accepts in window w (12_memory.md R198); a descriptor that is not valid opens no window. One whose offset, base or
length is no multiple of 64, or whose LEN is out of its range, is refused with WBAD as those that R198 lists (DEDUCED, log entry 60). -/
def wsetOk (a : Actor) (w : Nat) (v : Word) : Bool :=
  !v.getLsbD 63
    || (winLen v % 64 == 0 && winBase v % 64 == 0 && winOff v % 64 == 0 && decide (64 ≤ winLen v) && decide (winLen v ≤ 0x40000)
        && decide (winBase v + winLen v ≤ a.size) && decide (winOff v + winLen v ≤ 2 ^ 20)
        && (!(v.getLsbD 61 || v.getLsbD 62) || decide (a.ring ≤ winBase v))
        && (List.range 8).all fun j => j == w || !(a.windows[Fin.ofNat 8 j]).getLsbD 63 || !winMeets a.windows[Fin.ofNat 8 j] v)

/-- WSET (R300). -/
def execWset (x : XOp) (s : State) : Out :=
  xissue 16 3 x true [x.a]
    (withActor 16 3 x fun a s =>
      let w := x.w2f 0 3
      if wsetOk a w (s.rs x.a) then .done (s.mapSelf fun a => { a with windows := a.windows.set (Fin.ofNat 8 w) (s.rs x.a) })
      else .trap s .wbad (BitVec.ofNat 64 w)) s

/-- WCLR (R300). -/
def execWclr (x : XOp) (s : State) : Out :=
  xissue 16 4 x true []
    (withActor 16 4 x fun _ s =>
      .done (s.mapSelf fun a => { a with windows := Vector.ofFn fun i => if x.w2.getLsbD i.val then a.windows[i] &&& 0x7FFFFFFFFFFFFFFF else a.windows[i] })) s

/-! ### ADEST (R301) -/

/-- ADEST (R301): a command of the E queue. -/
def execAdest (x : XOp) (s : State) : Out :=
  xissue 16 5 x true [x.a]
    (fun s =>
      match placeOf s (s.rs x.a) with
      | some (.actor _ _ _) => place { q := .e, cls := 16, sub := 5, x := x } s
      | _ => .trap s .aspace (s.rs x.a)) s

/-- ADEST performed: the request is posted. -/
def performAdest (k : Cmd) (s : State) : Perf :=
  match placeOf s k.sa with
  | some pl => .ok (s.mapCore fun c => c.postBy k (s.near pl) 1 k.sa (normal pl k.sa) 0 (.destroy k.slot)) {}
  | none => .ok s {}

end Sys2Proof.Machine
end

