-- ==== Sys2Proof/Machine/Near.lean ====
section
/-!
DEFINITION. The NEAR class: tables in coppice rows, the N and Q queues, the indexed reduce (20_nearmem.md R307 to R315, R324 to
R331).
-/
namespace Sys2Proof.Machine

/-! ### Tables (R307, R310, R312) -/

/-- A table's bank. -/
def tabBank (h : Nat) : Nat := h % 8
/-- A table of 4,096 entries. -/
def tabBig (h : Nat) : Bool := bitAt h 10
/-- A table's place among the core's coppice bytes: 64 rows of 1 KiB in each bank. -/
def tabAt (h : Nat) : Nat := tabBank h * 0x10000 + bitsOf h 3 6 * 1024 + (if tabBig h then 0 else bitsOf h 9 1 * 512)
/-- A table's bytes. -/
def tabLen (h : Nat) : Nat := if tabBig h then 8192 else 512
/-- The coppice rows written. -/
def tabRows (h : Nat) : Nat := if tabBig h then 8 else 1

/-- An entry of a table. -/
def Core.tabEntry (c : Core) (h idx : Nat) : Nat :=
  leNat (c.coppice.readN (tabAt h + 2 * (idx % (if tabBig h then 4096 else 256))) 2)

/-- A query of a table meets a coppice error that cannot be corrected (22_scheduling_faults.md R357). -/
def Core.tabLost (c : Core) (h : Nat) (idx : List Nat) : Bool :=
  c.coppiceBad != [] && idx.any fun i => c.coppiceBad.contains ((tabAt h + 2 * (i % (if tabBig h then 4096 else 256))) / 32)

/-- The number of a table's first coppice row as the counters name it: bank × 64 + row. -/
def coppiceRow (h : Nat) : Nat := tabBank h * 64 + bitsOf h 3 6

/-- The activations of coppice rows counted (R309): all of a table's rows that l names, from its first. -/
def Core.countTable (c : Core) (h : Nat) (l : List Nat) : Core :=
  { c with sliceRows := l.foldl (fun x i => countRow (coppiceRow h + i) x) c.sliceRows }

/-- The rows of a table that entries lie in, each once. -/
def tabRowsOf (h : Nat) (idx : List Nat) : List Nat :=
  ((idx.map fun i => if tabBig h then i % 4096 * 2 / 1024 else 0)).eraseDups

/-- TLD performed (R312). -/
def performTld (k : Cmd) (s : State) : Perf :=
  let h := k.x.w2f 0 11
  let p := Cmd.at_ k.reads
  match engineReads k [(p, tabLen h)] s with
  | .error (t, v) => .fault t .memerr v
  | .ok t =>
    .ok (t.mapCore fun c =>
      { c.countTable h (List.range (tabRows h)) with
        coppice := c.coppice.writeN (tabAt h) (c.readScratch p (tabLen h))
        coppiceBad := c.coppiceBad.filter fun u => !(decide (tabAt h ≤ 32 * u) && decide (32 * u < tabAt h + tabLen h)) }) {}

/-- The answer of a query: 128 entries. -/
def tqAnswer (c : Core) (h : Nat) (idx : List Nat) : List Byte := idx.flatMap fun i => leBytes 2 (c.tabEntry h i)

/-- An answer of a near-memory command delivered to a local address in flits of 32 bytes, each counted. -/
def nearLocal (k : Cmd) (p : Nat) (sync : Option SyncAt) (bs : List Byte) (s : State) : State :=
  (flitCuts 32 (bs.length + 1) p bs).foldl (fun s f =>
    let u := s.engineWrite k f.1 f.2
    match sync with
    | some (.own q) => u.mapCore fun c => c.arriveSync q f.2.length
    | _ => u) s

/-- TQ performed (R312). -/
def performTq (k : Cmd) (s : State) : Perf :=
  let h := k.x.w2f 0 11
  let p := k.base + k.sa.toNat
  match engineReads k [(p, 256)] s with
  | .error (t, v) => .fault t .memerr v
  | .ok t =>
    let idx := (List.range 128).map fun i => leNat (t.core.readScratch (p + 2 * i) 2)
    if t.core.tabLost h idx then .fault t .memerr k.sa
    else
      let bs := tqAnswer t.core h idx
      let u := t.mapCore fun c => c.countTable h (tabRowsOf h idx)
      let sync : Option SyncAt :=
        if k.sc = 0 then none else if k.sc.toNat / 2 ^ 60 = 0 then some (.own (k.base + k.sc.toNat)) else some (.remote k.sc)
      match placeOf u k.sb with
      | some (.loc off) => .ok (nearLocal k (k.base + off) sync bs u) {}
      | some pl => .ok (postFlits k sync ((flitCuts (flitSize u pl) 257 k.sb.toNat bs).map fun f => (f, 0)) u) {}
      | none => .ok u {}

/-! ### The N queue (R325 to R327) -/

/-- The words of NMLD copied into the buffer and the shadow copy with fresh parity. -/
def Nmu.load (n : Nmu) (e : Nat) : List Nat → Nmu
  | [] => n
  | w :: t =>
    let i : Fin 96 := Fin.ofNat 96 e
    Nmu.load { n with buf := n.buf.set i (BitVec.ofNat 32 w, true), shadow := n.shadow.set i (BitVec.ofNat 32 w) } (e + 1) t

/-- NMLD performed (R325). -/
def performNmld (k : Cmd) (s : State) : Perf :=
  let n := k.x.w2f 0 7
  let p := Cmd.at_ k.reads
  match engineReads k [(p, 4 * n)] s with
  | .error (t, v) => .fault t .memerr v
  | .ok t =>
    let ws := (List.range n).map fun i => leNat (t.core.readScratch (p + 4 * i) 4)
    .ok (t.mapCore fun c => { c with nmu := c.nmu.load (k.x.w2f 8 7) ws }) {}

/-- NMWAIT performed (R326). -/
def performNmwait (k : Cmd) (s : State) : Perf := .ok (s.ws k.x.d s.core.nmu.status) {}

/-- A posted access of the core is outstanding: neither performed nor refused. -/
def Core.outstanding (c : Core) (id : Nat) : Bool :=
  c.posted.any fun p => p.id == id && (match p.stage with | .performed _ | .refused _ => false | _ => true)

/-- NMFENCE performed (R327). -/
def performNmfence (k : Cmd) (s : State) : Perf := if k.fence.any s.core.outstanding then .notYet else .ok s {}

/-! ### NMRED (R329 to R331) -/

/-- The scratchpad offset of the bag offsets. -/
def nmredOffs (k : Cmd) (r : LRec) : Nat := k.base + r.base.toNat + 4 * r.e0

/-- The offsets of the bags. -/
def bagOffs (k : Cmd) (r : LRec) (c : Core) : List Nat :=
  (List.range r.e1).map fun b => leNat (c.readScratch (nmredOffs k r + 2 * b) 2)

/-- The first bag whose offset breaks R330. -/
def badBag (e0 : Nat) (offs : List Nat) : Option Nat :=
  (List.range offs.length).find? fun b =>
    let o := offs.getD b 0
    decide (e0 < o) || (if b = 0 then o != 0 else decide (o < offs.getD (b - 1) 0))

/-- The address of the table row of index j, modulo 2^48 in the interleaved view (R334). -/
def nmredRow (k : Cmd) (r : LRec) (c : Core) (j : Nat) : Int :=
  2 ^ 60 + ((k.sb.toNat : Int) + (leNat (c.readScratch (k.base + r.base.toNat + 4 * j) 4) : Int) * r.st1) % 2 ^ 48

/-- One element of a bag's sum: rows in index-list order, each an element's bits. -/
def bagSum (ty : Nat) (rows : List Nat) : Nat × Flags :=
  rows.foldl (fun acc x =>
    match fmtOf ty with
    | some f =>
      let v := fadd .fp32 .rne 0 (FFmt.fp32.unpack acc.1) (f.unpack x)
      (FFmt.fp32.pack v.1, acc.2.or v.2)
    | none => ((acc.1 + x) % 2 ^ 32, acc.2)) (0, noFlags)

/-- The bytes of a bag's result and its flags; row j's bytes are rows j. -/
def bagResult (ty e2 : Nat) (rows : Nat → List Byte) (lo hi : Nat) : List Byte × Flags :=
  let w := sizeOfTy ty
  let es := (List.range e2).map fun e =>
    bagSum ty (((List.range hi).drop lo).map fun j => leNat (((rows j).drop (w * e)).take w))
  (es.flatMap fun v => leBytes 4 v.1, flagsOf (es.map Prod.snd))

/-- The layout record of the results: e1 bags of e2 words. -/
def LRec.results (r : LRec) : LRec := { r with base := r.aux0, ty := if r.ty = 4 then 4 else 8, e0 := r.e2, e1 := r.e1, e2 := 1, st1 := r.st2, st2 := 0 }

/-- A bag's result sent to actor space in flits, which no count holds (R331). -/
def nearActor (k : Cmd) (pl : Place) (a : Word) (sync : Option SyncAt) (bs : List Byte) (s : State) : State :=
  (flitCuts (flitSize s pl) (bs.length + 1) a.toNat bs).foldl (fun s f =>
    let addr := BitVec.ofNat 64 f.1
    match placeOf s addr with
    | some q => s.mapCore fun c => c.postBy k (s.near q) 0 addr (normal q addr) 0 (.flit f.2 sync)
    | none => s) s

/-- Flits of a command are on their way. -/
def Core.flitsOut (c : Core) (k : Cmd) : Bool :=
  c.posted.any fun p => p.ser == k.serial && p.q == some k.q && (match p.stage with | .performed _ | .refused _ => false | _ => true)

/-- NMRED performed (R330, R331): offsets, translation of every row, then the results, none before all are complete. With results on
their way it commits when the last flit is performed. -/
def performNmred (k : Cmd) (s : State) : Perf :=
  match k.pushed, k.lrec with
  | some fl, _ => if s.core.flitsOut k then .notYet else .ok s { flags := fl }
  | none, none => .ok s {}
  | none, some r =>
    match engineReads k [(k.base + r.base.toNat, 4 * r.e0 + 2 * r.e1)] s with
    | .error (t, v) => .fault t .memerr v
    | .ok t =>
      let offs := bagOffs k r t.core
      match badBag r.e0 offs with
      | some b => .fault t .idxr (BitVec.ofNat 64 b)
      | none =>
        let n := r.e2 * sizeOfTy r.ty
        let at_ : List Int := (List.range r.e0).map fun j => nmredRow k r t.core j
        match at_.find? fun a => decide ((2 ^ 60 + 2 ^ 48 : Int) < a + (n : Int)) with
        | some a => .fault t .xfault (BitVec.ofInt 64 a)
        | none =>
          match mapBatch k.pages .read (at_.map fun a => (BitVec.ofInt 64 a, n)) t with
          | .error e => e
          | .ok (ps, u) =>
            match (List.range r.e0).find? fun j => u.pkg.partsLost (ps.getD j []) with
            | some j => .fault u .memerr (BitVec.ofInt 64 (at_.getD j 0))
            | none =>
              let rows (j : Nat) : List Byte := u.pkg.readParts (ps.getD j [])
              let u := ps.flatten.foldl (fun s p => s.activate p.1 p.2) u
              let bags := (List.range r.e1).map fun b =>
                bagResult r.ty r.e2 rows (offs.getD b 0) (if b + 1 = r.e1 then r.e0 else offs.getD (b + 1) 0)
              let fl := flagsOf (bags.map Prod.snd)
              let sync := k.syncAt r
              let dst (b : Nat) : Word := BitVec.ofInt 64 ((r.aux0.toNat : Int) + b * r.st2)
              match placeOf u r.aux0 with
              | some (.loc _) =>
                .ok (((List.range r.e1).zip bags).foldl (fun s p => nearLocal k (k.base + (dst p.1).toNat) sync p.2.1 s) u) { flags := fl }
              | some pl =>
                let v := ((List.range r.e1).zip bags).foldl (fun s p => nearActor k pl (dst p.1) sync p.2.1 s) u
                .more (v.mapCore fun c => { c with cmds := c.cmds.map fun e => if e.serial = k.serial then { e with pushed := some fl } else e })
              | none => .ok u {}

/-- NEAR performed, but for NMRUN, whose command stays until its run ends (R325). -/
def performNear (k : Cmd) (s : State) : Perf :=
  match k.sub with
  | 0 => performNmld k s
  | 2 => performNmwait k s
  | 3 => performNmfence k s
  | 4 => performNmred k s
  | 5 => performTld k s
  | 6 => performTq k s
  | _ => .notYet

/-! ### Issue -/

/-- NMLD (R325). -/
def execNmld (x : XOp) (s : State) : Out :=
  xissue 18 0 x true [x.a]
    (fun s =>
      match denseRange s (s.rs x.a) (4 * x.w2f 0 7) 4 with
      | .error (c, v) => .trap s c v
      | .ok g => place { q := .n, cls := 18, sub := 0, x := x, reads := [g] } s) s

/-- NMRUN's sync word, when named: LRANGE (R325). -/
def nmrunFault (x : XOp) (s : State) : Bool := x.w2f 11 1 == 1 && (s.localAt (x.w2f 12 20) 16).isNone

/-- NMRUN (R325): admitted by the clearing in class NR. -/
def execNmrun (x : XOp) (s : State) : Out :=
  xissue 18 1 x true [x.a, x.b]
    (fun s =>
      if nmrunFault x s then .trap s .lrange (BitVec.ofNat 64 (x.w2f 12 20))
      else place { q := .n, cls := 18, sub := 1, x := x, grant := .toAsk 128 } s) s

/-- NMWAIT (R326). -/
def execNmwait (x : XOp) (s : State) : Out := xissue 18 2 x true [x.d] (place { q := .n, cls := 18, sub := 2, x := x, dst := [x.d] }) s

/-- NMFENCE (R327): the posted accesses outstanding at its issue. -/
def execNmfence (x : XOp) (s : State) : Out :=
  xissue 18 3 x true []
    (fun s => place { q := .n, cls := 18, sub := 3, x := x, fence := (s.core.posted.map fun p => p.id).filter s.core.outstanding } s) s

/-- A view or alignment breach (R329 check 2). -/
def viewFault (s : State) (a : Word) (al : Nat) (ok : Place → Bool) : Option Cause :=
  match placeOf s a with
  | some pl => if ok pl = false then some .aspace else if a.toNat % al ≠ 0 then some .align else none
  | none => some .aspace

/-- The local view. -/
def Place.isLoc : Place → Bool
  | .loc _ => true
  | _ => false
/-- The local view or actor space. -/
def Place.locOrActor : Place → Bool
  | .loc _ | .actor _ _ _ => true
  | _ => false
/-- The interleaved view. -/
def Place.isInter : Place → Bool
  | .inter _ => true
  | _ => false

/-- NMRED in one member: the checks of R329 in order, then R219's of the sync word's placement (the place of these, and the
checks of the strides, are DEDUCED, log entry 26). -/
def nmredIssue (x : XOp) (s : State) : R :=
  let r := s.core.regs.lrec x.l.val
  let sb := s.rs x.b
  let w := sizeOfTy r.ty
  let n := 4 * r.e0 + 2 * r.e1
  if r.ty ≠ x.ty.val ∨ r.flagI ∨ r.rsv ≠ 0 ∨ r.e0 < 1 ∨ 32 < r.e0 ∨ r.e1 < 1 ∨ 32 < r.e1 ∨ r.e2 < 1 ∨ 256 < r.e2
      ∨ r.st1 % w ≠ 0 ∨ r.st2 % 64 ≠ 0 ∨ (r.flagS = false ∧ r.aux1 ≠ 0) then
    illopX 18 4 x s
  else
    match viewFault s r.base 4 Place.isLoc, viewFault s r.aux0 64 Place.locOrActor,
      (if r.flagS then viewFault s r.aux1 16 Place.locOrActor else none), viewFault s sb w Place.isInter with
    | some c, _, _, _ => .trap s c r.base
    | none, some c, _, _ => .trap s c r.aux0
    | none, none, some c, _ => .trap s c r.aux1
    | none, none, none, some c => .trap s c sb
    | none, none, none, none =>
      match destRange s r.results with
      | .error .aspace => .trap s .aspace r.aux0
      | dst =>
        match s.localAt r.base.toNat n, dst, (if r.flagS then syncRange s r.aux1 else .ok none) with
        | none, _, _ => .trap s .lrange r.base
        | some _, .error c, _ => .trap s c r.aux0
        | some _, .ok _, .error c => .trap s c r.aux1
        | some p, .ok dst, .ok y =>
          if (r.flagS && !syncPlaced s r.aux0 r.aux1) || (match dst, y with | some g, some h => g.meets h | _, _ => false) then
            illopX 18 4 x s
          else
            place { q := .n, cls := 18, sub := 4, x := x, lrec := some r, reads := [{ lo := p, hi := p + n }], writes := dst.toList
                    grant := .toAsk r.e0 } s

/-- NMRED (R329). -/
def execNmred (x : XOp) (s : State) : Out := xissue 18 4 x true (lrecRegs x.l.val ++ [x.b]) (nmredIssue x) s

/-- TLD (R311, R312): class TQ, 34 for each row written. -/
def execTld (x : XOp) (s : State) : Out :=
  xissue 18 5 x true [x.a]
    (fun s =>
      let h := x.w2f 0 11
      match denseRange s (s.rs x.a) (tabLen h) 64 with
      | .error (c, v) => .trap s c v
      | .ok g => place { q := .q, cls := 18, sub := 5, x := x, reads := [g], grant := .toAsk (34 * tabRows h) } s) s

/-- TQ's answer: the local range it writes, if any, or its fault. -/
def tqDest (s : State) (sb : Word) : Except Cause (Option Range) :=
  match viewFault s sb 64 Place.locOrActor with
  | some c => .error c
  | none =>
    match placeOf s sb with
    | some (.loc off) => (match s.localAt off 256 with | some p => .ok (some { lo := p, hi := p + 256 }) | none => .error .lrange)
    | some (.actor _ _ off) => if off + 256 ≤ 2 ^ 20 then .ok none else .error .aspace
    | _ => .error .aspace

/-- TQ in one member (R312). -/
def tqIssue (x : XOp) (s : State) : R :=
  let sc := s.rs x.c
  match denseRange s (s.rs x.a) 256 64 with
  | .error (c, v) => .trap s c v
  | .ok g =>
    match tqDest s (s.rs x.b) with
    | .error c => .trap s c (s.rs x.b)
    | .ok dst =>
      if sc ≠ 0 ∧ syncPlaced s (s.rs x.b) sc = false then .trap s .aspace sc
      else
        match (if sc ≠ 0 then syncRange s sc else .ok none) with
        | .error c => .trap s c sc
        | .ok _ => place { q := .q, cls := 18, sub := 6, x := x, reads := [g], writes := dst.toList, grant := .toAsk 34 } s

/-- TQ (R311, R312): class TQ, 34. -/
def execTq (x : XOp) (s : State) : Out := xissue 18 6 x true [x.a, x.b, x.c] (tqIssue x) s

/-! ### Refresh (R308, R309): it changes no stored bit and no result -/

/-- DRAM_REFRESH (R309): a bank of the slice is refreshed. -/
def execDramRefresh (bank : Nat) (s : State) : Out := if bank < 8 then .next s else .refused .notDue

/-- TARGETED_REFRESH (R309): a row's count has reached the disturbance threshold; the count is reset. -/
def execTargetedRefresh (bank row : Nat) (s : State) : Out :=
  let data := (s.core.sliceBase + bank * 0xC00000) / 1024 + row
  let coppice := bank * 64 + (row - 12288)
  let due (l : List (Nat × Nat)) (n : Nat) : Bool := l.any fun p => p.1 == n && decide (Config.disturbThreshold ≤ p.2)
  if 8 ≤ bank ∨ 12288 + 64 ≤ row then .refused .notDue
  else if row < 12288 then
    if due s.pkg.acts data then .next { s with pkg := { s.pkg with acts := s.pkg.acts.filter fun q => q.1 != data } } else .refused .notDue
  else if due s.core.sliceRows coppice then
    .next (s.mapCore fun c => { c with sliceRows := c.sliceRows.filter fun q => q.1 != coppice })
  else .refused .notDue

end Sys2Proof.Machine
end

