-- ==== Sys2Proof/Machine/Nmu.lean ====
section
/-!
DEFINITION. The NMU: runs, its instructions, parity and the clearing (20_nearmem.md R316 to R323, R325).
-/
namespace Sys2Proof.Machine

/-! ### The run -/

/-- The core's NMU changed. -/
def State.mapNmu (s : State) (f : Nmu → Nmu) : State := s.mapCore fun c => { c with nmu := f c.nmu }

/-- The run changed. -/
def Nmu.mapRun (n : Nmu) (f : NRun → NRun) : Nmu := { n with run := n.run.map f }

/-- What a run starts with (R316, R323). -/
def Nmu.begin (n : Nmu) (r : NRun) : Nmu :=
  let h (w : Word) (k : Nat) : BitVec 32 := BitVec.ofNat 32 (bitsOf w.toNat k 32)
  { n with
    n := Vector.replicate 24 0
    a := #v[h r.sa 0, h r.sa 32, h r.sb 0, h r.sb 32]
    loop0 := none
    loop1 := none
    flags := {}
    run := some r }

/-- The run of an NMRUN (R325). -/
def Cmd.nrun (k : Cmd) : NRun :=
  { serial := k.serial, start := k.x.w2f 0 7, sa := k.sa, sb := k.sb
    sync := if k.x.w2f 11 1 = 1 then some (k.base + k.x.w2f 12 20) else none
    entry := k.x.w2f 0 7, base := k.base, size := k.size, aid := k.aid, slot := k.slot, pushes := 0, counted := 0
    replayed := false, waiting := false, ended := false }

/-- The NMRUN that the NMU may start: the startable head of the N queue, with no run in progress. -/
def Core.runToStart (c : Core) : Option Cmd :=
  match c.nmu.run, (c.queue .n).head? with
  | none, some k => if k.cls = 18 ∧ k.sub = 1 ∧ c.startable k then some k else none
  | _, _ => none

/-- The status word of R326. -/
def nmuStatus (f : Flags) (replayed : Bool) (entry state : Nat) : Word :=
  BitVec.ofNat 64 (((if f.sat then 32 else 0) + (if f.nx then 16 else 0) + (if f.uf then 8 else 0) + (if f.ov then 4 else 0)
    + (if f.dz then 2 else 0) + (if f.nv then 1 else 0)) * 2 ^ 16 + (if replayed then 2 ^ 15 else 0) + entry % 128 * 2 ^ 8 + state)

/-- The run stopped before its entry, or at its NEND, with a state of R322. -/
def Nmu.stop (n : Nmu) (r : NRun) (state : Nat) : Nmu :=
  { n with status := nmuStatus n.flags r.replayed r.entry state, run := some { r with ended := true } }

/-- A run in progress that is neither ended nor waiting for the clearing. -/
def Nmu.running (n : Nmu) : Option NRun :=
  match n.run with
  | some r => if r.ended || r.waiting then none else some r
  | none => none

/-- NMU_RUN_END (R322, R325): the ended run commits; one that is not DONE raises NMERR. -/
def execNmuRunEnd (s : State) : Out :=
  match s.core.nmu.run with
  | none => .refused .notDue
  | some r =>
    if r.ended = false then .refused .notDue
    else
      let n := s.core.nmu
      .next ((s.mapCore fun c =>
        { c with
          nmu := { n with run := none }
          cmds := c.cmds.filter fun k => k.serial != r.serial
          regs := c.regs.accrue n.flags
          deferred := if n.status.toNat % 256 = 0 then c.deferred else c.deferred ++ [{ cause := .nmerr, tval := n.status, q := some .n, at_ := s.grove.cycle, mgmt := c.cmds.any fun k => k.serial == r.serial && k.mgmt }] }))

/-- An entry's parity holds. -/
def Nmu.parityOk (n : Nmu) (e : Nat) : Bool :=
  match n.buf[e]? with
  | some p => p.2 && !n.stuck.contains e
  | none => true

/-- NMU_PARITY_RELOAD (R323): the buffer is reloaded, and the program runs again; a second failure stops the run (R322). -/
def execNmuParityReload (s : State) : Out :=
  let n := s.core.nmu
  match n.running with
  | none => .refused .notDue
  | some r =>
    if n.parityOk r.entry then .refused .notDue
    else if r.replayed then .next (s.mapNmu fun n => n.stop r 1)
    else
      .next (s.mapNmu fun n =>
        { n with buf := n.shadow.map fun w => (w, true) }.begin { r with entry := r.start, pushes := 0, counted := max r.counted r.pushes, replayed := true })

/-- NMU_CLEARING_REQUEST (R325): the run pauses and asks for 128 more energy units. -/
def execNmuClearingRequest (s : State) : Out :=
  match s.core.nmu.running with
  | none => .refused .notDue
  | some r =>
    let t := s.mapNmu fun n => n.mapRun fun r => { r with waiting := true }
    .next { t with grove := { t.grove with reqs := t.grove.reqs ++ [{ core := s.core.ix, serial := r.serial, e := 128 }] } }

/-! ### Loops and the next entry (R319) -/

/-- The end of a loop body at the next entry: the loop goes round, or is over. -/
def loopEnd (l : Option NLoop) (next : Nat) : Option NLoop × Nat × Bool :=
  match l with
  | some k => if next = k.stop then (if 1 < k.left then (some { k with left := k.left - 1 }, k.start, true) else (none, next, false)) else (l, next, false)
  | none => (l, next, false)

/-- The entry after one that has executed. -/
def Nmu.goOn (n : Nmu) (next : Nat) : Nmu :=
  let i := loopEnd n.loop1 next
  if i.2.2 then { n with loop1 := i.1 }.mapRun fun r => { r with entry := i.2.1 }
  else
    let o := loopEnd n.loop0 next
    { n with loop1 := i.1, loop0 := o.1 }.mapRun fun r => { r with entry := o.2.1 }

/-- An NMU instruction of the run in progress: f answers the state in which it has executed, or the error that stops the run
before it. -/
def nmuStep (ok : Bool) (f : NRun → State → Except Nat State) (s : State) : Out :=
  match s.core.nmu.running with
  | none => .refused .notDue
  | some r =>
    if ok = false then .next (s.mapNmu fun n => n.stop r 2)
    else
      match f r s with
      | .error e => .next (s.mapNmu fun n => n.stop r e)
      | .ok t => .next (t.mapNmu fun n => n.goOn (r.entry + 1))

/-! ### Elements -/

/-- The core type code of an NMU type. -/
def nmuTy (t : Nat) : Nat :=
  match t with
  | 0 => 0 | 1 => 2 | 2 => 4 | 3 => 9 | 4 => 10 | _ => 8

/-- The rounding mode of an NMU code. -/
def nmuMode (rm : Nat) : RMode := (rmodeOf rm).getD .rne

/-- An NMU register. -/
def Nmu.reg (n : Nmu) (i : Fin 32) : Nat := (n.n[Fin.ofNat 24 i.val]).toNat

/-- An NMU register written, and flags accrued. -/
def Nmu.put (n : Nmu) (d : Fin 32) (v : Nat) (f : Flags) : Nmu :=
  { n with n := n.n.set (Fin.ofNat 24 d.val) (BitVec.ofNat 256 v), flags := n.flags.or f }

/-- The elements of w bits of 256. -/
def nElems (w v : Nat) : List Nat := (List.range (256 / w)).map fun i => bitsOf v (i * w) w

/-- An elementwise instruction: f gets the elements of a, b and d. -/
def nmuElems (x : NaF) (f : Nat → Nat → Nat → Nat × Flags) (s : State) : State :=
  let w := tyBits (nmuTy x.ty.val)
  let n := s.core.nmu
  let g (r : Fin 32) : List Nat := nElems w (n.reg r)
  let rs := (List.range (256 / w)).map fun i => f ((g x.a).getD i 0) ((g x.b).getD i 0) ((g x.d).getD i 0)
  s.mapNmu fun n => n.put x.d (packElems w (rs.map Prod.fst)) (flagsOf (rs.map Prod.snd))

/-- The arithmetic of op 4 to 9: sub is VARITH's number of the same operation (10_vector_matrix.md R160). -/
def nmuArith (sub : Nat) (x : NaF) (a b d : Nat) : Nat × Flags :=
  let ty := nmuTy x.ty.val
  match fmtOf ty with
  | some f =>
    let r := vaFloat sub f (nmuMode x.rm.val) 0 0 (f.unpack a) (f.unpack b) (f.unpack d)
    (f.pack r.1, r.2)
  | none =>
    let w := tyBits ty
    let g (v : Nat) : Int := readInt true w v
    intToInt true w x.sat (vaInt sub w (g a) (g b) (g d))

/-- NADD (R318). -/
def execNadd (x : NaF) (s : State) : Out := nmuStep (x.ok true true true 1) (fun _ s => .ok (nmuElems x (nmuArith 0 x) s)) s
/-- NSUB (R318). -/
def execNsub (x : NaF) (s : State) : Out := nmuStep (x.ok true true true 1) (fun _ s => .ok (nmuElems x (nmuArith 1 x) s)) s
/-- NMUL (R318). -/
def execNmul (x : NaF) (s : State) : Out := nmuStep (x.ok true true true 1) (fun _ s => .ok (nmuElems x (nmuArith 2 x) s)) s
/-- NFMA (R318). -/
def execNfma (x : NaF) (s : State) : Out := nmuStep (x.ok true true true 1) (fun _ s => .ok (nmuElems x (nmuArith 3 x) s)) s
/-- NMIN (R318). -/
def execNmin (x : NaF) (s : State) : Out := nmuStep (x.ok false false true 1) (fun _ s => .ok (nmuElems x (nmuArith 5 x) s)) s
/-- NMAX (R318). -/
def execNmax (x : NaF) (s : State) : Out := nmuStep (x.ok false false true 1) (fun _ s => .ok (nmuElems x (nmuArith 6 x) s)) s

/-- A comparison of NCMP (R318): conditions 0 EQ, 1 NE, 2 LT, 3 LE, 4 GT, 5 GE. -/
def nmuCmp (ty cond a b : Nat) : Bool :=
  match fmtOf ty with
  | some f =>
    let p := f.unpack a
    let q := f.unpack b
    match cond with
    | 0 => veq p q
    | 1 => !veq p q
    | 2 => vlt p q
    | 3 => vlt p q || veq p q
    | 4 => vlt q p
    | _ => vlt q p || veq p q
  | none =>
    let p := readInt true (tyBits ty) a
    let q := readInt true (tyBits ty) b
    match cond with
    | 0 => p == q
    | 1 => p != q
    | 2 => decide (p < q)
    | 3 => decide (p ≤ q)
    | 4 => decide (q < p)
    | _ => decide (q ≤ p)

/-- NCMP (R318). -/
def execNcmp (x : NaF) (s : State) : Out :=
  let ty := nmuTy x.ty.val
  nmuStep (x.ok false false true 6)
    (fun _ s => .ok (nmuElems x (fun a b _ => (if nmuCmp ty x.x.val a b then 2 ^ tyBits ty - 1 else 0, noFlags)) s)) s
/-- NSEL (R318). -/
def execNsel (x : NaF) (s : State) : Out :=
  nmuStep (x.ok false false true 1) (fun _ s => .ok (nmuElems x (fun a b d => (if d ≠ 0 then a else b, noFlags)) s)) s
/-- NAND (R318): bitwise. -/
def execNand (x : NaF) (s : State) : Out :=
  nmuStep (x.ok false false true 1) (fun _ s => .ok (nmuElems x (fun a b _ => (Nat.land a b, noFlags)) s)) s
/-- NOR (R318): bitwise. -/
def execNor (x : NaF) (s : State) : Out :=
  nmuStep (x.ok false false true 1) (fun _ s => .ok (nmuElems x (fun a b _ => (Nat.lor a b, noFlags)) s)) s
/-- NXOR (R318): bitwise. -/
def execNxor (x : NaF) (s : State) : Out :=
  nmuStep (x.ok false false true 1) (fun _ s => .ok (nmuElems x (fun a b _ => (Nat.xor a b, noFlags)) s)) s

/-- A shift of NSHF: mode 0 left, 1 right logical, 2 right arithmetic. -/
def nmuShift (w mode c a : Nat) : Nat :=
  match mode with
  | 0 => a * 2 ^ c % 2 ^ w
  | 1 => a / 2 ^ c
  | _ => lowBits w (readInt true w a / 2 ^ c)

/-- NSHF (R318). -/
def execNshf (x : NaF) (s : State) : Out :=
  let w := tyBits (nmuTy x.ty.val)
  nmuStep (x.ok false false false 3) (fun _ s => .ok (nmuElems x (fun a _ _ => (nmuShift w x.x.val (x.b.val % w) a, noFlags)) s)) s

/-- NCVT (R318): the elements below 256 ÷ the larger width; the others are 0. -/
def execNcvt (x : NaF) (s : State) : Out :=
  nmuStep x.cvtOk
    (fun _ s =>
      let src := nmuTy x.b.val
      let dst := nmuTy x.ty.val
      let n := 256 / max (tyBits src) (tyBits dst)
      let es := ((nElems (tyBits src) (s.core.nmu.reg x.a)).take n).map (cvtElem src dst (nmuMode x.rm.val) 0 x.sat)
      .ok (s.mapNmu fun m => m.put x.d (packElems (tyBits dst) (es.map Prod.fst)) (flagsOf (es.map Prod.snd)))) s

/-- Adjacent pairs combined. -/
def pairs (f : Nat → Nat → Nat × Flags) : List Nat → List (Nat × Flags)
  | a :: b :: t => f a b :: pairs f t
  | [a] => [(a, noFlags)]
  | [] => []

/-- The fixed pairwise tree over elements. -/
def pairTree (f : Nat → Nat → Nat × Flags) : Nat → List Nat → Nat × Flags
  | 0, l => (l.headD 0, noFlags)
  | n + 1, l =>
    if l.length ≤ 1 then (l.headD 0, noFlags)
    else
      let p := pairs f l
      let r := pairTree f n (p.map Prod.fst)
      (r.1, (flagsOf (p.map Prod.snd)).or r.2)

/-- NRED (R318): 0 sum, 1 minimum, 2 maximum. -/
def execNred (x : NaF) (s : State) : Out :=
  nmuStep x.redOk
    (fun _ s =>
      let sub := match x.x.val with | 0 => 0 | 1 => 5 | _ => 6
      let r := pairTree (fun a b => nmuArith sub x a b 0) 6 (nElems (tyBits (nmuTy x.ty.val)) (s.core.nmu.reg x.a))
      .ok (s.mapNmu fun m => m.put x.d r.1 r.2)) s

/-- NLDI (R318). -/
def execNldi (x : NiF) (s : State) : Out :=
  let ty := nmuTy x.ty.val
  let i := x.imm.toNat
  let v : Nat :=
    match x.ty.val with
    | 0 => i % 256
    | 1 | 3 | 4 => i
    | 2 => lowBits 32 (sxt 16 i)
    | _ => i * 2 ^ 16
  nmuStep (decide (x.ty.val ≤ 5) && nreg x.d)
    (fun _ s => .ok (s.mapNmu fun m => m.put x.d (packElems (tyBits ty) (List.replicate (256 / tyBits ty) v)) noFlags)) s

/-! ### Addresses (R317, R322) -/

/-- The address of an NM instruction. -/
def NmF.ea (x : NmF) (n : Nmu) : Nat :=
  lowBits 32 ((n.a[x.ai]).toNat + x.off.toInt * 32)

/-- The bank and offset of an NM address in the slice, or the error of R322. -/
def bankAddr (ea : Nat) : Except Nat (Nat × Nat) :=
  if bitsOf ea 27 5 ≠ 0 then .error 3
  else if ea % 32 ≠ 0 then .error 4
  else if 0xC00000 ≤ bitsOf ea 0 24 then .error 3
  else .ok (bitsOf ea 24 3, bitsOf ea 0 24)

/-- An NM instruction on 32 bytes of the slice. -/
def nmuBank (ok : Bool) (x : NmF) (f : NRun → Nat × Nat → Nat → State → Except Nat State) (s : State) : Out :=
  nmuStep ok
    (fun r s =>
      match bankAddr (NmF.ea x s.core.nmu) with
      | .error e => .error e
      | .ok b => f r b (slicePa s.core b.1 b.2) (s.activate (slicePa s.core b.1 b.2) 32)) s

/-- NLDR (R318). -/
def execNldr (x : NmF) (s : State) : Out :=
  nmuBank (NmF.ok x) x
    (fun _ _ pa s =>
      if s.pkg.memLost pa 32 then .error 6 else .ok (s.mapNmu fun n => n.put x.d (leNat (s.pkg.readMem pa 32)) noFlags)) s

/-- NSTR (R318). -/
def execNstr (x : NmF) (s : State) : Out :=
  nmuBank (NmF.ok x) x (fun _ _ pa s => .ok (s.writeDev pa (leBytes 32 (s.core.nmu.reg x.d)))) s

/-! ### NLAW (R320) -/

/-- The four law words of 32 bytes: each slot that begins a word, with the word above it when it is W128; none is NLKIND. -/
def lawSlots (s : State) (w : Nat → Word) : Option (List (Nat × Bool)) :=
  let wide (j : Nat) : Bool := (lawOf (s.lawEntry (w j))).wide
  let half (j : Nat) : Option (List (Nat × Bool)) :=
    if wide j then some [(j, true)] else if wide (j + 1) then none else some [(j, false), (j + 1, false)]
  match half 0, half 2 with
  | some a, some b => some (a ++ b)
  | _, _ => none

/-- One word of NLAW: the values it writes to elements, and the state after its crossing and rebase. -/
def nlawWord (x : NmF) (r : NRun) (b : Nat × Nat) (pa : Nat) (w : Nat → Word) (acc : List (Nat × Nat) × Flags × State) (j : Nat × Bool) :
    List (Nat × Nat) × Flags × State :=
  let s := acc.2.2
  let lo := w j.1
  let hi := if j.2 then w (j.1 + 1) else 0
  let entry := s.lawEntry lo
  let l := lawOf entry
  let d := lawAge s.grove.lawnow lo
  let m := nmuMode x.rm.val
  let cr := lawCrosses l lo hi d
  let a := lawAdvance l m lo hi d
  let add : Option FVal := if x.mode = 1 then some .pzero else none
  let re := lawRound m 0 add a.1
  let im := lawRound m 0 add a.2
  let s := if cr then s.handOver { lo := lo, hi := hi, entry := entry, age := d, lawnow := s.grove.lawnow, offset := BitVec.ofNat 32 (0x80000000 + b.1 * 2 ^ 24 + b.2 + 8 * j.1), owner := 0, slot := r.slot, sweep := false } else s
  let word := if x.mode = 1 then lwBase re.1 s.grove.lawnow (lwFired lo || cr) (lwIndex lo) else lwFire lo
  let s := if x.mode = 1 ∨ cr then s.writeDev (pa + 8 * j.1) (leBytes 8 word.toNat) else s
  let s := if x.mode = 1 ∧ j.2 then s.writeDev (pa + 8 * j.1 + 12) (leBytes 4 im.1) else s
  (acc.1 ++ [(j.1, re.1)] ++ (if j.2 then [(j.1 + 1, im.1)] else []), acc.2.1.or (re.2.or (if j.2 then im.2 else noFlags)), s)

/-- The crossings that the four words find. -/
def nlawCrossings (s : State) (w : Nat → Word) (l : List (Nat × Bool)) : Nat :=
  (l.filter fun j => lawCrosses (lawOf (s.lawEntry (w j.1))) (w j.1) (if j.2 then w (j.1 + 1) else 0) (lawAge s.grove.lawnow (w j.1))).length

/-- NLAW performed on its 32 bytes. -/
def nlawDo (x : NmF) (r : NRun) (b : Nat × Nat) (pa : Nat) (s : State) : Except Nat State :=
  if s.pkg.memLost pa 32 then .error 6
  else
    let w (j : Nat) : Word := BitVec.ofNat 64 (leNat (s.pkg.readMem (pa + 8 * j) 8))
    match lawSlots s w with
    | none => .error 5
    | some l =>
      let t := l.foldl (nlawWord x r b pa w) ([], noFlags, s)
      let es := (List.range 4).map fun j => match t.1.find? fun p => p.1 == j with | some p => p.2 | none => 0
      .ok (t.2.2.mapNmu fun n => n.put x.d (packElems 32 es) t.2.1)

/-- NLAW waits for room in the crossing unit's queue (14_lawstate.md R239). -/
def nlawHolds (x : NmF) (s : State) : Bool :=
  match s.core.nmu.running, bankAddr (NmF.ea x s.core.nmu) with
  | some _, .ok b =>
    let pa := slicePa s.core b.1 b.2
    let w (j : Nat) : Word := BitVec.ofNat 64 (leNat (s.pkg.readMem (pa + 8 * j) 8))
    (match lawSlots s w with
     | some l => decide (0 < nlawCrossings s w l) && decide (16 < s.grove.crossings.length + nlawCrossings s w l)
     | none => false)
  | _, _ => false

/-- NLAW (R320). -/
def execNlaw (x : NmF) (s : State) : Out :=
  if nlawHolds x s then .next s
  else nmuBank (nreg x.d && decide (x.mode.val ≤ 1) && decide (x.rm.val ≤ 4)) x (nlawDo x) s

/-! ### NTQ, NPUSH, loops, NADDA, NEND -/

/-- NTQ (R318). -/
def execNtq (x : NqF) (s : State) : Out :=
  nmuStep (nreg x.d && nreg x.a && handleOk x.handle.toNat)
    (fun _ s =>
      let h := x.handle.toNat
      let idx := nElems 16 (s.core.nmu.reg x.a)
      if s.core.tabLost h idx then .error 6
      else
        let v := packElems 16 (idx.map fun i => s.core.tabEntry h i)
        .ok ((s.mapCore fun c => c.countTable h (tabRowsOf h idx)).mapNmu fun n => n.put x.d v noFlags)) s

/-- The 32 bytes of a push, at its scratchpad offset, counted when its ordinal was not counted before (R321, R323). -/
def pushDo (x : NmF) (r : NRun) (ea : Nat) (s : State) : State :=
  let bs := leBytes 32 (s.core.nmu.reg x.d)
  let p := r.base + ea
  let t := (s.mapCore fun c => c.writeScratch p bs).touched
    { kind := 3, rd := false, remote := true, score := s.core.pkgIx, said := r.aid.toNat, lo := p, n := 32 }
  let t := match r.sync with
    | some q => if r.counted < r.pushes + 1 then t.mapCore fun c => c.arriveSync q 32 else t
    | none => t
  t.mapNmu fun n => n.mapRun fun r => { r with pushes := r.pushes + 1 }

/-- NPUSH (R321). -/
def execNpush (x : NmF) (s : State) : Out :=
  nmuStep (NmF.ok x)
    (fun r s =>
      let ea := NmF.ea x s.core.nmu
      if bitsOf ea 27 5 ≠ 0 then .error 3
      else if ea % 32 ≠ 0 then .error 4
      else if r.size < ea + 32 then .error 3
      else .ok (pushDo x r ea s)) s

/-- A loop's start (R319): the passes, the body's first entry and the entry after it. -/
def nloopOf (x : NlF) (r : NRun) (n : Nmu) : NLoop :=
  { left := if x.count = 0 then n.a[3].toNat else x.count.toNat, start := r.entry + 1, stop := r.entry + 1 + x.len.toNat }

/-- The length that an NLOOP encodes. -/
def nloopOk (x : NlF) : Bool := decide (1 ≤ x.len.toNat) && decide (x.len.toNat ≤ 95)

/-- The next entry after an NLOOP: into the body, or past it. -/
def nloopStep (ok : Bool) (x : NlF) (legal : Nmu → NLoop → Bool) (set : Nmu → NLoop → Nmu) (s : State) : Out :=
  match s.core.nmu.running with
  | none => .refused .notDue
  | some r =>
    let n := s.core.nmu
    let l := nloopOf x r n
    if ok = false ∨ 96 < l.stop ∨ legal n l = false then .next (s.mapNmu fun n => n.stop r 2)
    else if l.left = 0 then .next (s.mapNmu fun n => n.goOn l.stop)
    else .next (s.mapNmu fun n => (set n l).mapRun fun r => { r with entry := l.start })

/-- NLOOP0 (R319): not inside an NLOOP0 body. -/
def execNloop0 (x : NlF) (s : State) : Out :=
  nloopStep (nloopOk x) x (fun n _ => n.loop0.isNone) (fun n l => { n with loop0 := some l }) s

/-- NLOOP1 (R319): its body lies within an active NLOOP0 body. -/
def execNloop1 (x : NlF) (s : State) : Out :=
  nloopStep (nloopOk x) x
    (fun n l => match n.loop0 with | some o => decide (o.start ≤ l.start) && decide (l.stop ≤ o.stop) | none => false)
    (fun n l => { n with loop1 := some l }) s

/-- NADDA (R318). -/
def execNadda (x : NdF) (s : State) : Out :=
  nmuStep true (fun _ s => .ok (s.mapNmu fun n => { n with a := n.a.set x.ai (n.a[x.ai] + BitVec.ofInt 32 x.imm.toInt) })) s

/-- NEND (R318, R322): the run ends, DONE. -/
def execNend (s : State) : Out :=
  match s.core.nmu.running with
  | none => .refused .notDue
  | some r => .next (s.mapNmu fun n => n.stop r 0)

end Sys2Proof.Machine
end

