-- ==== Sys2Proof/Machine/Debug.lean ====
section
/-!
DEFINITION. The DEBUG class and the events of the debug module, the trace and the grove's power (24_debug.md R363 to R381).
-/
namespace Sys2Proof.Machine

/-! ### The DEBUG class (R379) -/

/-- The debug module changed. -/
def State.mapDbg (s : State) (f : Debug → Debug) : State := s.mapCore fun c => { c with dbg := f c.dbg }

/-- DBGCTL.SELF. -/
def Core.selfDebug (c : Core) : Bool := c.dbg.ctl.getLsbD 0

/-- A DEBUG instruction that needs SELF: PRIVOP without it. -/
def withSelf (sub : Nat) (x : XOp) (f : State → R) (s : State) : R :=
  if s.core.selfDebug then f s else .trap s .privop ((BitVec.ofNat 32 (x.word0 19 sub)).setWidth 64)

/-- A BP register that halts at a code address. -/
def breakAt (a : Word) : Word := BitVec.ofNat 64 (2 ^ 63 + bitsOf a.toNat 2 46 * 4)

/-- DBSET (R379). -/
def execDbset (x : XOp) (s : State) : Out :=
  xissue 19 0 x true [x.a]
    (withSelf 0 x fun s =>
      let a := s.rs x.a
      if a.toNat % 4 ≠ 0 then .trap s .align a
      else .done (s.mapDbg fun d => { d with bp := d.bp.set (Fin.ofNat 4 (x.w2f 0 2)) (breakAt a) })) s

/-- DBCLR (R379). -/
def execDbclr (x : XOp) (s : State) : Out :=
  xissue 19 1 x true []
    (withSelf 1 x fun s => .done (s.mapDbg fun d => { d with bp := Vector.ofFn fun i => if x.w2.getLsbD i.val then 0 else d.bp[i] })) s

/-- A WP register that watches the word at a scratchpad offset. -/
def watchAt (p : Nat) (control : Word) : Word := BitVec.ofNat 64 (2 ^ 63 + control.toNat % 128 * 2 ^ 56 + p)

/-- DWSET (R379). -/
def execDwset (x : XOp) (s : State) : Out :=
  xissue 19 2 x true [x.a, x.b]
    (withSelf 2 x fun s =>
      let n : Fin 4 := Fin.ofNat 4 (x.w2f 0 2)
      match localSpan s (s.rs x.a) 8 8 with
      | .error c => .trap s c (s.rs x.a)
      | .ok g => .done (s.mapDbg fun d => { d with wp := d.wp.set n (watchAt g.lo (s.rs x.b)), whit := d.whit.set n 0 })) s

/-- A register's V bit cleared. -/
def clearV (w : Word) : Word := w &&& 0x7FFFFFFFFFFFFFFF

/-- DWCLR (R379). -/
def execDwclr (x : XOp) (s : State) : Out :=
  xissue 19 3 x true []
    (withSelf 3 x fun s => .done (s.mapDbg fun d => { d with wp := Vector.ofFn fun i => if x.w2.getLsbD i.val then clearV d.wp[i] else d.wp[i] })) s

/-- TRMARK (R379): condition 9, and a MARK record when tracing records. -/
def execTrmark (x : XOp) (s : State) : Out := xissue 19 4 x true [x.a] (fun s => .done (s.mapDbg fun d => d.note [9] [(5, s.rs x.a)])) s

/-- TRCFG's fields of a written value (R4, R371). -/
def trcfgOf (v : Word) : Word := v &&& 0x7F0F0F03

/-- TRCTL (R379). -/
def execTrctl (x : XOp) (s : State) : Out :=
  xissue 19 5 x true [x.a] (withSelf 5 x fun s => .done (s.mapDbg fun d => { d with trcfg := trcfgOf (s.rs x.a) })) s

/-- Accumulator or counter i (R376, R377). -/
def Core.profile (c : Core) (i : Nat) : Word :=
  if i < 64 then BitVec.ofNat 64 (c.acctCount[Fin.ofNat 64 i] * 2 ^ 48 + c.acctSum[Fin.ofNat 64 i])
  else BitVec.ofNat 64 c.counters[Fin.ofNat 6 (i - 64)]

/-- A counter of cycles (65 to 69 of R377) has grown by a free amount since it was last read (timing is left out, log entry 3). -/
def State.grown (i : Nat) (s : State) : State :=
  if i < 65 then s
  else
    let k : Fin 6 := Fin.ofNat 6 (i - 64)
    let n := min (s.core.counters[k] + (Config.freeWord s.fresh).toNat) (2 ^ 64 - 1)
    { s.mapCore (fun c => { c with counters := c.counters.set k n }) with fresh := s.fresh + 1 }

/-- DACC (R379): an index above 69 raises ILLOP. -/
def execDacc (x : XOp) (s : State) : Out :=
  let i := x.w2f 0 7
  xissue 19 6 x (decide (i ≤ 69)) [x.d] (fun s => let t := s.grown i; .done (t.ws x.d (t.core.profile i))) s

/-! ### Stops (R366 to R369) -/

/-- The lowest breakpoint that matches the next instruction; the one that a run or a step resumes at passes (DEDUCED, log entry 10). -/
def Core.breakpoint (c : Core) : Option (Fin 4) :=
  if c.dbg.ctl.getLsbD 1 && !c.dbg.pass && c.act.isSome && c.await.isNone && c.regs.pc.toNat / 2 ^ 48 == 0x1000 then
    ([0, 1, 2, 3] : List (Fin 4)).find? fun n => c.dbg.bp[n].getLsbD 63 && bitsOf c.dbg.bp[n].toNat 2 46 == bitsOf c.regs.pc.toNat 2 46
  else none

/-- The breakpoint stop of the members (R366). -/
def State.breaks (s : State) : Option (Fin 4) := s.together.findSome? Core.breakpoint

/-- The first of the stops. -/
def earliest : List Stop → Option Stop
  | [] => none
  | t :: l =>
    match earliest l with
    | some u => some (if u.at_ < t.at_ then u else t)
    | none => some t

/-- The stop that has arrived first among the members. -/
def State.stopHere (s : State) : Option Stop := earliest (s.together.filterMap fun c => c.dbg.come s.grove.cycle)

/-- The skid so far: instructions issued since the earliest arrival; a step's stop has none. -/
def State.skid (s : State) : Nat :=
  if s.together.any fun c => c.dbg.step then 0 else (s.together.map fun c => c.dbg.skid).foldl max 0

/-- A returning atomic's value is on its way to the core (R343). -/
def Core.valueDue (c : Core) : Bool :=
  match c.await with
  | some w => (match w.kind with | .atomic _ _ | .join _ => true | _ => false)
  | none => false

/-- A reported trap comes before another: it was reported in an earlier cycle, or in the same one with a lower cause code. -/
def Deferred.before (d e : Deferred) : Bool := decide (d.at_ < e.at_) || (d.at_ == e.at_ && decide (d.cause.code < e.cause.code))

/-- The first of reported traps: the earliest, and of one cycle's the one with the lowest code (22_scheduling_faults.md R347). -/
def firstOf : List Deferred → Option Deferred
  | [] => none
  | d :: t =>
    match firstOf t with
    | some e => some (if e.before d then e else d)
    | none => some d

/-- The reported trap that is taken; those of the management path go to Phopol. -/
def Core.firstDeferred (c : Core) : Option Deferred := firstOf (c.deferred.filter fun d => !d.mgmt)

/-- A MACC trap stands, and an MRD or VSCALC that the activation has issued is still to be performed before it leaves the core
(11_vector_matrix_notes.md R195). -/
def Core.readingOut (c : Core) : Bool :=
  c.act.isSome && (match c.firstDeferred with | some d => d.cause == .macc | none => false)
    && c.cmds.any fun k => k.cls == 8 && (k.sub == 3 || k.sub == 7) && k.aid == c.regs.aid

/-- A core with a trap reported to it that may be taken. -/
def Core.trapDue (c : Core) : Bool := c.firstDeferred.isSome && c.act.isSome && !c.stopped && !c.halted && !c.valueDue && !c.readingOut

/-- The first member with a deferred trap; none while a returning atomic's value is on its way to some member (R343), or a read-out of
some member is still to be performed. -/
def State.trapMember (s : State) : Option Nat :=
  if s.together.any fun c => c.valueDue || c.readingOut then none else (List.range (s.members + 1)).find? fun k => (focus k s).core.trapDue

/-- A breakpoint takes the members whose own comparator matches, each with its own number. -/
def breakAll (n : Fin 4) (s : State) : State :=
  let own (c : Core) : Core :=
    match c.breakpoint with
    | some m => { c with dbg := c.dbg.arrive { cause := 2, n := m.val, at_ := s.grove.cycle } }
    | none => c
  stopAll 2 n.val 0 false (s.mapMembers own)

/-- DEBUG_STOP (R366): a breakpoint stop at the boundary before its instruction, or a stop that has arrived; a deferred trap that
stands is taken before it (22_scheduling_faults.md R347). -/
def execDebugStop (s : State) : Out :=
  if s.core.stopped ∨ s.trapMember.isSome then .refused .notDue
  else
    match s.breaks with
    | some n => .next (breakAll n s)
    | none =>
      match s.stopHere with
      | some f => .next (stopBy (max s.grove.cycle (f.at_ + 2)) f.cause f.n s.skid false s)
      | none => .refused .notDue

/-- The core holds another tenant's work. -/
def Core.foreign (c : Core) (tenant : BitVec 16) : Bool := !c.unused && c.tenant != tenant

/-- A debug request of a tenant about cores of the state (26_system.md R384, R385): NOTREADY before the package is brought up, and
refused when one of them holds another tenant's work. -/
def debugRequest (tenant : BitVec 16) (cores : State → List Core) (f : State → Out) (s : State) : Out :=
  request (fun s => if (cores s).any fun c => c.foreign tenant then .next (s.reply (.refused (-1))) else f s) s

/-- The cores of the grove that a request names. -/
def State.namedCores (s : State) (cores : BitVec 32) : List Core := s.cores.filter fun c => cores.getLsbD c.ix.val

/-- DEBUG_STOP_REQUEST (R366): Phopol's stop arrives; a stopped core stays as it is. -/
def execDebugStopRequest (s : State) : Out :=
  debugRequest s.pkg.named.tenant (fun s => [s.core])
    (fun s =>
      .next ((if s.core.stopped then s else s.mapDbg fun d => d.arrive { cause := 1, n := 0, at_ := s.grove.cycle }).reply .accepted)) s

/-- A stopped core resumes at its program counter. -/
def Core.resume (c : Core) : Core :=
  { c with dbg := { c.dbg with stat := BitVec.ofNat 64 (setBit c.dbg.stat.toNat 0 false), pass := c.act.isSome } }

/-- DEBUG_STEP_REQUEST (R370): one instruction issues in the stopped core or in every member of the gang it leads. -/
def execDebugStepRequest (s : State) : Out :=
  debugRequest s.pkg.named.tenant (fun s => [s.core])
    (fun s =>
      if s.core.stopped ∧ (s.core.ganged = false ∨ s.core.regs.gangix = 0) then
        .next ((s.mapMembers fun c => let c := c.resume; { c with dbg := { c.dbg with step := true } }).reply .accepted)
      else .refused .notDue) s

/-- DEBUG_RUN_REQUEST (R369): every core of the grove that it names, and that is stopped, resumes. -/
def execDebugRunRequest (s : State) : Out :=
  debugRequest s.pkg.named.tenant (fun s => s.namedCores s.pkg.named.cores)
    (fun s => .next ((s.mapCores fun c => if s.pkg.named.cores.getLsbD c.ix.val && c.stopped then c.resume else c).reply .accepted)) s

/-- STEP_HOLD_TIMEOUT (R370): a stepped instruction that holds ends its step unissued, with WAIT. -/
def execStepHoldTimeout (s : State) : Out :=
  if s.core.dbg.step && !s.core.stopped && s.core.dbg.stop.isNone && (s.core.hold || s.awaits || s.core.arrived) then
    .next (stopAll 6 0 0 true s)
  else .refused .notDue

/-! ### Register reads and writes (R363) -/

/-- A debug-module register written by Phopol: reserved bits are ignored (R4), and so is a write to a read-only one. -/
def writeDebug (off : Nat) (v : Word) (d : Debug) : Option Debug :=
  if off = 0 then some { d with ctl := v &&& 7 }
  else if off = 0x08 ∨ off = 0x10 then some d
  else if off = 0x80 then some { d with trcfg := trcfgOf v }
  else if off % 8 = 0 ∧ 0x20 ≤ off ∧ off ≤ 0x38 then
    some { d with bp := d.bp.set (Fin.ofNat 4 ((off - 0x20) / 8)) (v &&& 0x8000FFFFFFFFFFFC) }
  else if off % 8 = 0 ∧ 0x40 ≤ off ∧ off ≤ 0x58 then
    some { d with wp := d.wp.set (Fin.ofNat 4 ((off - 0x40) / 8)) (v &&& 0xFF0000000003FFF8) }
  else none

/-- A debug-module register read by Phopol. -/
def readDebug (off : Nat) (d : Debug) : Option Word :=
  if off = 0 then some d.ctl
  else if off = 0x08 then some d.stat
  else if off = 0x10 then some d.dpc
  else if off = 0x80 then some d.trcfg
  else if off % 8 = 0 ∧ 0x20 ≤ off ∧ off ≤ 0x38 then some d.bp[Fin.ofNat 4 ((off - 0x20) / 8)]
  else if off % 8 = 0 ∧ 0x40 ≤ off ∧ off ≤ 0x58 then some d.wp[Fin.ofNat 4 ((off - 0x40) / 8)]
  else if off % 8 = 0 ∧ 0x60 ≤ off ∧ off ≤ 0x78 then some d.whit[Fin.ofNat 4 ((off - 0x60) / 8)]
  else none

/-- What a debug request reads of a stopped core. -/
def readStopped (x : DebugAccess) (c : Core) : Option Answer :=
  match x with
  | .pc => some (.debug c.regs.pc)
  | .scalar r => some (.debug (c.regs.rs r))
  | .vector r => some (.bytes (vBytes c.regs.v[r]))
  | .predicates => some (.debug (c.regs.p.setWidth 64))
  | .mask r => some (.debug c.regs.m[r])
  | .loop i => some (.loop c.regs.lc[i])
  | .scratch off n => if off + n ≤ 0x40000 then some (.bytes (c.readScratch off n)) else none
  | .write _ _ | .read _ | .name _ => none

/-- The cores that a debug request's access is about: the core, or those that it names. -/
def State.accessed (s : State) (x : DebugAccess) : List Core :=
  match x with
  | .name cores => s.namedCores cores
  | _ => [s.core]

/-- DEBUG_REGISTER_WRITE (R363): a debug request's write or read. -/
def execDebugRegisterWrite (tenant : BitVec 16) (x : DebugAccess) (s : State) : Out :=
  debugRequest tenant (fun s => s.accessed x)
    (fun s =>
      match x with
      | .name cores => .next ({ s with pkg := { s.pkg with named := { tenant := tenant, cores := cores } } }.reply .accepted)
      | .write off v =>
        (match writeDebug off v s.core.dbg with
         | some d => .next ((s.mapDbg fun _ => d).reply .accepted)
         | none => .refused .notDue)
      | .read off => (match readDebug off s.core.dbg with | some v => .next (s.reply (.debug v)) | none => .refused .notDue)
      | x =>
        if s.core.stopped then (match readStopped x s.core with | some a => .next (s.reply a) | none => .refused .notDue)
        else .refused .notDue) s

/-- WHIT_WRITE (R363): any value clears V. -/
def execWhitWrite (x : WhitClear) (s : State) : Out :=
  debugRequest x.tenant (fun s => [s.core])
    (fun s => .next ((s.mapDbg fun d => { d with whit := d.whit.set x.n (clearV d.whit[x.n]) }).reply .accepted)) s

/-! ### The trace buffer and the grove's power (R374, R375) -/

/-- The bytes of a trace record. -/
def recordOf (r : Word × Word) : List Byte := leBytes 8 r.1.toNat ++ leBytes 8 r.2.toNat

/-- TRACE_DRAIN (R374): Phopol names the ring when it names one, reads and clears TRLOST when it does, and up to four records go to the
ring, the oldest first. -/
def execTraceDrain (d : Drain) (s : State) : Out :=
  if d.n ≤ 4 ∧ d.n ≤ s.grove.trace.length ∧ (1 ≤ d.n ∨ d.ring.isSome ∨ d.lost) then
    let at_ := d.ring.getD s.grove.traceRing
    let bs := (s.grove.trace.take d.n).flatMap recordOf
    let t := s.writeDev at_ bs
    let t := if d.lost then t.reply (.debug (BitVec.ofNat 64 s.grove.trlost)) else t
    .next { t with grove := { t.grove with
      trace := t.grove.trace.drop d.n, traceRing := at_ + bs.length, trlost := if d.lost then 0 else t.grove.trlost } }
  else .refused .notDue

/-- GROVE_POWER_GATE (R375): a grove that holds no work is gated; records that have not drained are lost. -/
def execGrovePowerGate (s : State) : Out :=
  if s.grove.on && s.groveUnused then
    let s := flush s
    let n := s.grove.trace.length
    .next { s with grove := { s.grove with on := false, trace := [], gateLost := n, trlost := min (s.grove.trlost + n) 0xFFFFFFFF } }
  else .refused .notDue

/-- GROVE_WAKE (R375): the first record is LOSS, when records were dropped; its CORE field is no core's, a free value. -/
def execGroveWake (s : State) : Out :=
  if s.pkg.ready && !s.grove.on then
    if s.grove.gateLost = 0 then .next { s with grove := { s.grove with on := true } }
    else
      let f := s.free
      let r := (traceHead 8 (f.1.toNat % 32) s.grove.cycle, BitVec.ofNat 64 s.grove.gateLost)
      .next { f.2 with grove := { f.2.grove.record [r] with on := true, gateLost := 0 } }
  else .refused .notDue

/-- FAILED_BANK_MARK_CLEAR (22_scheduling_faults.md R356). -/
def execFailedBankMarkClear (bank : Fin 64) (s : State) : Out :=
  .next (s.mapCore fun c => { c with health := { c.health with failed := c.health.failed &&& ~~~(BitVec.ofNat 64 (2 ^ bank.val)) } })

end Sys2Proof.Machine
end

