-- ==== Sys2Proof/Machine/Context.lean ====
section
/-!
DEFINITION. Saved contexts: images, pre-emption, eviction and reload (22_scheduling_faults.md R342 to R346; 18_messages.md R292,
R293; 14_lawstate.md R244; 16_scan.md R276 to R278).
-/
namespace Sys2Proof.Machine

/-! ### Images (R344) -/

/-- The sweep regions that an actor registered, as offsets into its region. -/
def State.registrations (s : State) (aid : BitVec 24) : List Range :=
  s.grove.sweeps.toList.filterMap fun o => o.bind fun w =>
    if w.aid = aid then some { lo := w.bytes.lo - w.base, hi := w.bytes.hi - w.base } else none

/-- The parts present of the core's context for an actor, or (0) for a task: bits REG, ACC, QUEUE, SCAN, PLANES, REGION. -/
def Core.parts (c : Core) (aid : BitVec 24) (running : Bool) : Nat :=
  let rides := match c.actor aid with | some a => a.rides.any fun r => r.isSome | none => false
  1 + (if running && c.regs.acc.any (fun a => a.full) then 2 else 0)
    + (if running && c.cmds.any (fun k => k.q != .s) then 4 else 0)
    + (if (running && c.cmds.any fun k => k.q == .s) || rides then 8 else 0)
    + (if aid != 0 && c.mac.owner == some aid then 16 else 0) + (if aid != 0 then 32 else 0)

/-- The bytes of a region as a save reads them: a byte that cannot be read is a free value (log entry 17). -/
def Core.savedRegion (c : Core) (a : Actor) : List Byte :=
  if c.health.sound then c.readScratch a.base a.size
  else
    (List.range a.size).map fun i =>
      if c.health.lost (a.base + i) then (Config.lostWord c.pkgIx c.postId (a.base + i)).setWidth 8 else c.scratch.read (a.base + i)

/-- The image of an actor of the core, or (0) of the task that it runs; running tells whether the core runs its activation. -/
def State.image (s : State) (aid : BitVec 24) (running : Bool) : Image :=
  let c := s.core
  let a := c.actor aid
  let mine := aid != 0 && c.mac.owner == some aid
  { parts := BitVec.ofNat 6 (c.parts aid running), aid := aid, regs := if running then c.regs else {}
    act := if running then c.act else none, ganged := running && c.ganged, gseq := c.gseq
    await := if running then c.await else none, deferred := if running then c.deferred.filter (fun d => !d.mgmt) else [], status := c.nmu.status
    cmds := if running then c.cmds else [], planes := if mine then c.mac.planes.toList else []
    shared := mine && c.mac.shared, region := (match a with | some a => c.savedRegion a | none => [])
    handlers := (match a with | some a => a.handlers.toList | none => [])
    windows := (match a with | some a => a.windows.toList | none => [])
    cmask := (match a with | some a => a.cmask | none => 0), recs := (match a with | some a => a.recs | none => [])
    head := (match a with | some a => a.head | none => 0), tail := (match a with | some a => a.tail | none => 0)
    regions := if aid = 0 then [] else s.registrations aid
    rides := (match a with | some a => a.rides.toList | none => []), lawnow := s.grove.lawnow, tag := s.fresh }

/-- The bytes of an image with the parts named (R344). -/
def Image.bytes (im : Image) (parts : Nat) : Nat :=
  64 + (if bitAt parts 0 then 2432 else 0) + (if bitAt parts 1 then 5120 else 0)
    + (if bitAt parts 2 then 64 + 128 * (im.cmds.filter fun k => k.q != .s).length else 0)
    + (if bitAt parts 3 then 4096 + 1024 * (im.rides.filter Option.isSome).length else 0)
    + (if bitAt parts 4 then 78592 else 0) + (if bitAt parts 5 then im.region.length + 1024 else 0)

/-- The context may be saved: every command has committed but those of the S queue and those that are blocked, and an atomic's
value has returned (R343, R344). -/
def State.mayPark (s : State) : Bool :=
  let b := blockedOf s s.core.cmds []
  (s.core.cmds.all fun k => k.q == .s || b.any fun e => e.serial == k.serial)
    && (match s.core.await with | some w => w.kind == .ending | none => true)

/-! ### Eviction (18_messages.md R292) -/

/-- An actor leaves its core: it is saved with its image, its sweep regions are free, its entry says so, and the hosts that asked for it
have their answer. What its holding queue takes is a free value (log entry 53). -/
def evictActor (aid : BitVec 24) (im : Image) (s : State) : State :=
  match s.core.actor aid with
  | none => s
  | some a =>
    let s := (s.mapCore fun c => { c.removeActor aid with health := c.health.touchN a.base a.size }).freeSweeps fun w => w.aid == aid
    { s with
      pkg := { s.pkg.answerEvicts aid .accepted with
        dir := s.pkg.dir.map fun e => if e.aid = aid then { e with at_ := .evicted } else e
        evicted := s.pkg.evicted ++ [{ actor := { a with evict := false, holding := [] }, im := im, holding := a.holding
                                       room := a.holding.length + (Config.freeWord s.fresh).toNat }] }
      fresh := s.fresh + 1 }

/-- The clearing requests that the core's commands made and wait for are withdrawn: a command saved whole asks anew after its reload.
So does a scan that has its grant and has not ended pass 1: it begins again in phase 1 (16_scan.md R277). -/
def State.unask (s : State) : State :=
  let g := s.core.cmds.filterMap fun k => match k.grant with
    | .asked => (s.grove.reqs.find? fun r => r.core == s.core.ix && r.serial == k.serial).map fun r => (k.serial, r.e)
    | .granted =>
      (match k.lrec, k.op, k.scan with
       | some r, some o, none => if k.q = .s then some (k.serial, scanEnergy k.sub k.x r o) else none
       | _, _, _ => none)
    | _ => none
  { s.mapCore (fun c => { c with cmds := c.cmds.map fun k => match g.find? fun p => p.1 == k.serial with | some p => { k with grant := .toAsk p.2 } | none => k }) with
    grove := { s.grove with reqs := s.grove.reqs.filter fun r => r.core != s.core.ix || !(g.any fun p => p.1 == r.serial) } }

/-- The sweep regions of the task that runs stay its own while it is saved (14_lawstate.md R242); the sweeper passes over them. -/
def State.parkSweeps (s : State) : State :=
  { s with
    grove := { s.grove with sweeps := s.grove.sweeps.map fun o => o.map fun w =>
      if w.aid = 0 ∧ w.core = s.core.ix ∧ w.parked = none then { w with parked := some s.fresh } else w }
    fresh := s.fresh + 1 }

/-- The core's halted activation saved: its image, and the core free (R345); its commands have left with it. -/
def parkCore (s : State) : State × Image :=
  let s := s.unask
  let aid := s.core.regs.aid
  let im := s.image aid true
  let t := ((if aid = 0 then s.parkSweeps else s).vacate s.core.regs.srctr).mapCore fun c => { c with cmds := [], begun := false }
  (if aid = 0 then t else evictActor aid im t, im)

/-- The halted activations of members 0 to n saved, and their images. -/
def parkMembers : Nat → State → State × List Image
  | 0, s => let r := parkCore s; (r.1, [r.2])
  | n + 1, s =>
    let r := parkMembers n s
    let q := parkCore (focus (n + 1) r.1)
    (focus (n + 1) q.1, r.2 ++ [q.2])

/-- The core runs an activation of the actor, or is to run one again. -/
def Core.engaged (c : Core) (aid : BitVec 24) : Bool :=
  c.runs aid || c.retry.any fun a => match a.src with | .message b _ => b == aid | .task _ => false

/-- The actor of the core that waits to be evicted and runs nothing. -/
def Core.toEvict (c : Core) : Option (BitVec 24) :=
  c.actors.findSome? fun o => o.bind fun a => if a.evict && !c.engaged a.aid then some a.aid else none

/-- CONTEXT_SAVE_DONE (R345, R346): the image is written and the core is free. A task leaves a resume record in the overflow
ring; an actor is evicted (DEDUCED: a pre-empted actor resumes when it is reloaded, log entry 28). A gang is saved as one; a member that a reload has
brought back waits for the others. -/
def execContextSaveDone (s : State) : Out :=
  if s.core.halted ∧ s.core.act.isSome ∧ s.together.all (fun c => c.kills == []) then
    let n := s.members
    let whole := !s.core.ganged || (match s.core.act with | some a => n + 1 == a.g | none => false)
    if whole && (List.range (n + 1)).all fun k => let c := (focus k s); c.core.halted && c.mayPark then
      let r := parkMembers n s
      if s.core.regs.aid = 0 then .next { r.1 with grove := { r.1.grove with overflow := r.1.grove.overflow ++ [.resume r.2] } }
      else .next r.1
    else .refused .notDue
  else
    match s.core.toEvict with
    | some aid => if s.settled then .next (evictActor aid (s.image aid false) s) else .refused .notDue
    | none => .refused .notDue

/-- A pre-emption of the core, or of every member of its gang, at an instruction boundary: what holds issue is taken unissued
(R343). -/
def preempt (s : State) : State := s.mapMembers fun c => { c.unissue with halted := true, preempt := false }

/-- What comes before a pre-emption at the boundary does not stand: a deferred trap, a breakpoint, a kill (R347). -/
def State.freeForPreemption (s : State) : Bool :=
  s.trapMember.isNone && s.breaks.isNone && s.together.all fun c => c.kills == []

/-- PREEMPTION (R343): Phopol's request is taken at the boundary. -/
def execPreemption (s : State) : Out :=
  if s.core.act.isSome ∧ s.core.halted = false ∧ s.core.stopped = false ∧ s.core.leads ∧ s.freeForPreemption then .next (preempt s)
  else .refused .notDue

/-- The actor is to be evicted when its core lets it go: a running activation of it, and its gang's, is pre-empted first. -/
def State.markEvict (id : BitVec 24) (s : State) : State :=
  let mark (c : Core) : Core := c.mapActor id fun a => { a with evict := true }
  if s.core.runs id then s.mapMembers fun c => { (if c.runs id then mark c else c) with preempt := true }
  else s.mapCore fun c => { mark c with preempt := c.preempt || c.engaged id }

/-- An actor of a tenant that lives. -/
def Pkg.owns (p : Pkg) (tenant : BitVec 16) (id : BitVec 24) : Bool :=
  match p.entry id with
  | some e => e.at_ != .destroyed && (match p.launch e.slot with | some l => l.tenant == tenant | none => false)
  | none => false

/-- EVICT_REQUEST (18_messages.md R292, 26_system.md R385): the actor is saved at once, or when its running activation has been
pre-empted, and the answer follows the save. An actor of the tenant that no core of the state holds is away, where the state does not
follow it, or is evicted already: the request is accepted (DEDUCED from R385, log entry 28). Any other is refused. -/
def execEvictRequest (tenant : BitVec 16) (aid : Nat) (s : State) : Out :=
  let id := BitVec.ofNat 24 aid
  request (fun s =>
    if s.pkg.owns tenant id then
      let t : State := { s with pkg := { s.pkg with evicting := s.pkg.evicting ++ [id] } }
      match residentAt id s.cores 0 with
      | none => .next (s.reply .accepted)
      | some (k, _) =>
        let u := focus k t
        .next (focus k (if !u.core.engaged id && u.settled then evictActor id (u.image id false) u else u.markEvict id))
    else .next (s.reply (.refused (-1)))) s

/-! ### Images restored -/

/-- A command moved to another region or core: its ranges move with the region (R344). -/
def Cmd.moved (k : Cmd) (new serial : Nat) : Cmd :=
  let mv (r : Range) : Range := { lo := r.lo - k.base + new, hi := r.hi - k.base + new }
  { k with base := new, serial := serial, reads := k.reads.map mv, writes := k.writes.map mv }

/-- Commands put back into their queues, in order. -/
def Core.restoreCmds (c : Core) (new : Nat) : List Cmd → Core
  | [] => c
  | k :: t => ({ c with cmds := c.cmds ++ [k.moved new c.serial], serial := c.serial + 1 } : Core).restoreCmds new t

/-- Queued commands of a kind left out. -/
def Core.without (c : Core) (f : Cmd → Bool) : Core := { c with cmds := c.cmds.filter fun k => !f k }

/-- The activation of an image put on the core, for a local range that begins at base: parts REG, ACC, QUEUE and SCAN. A refusal of an
access made before reaches it only where the core runs that activation already. -/
def restoreActivation (im : Image) (parts base size : Nat) (c : Core) : Core :=
  let first := match c.act with | some a => if c.regs.aid = im.aid then a.first else c.serial + 1 | none => c.serial + 1
  let c : Core :=
    if bitAt parts 0 then
      { c with
        serial := max c.serial first, begun := true
        regs := { im.regs with acc := c.regs.acc }, act := im.act.map fun a => { a with base := base, size := size, first := first }
        loopOrd := im.regs.lc.toList.foldl (fun n l => max n (l.ord + 1)) c.loopOrd, ganged := im.ganged, gseq := im.gseq, await := im.await, deferred := c.mgmtTraps ++ im.deferred, hold := false
        nmu := { c.nmu with status := im.status } }
    else c
  let c : Core := if bitAt parts 1 then { c with regs := { c.regs with acc := im.regs.acc } } else c
  let c := if bitAt parts 2 then (c.without fun k => k.q != .s).restoreCmds base (im.cmds.filter fun k => k.q != .s) else c
  if bitAt parts 3 then (c.without fun k => k.q == .s).restoreCmds base (im.cmds.filter fun k => k.q == .s) else c

/-- The whole activation of an image resumed on a core. -/
def Core.resumeImage (c : Core) (im : Image) (base size : Nat) : Core :=
  restoreActivation im im.parts.toNat base size { c with regs := { c.regs with acc := Vector.replicate 4 {} } }

/-! ### Reload (18_messages.md R293, 14_lawstate.md R244) -/

/-- The words of a registered region but those seen, each visited once at its age at eviction and the ticks since. A visit that finds
the crossing unit's queue full waits for a search to end (R239). -/
def reloadRegion (w : Sweep) (saved : BitVec 48) (seen : List Nat) (s : State) : State :=
  ((s.regionWords s.core w.bytes).filter fun p => !seen.contains p).foldl (fun s p =>
    let s := if s.grove.crossFull then (match execCrossingSearchEnd s with | .next t => t | _ => s) else s
    let d := lawAge saved (s.core.word p) + (s.grove.lawnow - saved).toNat
    (sweepWord w p d true s).getD s) s

/-- The registrations of a reloaded actor, restored and visited; a word of two of them is visited once. -/
def reloadRegions (aid : BitVec 24) (base : Nat) (saved : BitVec 48) (seen : List Nat) : List Range → State → State
  | [], s => s
  | r :: t, s =>
    let w : Sweep := { core := s.core.ix, aid := aid, base := base, bytes := { lo := base + r.lo, hi := base + r.hi } }
    let s : State :=
      match s.grove.freeSweep with
      | some i => { s with grove := { s.grove with sweeps := s.grove.sweeps.set (Fin.ofNat 16 i) (some w) } }
      | none => s
    let words := s.regionWords s.core w.bytes
    let wide := (words.filter fun p => s.wideAt s.core p).map fun p => p + 8
    reloadRegions aid base saved (seen ++ words ++ wide) t (reloadRegion w saved seen s)

/-- A held access performed at the actor's reload as if it were arriving: none while a message finds no room. A load or a
returning atomic of a core of the state completes there. -/
def reinject (aid : BitVec 24) (a : NetAccess) (s : State) : Option State :=
  match placeOf s a.addr with
  | some (.actor pk id off) =>
    (match a.msg, a.atomic with
     | some m, _ =>
       match residentAt aid s.cores 0 with
       | some (k, _) =>
         (match meetMessage s k aid m none a.src with
          | .taken t o =>
            (match (focus k t).core.actor aid with
             | some b => (match b.recs.find? fun r => r.off == o && !r.pad with | some r => some (landMessage t k aid r) | none => some t)
             | none => some t)
          | .noRoom _ _ => none
          | .no _ => some s)
       | none => some s
     | none, some x =>
       if atomicLost s (.actor pk id off) 0 a.len then some (s.touchAtomic (.actor pk id off) a.len)
       else some (performAtomic s (.actor pk id off) 0 a.addr x a.src).s
     | none, none =>
       if a.bytes = [] ∧ a.flit then some (match s.reach pk id off 16 .store with | .at_ k p => s.syncAt k p a.len | _ => s)
       else if a.bytes = [] then some (match s.reach pk id off a.len .load with | .at_ k p => s.readAt k p a.len a.src | _ => s)
       else some (performBytes s (.actor pk id off) 0 a.addr a.bytes (a.sync.map .remote) a.flit a.src).s)
  | _ => some s

/-- The member whose await a held access answers. -/
def State.awaiter (s : State) (a : NetAccess) : Option Nat :=
  if a.msg.isSome || a.flit || a.bytes != [] then none
  else
    (List.range (s.peers.length + 1)).find? fun k =>
      let c := (focus k s).core
      c.source == a.src
        && (match c.await with
            | some { kind := .load n _ _, addr := w, .. } => a.atomic.isNone && n == a.len && normalAt s w == a.addr
            | some { kind := .atomic x _, addr := w, .. } => a.atomic == some x && normalAt s w == a.addr
            | some { kind := .join _, addr := w, .. } => a.atomic == some (addArgs (-1)) && normalAt s w == a.addr
            | _ => false)
where
  /-- An address as an arrival names it. -/
  normalAt (s : State) (w : Word) : Word := match placeOf s w with | some pl => normal pl w | none => w

/-- What a held load or atomic finds: a value, or why there is none. -/
def heldValue (a : NetAccess) (s : State) : Except Cause Nat :=
  match placeOf s a.addr with
  | some (.actor pk aid off) =>
    (match s.reach pk aid off a.len (if a.atomic.isSome then .atomic else .load) with
     | .at_ k p =>
       let c := (focus k s).core
       if c.health.lostIn p a.len then .error .memerr else .ok (leNat (c.readScratch p a.len))
     | .no w => .error (refusedCause w)
     | _ => .ok 0)
  | _ => .ok 0

/-- What a returned value comes to for the member that waits for it (the core). -/
def answered (v : Nat) (s : State) : R :=
  match s.core.await with
  | some { kind := .load n sg d, .. } => .done (s.ws d (loadValue n sg (leBytes n v)))
  | some { kind := .atomic x d, .. } => .done ((s.mapRegs fun r => (r.atomicCtr x).accrue (atomicOp x v).2).ws d (atomicOld x.ty.val v))
  | some { kind := .join t, len := l, .. } => joined s (BitVec.ofNat 64 v) t l
  | _ => .hold

/-- An answer to member k, which stands first in the result: the value, or a precise trap (R140, R216). -/
def answerAt (k : Nat) (v : Except Cause Nat) (s : State) : State :=
  let t := focus k s
  match t.core.await with
  | some w =>
    let t := match placeOf t w.addr with | some pl => t.respond pl w.addr 0 | none => t
    (match answer k w.len (match v with | .ok v => answered v t | .error c => .trap t c w.addr) s with
     | .next u => u
     | _ => s)
  | none => s

/-- The holding queue of a resident actor performed in order, as far as its messages fit. -/
def reinjectAll (aid : BitVec 24) : Nat → State → State
  | 0, s => s
  | n + 1, s =>
    match residentAt aid s.cores 0 with
    | some (k, b) =>
      (match b.holding with
       | [] => s
       | a :: t =>
         match reinject aid a s with
         | none => s
         | some u =>
           let v := heldValue a s
           let u := focus k ((focus k u).mapCore fun c => c.mapActor aid fun x => { x with holding := t })
           reinjectAll aid n (match s.awaiter a with | some j => answerAt j v u | none => u))
    | none => s

/-- The holding queue of an actor goes on. -/
def State.reinjected (s : State) (aid : BitVec 24) : State :=
  match residentAt aid s.cores 0 with
  | some (_, b) => reinjectAll aid b.holding.length s
  | none => s

/-- The conditions under which the placer may reload an actor on the core at base (R27, R244). -/
def State.mayReload (s : State) (e : Evicted) (base : Nat) : Bool :=
  let free := (s.grove.sweeps.toList.filter Option.isNone).length
  s.grove.on && s.core.regionOk base e.actor.size
    && (match s.pkg.launch e.actor.slot with | some l => s.mayJoin l | none => false)
    && decide (e.im.regions.length ≤ free)
    && (e.im.planes == [] || s.core.mac.owner.isNone)
    && (e.im.act.isNone || (s.core.act.isNone && s.core.retry.isNone && !s.core.stopped)) && s.quieted
    && (match s.pkg.launch e.actor.slot with
        | some l => s.gangPlace l e.actor.wid s.core.ix && (seatBars l e.actor.wid true s.pkg).unitsFit
        | none => false)

/-- The barrier instances of a saved actor, as it is reloaded in the grove or beyond it (12_memory.md R211). -/
def Evicted.seatAt (e : Evicted) (inGrove : Bool) (p : Pkg) : Pkg :=
  match p.launch e.actor.slot with
  | some l => seatBars l e.actor.wid inGrove p
  | none => p

/-- A saved actor put back on the core: region, control state, planes, activation. -/
def restoreActor (e : Evicted) (base : Nat) (s : State) : State :=
  let a : Actor := { e.actor with base := base, holding := e.holding }
  let im := e.im
  let s := match s.pkg.launch a.slot with | some l => assign l s | none => s
  let s := s.mapCore fun c => { c.dropLeft.writeScratch base im.region with actors := putActor a c.actors }
  let s := s.mapCore fun c =>
    if im.planes = [] then c
    else { c with mac := { c.mac with planes := Vector.ofFn fun i => im.planes.getD i.val {}, owner := some a.aid, shared := im.shared } }
  let s := s.mapCore fun c => if im.act.isSome then { c.resumeImage im base a.size with halted := im.ganged } else c
  let p := e.seatAt true s.pkg
  { s with
    pkg := { p with
      dir := p.dir.map fun d => if d.aid = a.aid then { d with at_ := .here } else d
      evicted := p.evicted.filter fun x => x.actor.aid != a.aid } }

/-- A gang whose members have all been reloaded goes on. -/
def releaseGang (s : State) : State :=
  match s.core.act with
  | some a =>
    let l := s.together
    if s.core.ganged ∧ s.core.halted ∧ l.length = a.g ∧ (l.all fun c => c.ganged && c.halted) then
      { s with core := { s.core with halted := false }, peers := s.peers.map fun c => if s.core.mate c then { c with halted := false } else c }
    else s
  | none => s

/-- A saved actor's barrier instances hold a channel of the grove, and a core of the state can take it: it is reloaded there (12_memory.md
R211). -/
def State.keepsChannel (s : State) (e : Evicted) : Bool :=
  (s.pkg.bars.any fun b =>
      b.slot == e.actor.slot && b.unit == .channel true && s.pkg.leads b.slot e.actor.wid && sharesFrom b.low e.actor.wid b.share)
    && (List.range 8).any fun k =>
      let t := ensurePeers k s
      decide (k ≤ t.peers.length) && (List.range 64).any fun i => (focus k t).mayReload e (4096 * i)

/-- A core of the grove that the state does not hold: the last (DESIGN CHOICE, log entry 24). -/
def State.otherCore (s : State) : Fin 32 :=
  ((List.range 32).reverse.map (Fin.ofNat 32)).find? (fun i => s.cores.all fun c => c.ix != i) |>.getD 31

/-- The registrations of a saved actor that is reloaded on another core of the grove stand there. -/
def farRegions (e : Evicted) : List Range → State → State
  | [], s => s
  | r :: t, s =>
    let w : Sweep := { core := s.otherCore, aid := e.actor.aid, base := 0, bytes := r }
    farRegions e t (match s.grove.freeSweep with
      | some i => { s with grove := { s.grove with sweeps := s.grove.sweeps.set (Fin.ofNat 16 i) (some w) } }
      | none => s)

/-- The placer may reload an actor beyond the state: on another core of the grove (near), which takes its launch and its registrations, or
elsewhere, unless the grove keeps it. -/
def State.mayReloadFar (s : State) (e : Evicted) (near : Bool) : Bool :=
  (e.seatAt near s.pkg).unitsFit
    && (if near then
          (match s.pkg.launch e.actor.slot with | some l => s.nearTakes l | none => false)
            && decide (e.im.regions.length ≤ (s.grove.sweeps.toList.filter Option.isNone).length)
        else !s.keepsChannel e)

/-- A saved actor leaves for a core beyond the state. -/
def reloadFar (e : Evicted) (near : Bool) (s : State) : State :=
  let s := if near then farRegions e e.im.regions (match s.pkg.launch e.actor.slot with | some l => joinGrove l s | none => s) else s
  let p := e.seatAt near s.pkg
  { s with pkg := { p with
    dir := p.dir.map fun d => if d.aid = e.actor.aid then { d with at_ := .away near } else d
    evicted := p.evicted.filter fun x => x.actor.aid != e.actor.aid } }

/-- ACTOR_RELOAD (R293): the placer chooses core k of the state and a base, or a core beyond the state (8: in the grove, from 9
on: elsewhere), where what is held for the actor is performed; or a re-injection that paused goes on. -/
def execActorReload (k aid base : Nat) (s : State) : Out :=
  let id := BitVec.ofNat 24 aid
  match s.pkg.evicted.find? fun e => e.actor.aid == id with
  | some e =>
    if 8 ≤ k then (if s.mayReloadFar e (k == 8) then .next (reloadFar e (k == 8) s) else .refused .notDue)
    else
      let s := ensurePeers k s
      let t := focus k s
      if k ≤ s.peers.length ∧ t.mayReload e base then
        let u := reloadRegions id base e.im.lawnow [] e.im.regions (restoreActor e base t)
        .next ((releaseGang (focus k u)).reinjected id)
      else .refused .notDue
  | none =>
    match residentAt id s.cores 0 with
    | some (_, b) => if b.holding = [] then .refused .notDue else .next (s.reinjected id)
    | none => .refused .notDue

end Sys2Proof.Machine
end

