-- ==== Sys2Proof/Machine/Priv.lean ====
section
/-!
DEFINITION. The PRIV class and the management path (22_scheduling_faults.md R358, R359; 04_formats.md R75).
-/
namespace Sys2Proof.Machine

/-- Issue of a PRIV instruction: PRIVOP in an activation, whatever its guard (R75 to R77). -/
def privIssue (sub : Nat) (x : XOp) (regs : List SReg) (m : State → R) (s : State) : Out :=
  let u := Iss.ext 20 sub x true regs
  issue (if u.ok then { u with ok := s.core.mgmt, cause := .privop } else u) m s

/-- The actor that a context instruction names: 0 is the halted task; ILLOP for one that the core does not hold (DEDUCED, log entry 28). -/
def contextOf (s : State) (b : Word) : Option (BitVec 24) :=
  if b = 0 then (if s.core.act.isSome ∧ s.core.regs.aid = 0 then some 0 else none)
  else if b.toNat < 2 ^ 24 ∧ (s.core.actor (b.setWidth 24)).isSome then some (b.setWidth 24)
  else none

/-- The image's address: interleaved and 64-byte aligned, or ILLOP (R359), its parts translated; the first is the image's place. -/
def imageAt (r : Right) (a : Word) (n : Nat) (s : State) : Except (Cause × State) (List (Nat × Nat) × State) :=
  match placeOf s a with
  | some (.inter _) => if a.toNat % 64 ≠ 0 then .error (.illop, s) else devParts r a n s
  | _ => .error (.illop, s)

/-- The physical address of the first part. -/
def firstPart : List (Nat × Nat) → Nat
  | (pa, _) :: _ => pa
  | [] => 0

/-- Parts of device memory filled with free bytes: the layout of an image past its size is not stated (log entry 28). -/
def freeParts : List (Nat × Nat) → State → State
  | [], s => s
  | (pa, n) :: t, s =>
    let bs := (List.range n).map fun i => Config.freeByte (s.fresh + i)
    freeParts t { s.writeDev pa bs with fresh := s.fresh + n }

/-- CTXSV's part: the image of the parts named and present, after the wait of R344. -/
def ctxsvPart (x : XOp) (s : State) : R :=
  let a := s.rs x.a
  match contextOf s (s.rs x.b) with
  | none => illopX 20 0 x s
  | some aid =>
    let running := s.core.runs aid
    if running && !s.mayPark then .hold
    else
      let im := s.unask.image aid running
      let parts := Nat.land im.parts.toNat (x.w2f 0 6)
      match imageAt .write a (im.bytes parts) s with
      | .error (.illop, _) => illopX 20 0 x s
      | .error (c, t) => .trap t c a
      | .ok (l, t) =>
        let u := freeParts l t
        let im : Image := { im with parts := BitVec.ofNat 6 parts }
        .done { u with pkg := { u.pkg with images := (firstPart l, im) :: u.pkg.images.filter fun p => p.1 != firstPart l } }

/-- CTXSV (R359). -/
def execCtxsv (x : XOp) (s : State) : Out := privIssue 0 x [x.a, x.b] (ctxsvPart x) s

/-- The REGION part restored: the region and its control state; the registrations of the image take the place of the actor's. -/
def restoreRegion (im : Image) (a : Actor) (s : State) : State :=
  let s := s.mapCore fun c =>
    (c.writeScratch a.base im.region).mapActor a.aid fun a =>
      { a with handlers := Vector.ofFn fun i => im.handlers.getD i.val 0, windows := Vector.ofFn fun i => im.windows.getD i.val 0
               cmask := im.cmask, recs := im.recs, head := im.head, tail := im.tail }
  let s := s.freeSweeps fun w => w.aid == a.aid
  reloadRegions a.aid a.base im.lawnow [] im.regions s

/-- Parts of an image restored into an actor of the core, or (0) into its task. -/
def restoreParts (im : Image) (parts : Nat) (aid : BitVec 24) (s : State) : State :=
  let a := s.core.actor aid
  let p := match a with | some a => (a.base, a.size) | none => (0x3C000, 0x4000)
  let s := s.mapCore (restoreActivation im (Nat.land parts 15) p.1 p.2)
  match a with
  | none => s
  | some a =>
    let s := if bitAt parts 3 then s.mapCore fun c => c.mapActor aid fun a => { a with rides := Vector.ofFn fun i => im.rides.getD i.val none } else s
    let s := if bitAt parts 4 then s.mapCore fun c => { c with mac := { c.mac with planes := Vector.ofFn fun i => im.planes.getD i.val {}, owner := some aid, shared := im.shared } } else s
    if bitAt parts 5 then restoreRegion im a s else s

/-- The actor that CTXLD restores into: 0 is a task, on a core that runs no actor. -/
def loadTarget (s : State) (b : Word) : Option (BitVec 24) :=
  if b = 0 then (if s.core.regs.aid = 0 ∨ s.core.act.isNone then some 0 else none) else contextOf s b

/-- n bytes of an image read: their parts, or the fault (R357). -/
def readParts (a : Word) (n : Nat) (s : State) : Except (Cause × State) (List (Nat × Nat) × State) :=
  match imageAt .read a n s with
  | .error e => .error e
  | .ok (l, t) => let u := t.activateAll l; if t.pkg.partsLost l then .error (.memerr, u) else .ok (l, u)

/-- CTXLD's part: the header is read, then the whole image; ILLOP when the header lacks a named part or its region size differs; memory that holds no image lacks them
all (DEDUCED, log entry 28). -/
def ctxldPart (x : XOp) (s : State) : R :=
  let a := s.rs x.a
  let parts := x.w2f 0 6
  match loadTarget s (s.rs x.b) with
  | none => illopX 20 1 x s
  | some aid =>
    match readParts a 64 s with
    | .error (.illop, t) => illopX 20 1 x t
    | .error (c, t) => .trap t c a
    | .ok (l, t) =>
      let size := match s.core.actor aid with | some a => a.size | none => 0
      match s.pkg.images.find? fun p => p.1 == firstPart l with
      | none => illopX 20 1 x t
      | some (_, im) =>
        if Nat.land parts im.parts.toNat ≠ parts ∨ im.region.length ≠ size then illopX 20 1 x t
        else
          match readParts a (im.bytes im.parts.toNat) t with
          | .error (c, u) => .trap u c a
          | .ok (_, u) => .done (restoreParts im parts aid u)

/-- CTXLD (R359). -/
def execCtxld (x : XOp) (s : State) : Out := privIssue 1 x [x.a, x.b] (ctxldPart x) s

/-- A walk of the grove is in flight: a command waits for its page. -/
def State.walking (s : State) : Bool := s.cores.any fun c => c.cmds.any fun k => k.abandoned

/-- The entries that TLBINV invalidates. -/
def tlbDrop (scope : Nat) (v : Word) (tenant : BitVec 16) (e : TlbEntry) : Bool :=
  match scope with
  | 0 => true
  | 1 => e.tenant == v.setWidth 16
  | _ => e.covers tenant (bitsOf v.toNat 0 48)

/-- TLBINV (R359). -/
def execTlbinv (x : XOp) (s : State) : Out :=
  privIssue 2 x [x.a]
    (fun s =>
      if s.walking then .hold
      else .done { s with grove := { s.grove with tlb := s.grove.tlb.filter fun e => !tlbDrop (x.w2f 0 2) (s.rs x.a) s.core.tenant e } }) s

/-- CLRSET's limits (R359). -/
def clrsetOk (a b : Word) : Bool :=
  let cap := bitsOf a.toNat 0 20
  let rate := bitsOf b.toNat 0 10
  decide (256 ≤ cap) && decide (cap < 2 ^ 19) && decide (1 ≤ rate)

/-- CLRSET (R359). -/
def execClrset (x : XOp) (s : State) : Out :=
  privIssue 3 x [x.a, x.b]
    (fun s =>
      let cap := bitsOf (s.rs x.a).toNat 0 20
      if clrsetOk (s.rs x.a) (s.rs x.b) then
        .done { s with grove := { s.grove with cap := cap, rate := bitsOf (s.rs x.b).toNat 0 10, cnow := min s.grove.cnow cap } }
      else illopX 20 3 x s) s

/-- An LTICK of the grove is held. -/
def State.tickHeld (s : State) : Bool := s.cores.any fun c => c.cmds.any fun k => k.cls == 14 && k.sub == 6

/-- LTMODE (R359). -/
def execLtmode (x : XOp) (s : State) : Out :=
  privIssue 4 x [x.a]
    (fun s =>
      let d := bitsOf (s.rs x.a).toNat 0 16
      if x.w2f 0 2 = 1 ∧ d = 0 then illopX 20 4 x s
      else if s.tickHeld then .hold
      else .done { s with grove := { s.grove with lawMode := if x.w2f 0 2 = 1 then .divider d else .ltickOnly } }) s

/-- CRSET (R359). -/
def execCrset (x : XOp) (s : State) : Out :=
  privIssue 5 x [x.a]
    (fun s =>
      let v := s.rs x.a
      .done (s.mapCore fun c =>
        match x.w2f 0 2 with
        | 0 => { c with troot := v &&& 0xFFFFFFFFF000 }
        | 1 => { c with tenant := v.setWidth 16 }
        | _ => { c with launchSlot := v.setWidth 12 })) s

/-- MGMT_INSTRUCTION (R358): a management core submits one instruction to a core that is halted: by a pre-emption, by a debug
stop, or before its first dispatch (DEDUCED: a core that a pre-emption has freed is halted until it dispatches, log entry 28). -/
def execMgmtInstruction (ws : List IWord) (s : State) : Out :=
  if (s.core.halted ∨ s.core.stopped ∨ (s.core.act.isNone ∧ s.core.retry.isNone ∧ s.core.begun = false)) ∧ s.core.mgmtWord = none ∧ s.core.mgmt = false then
    .next (s.mapCore fun c => { c with mgmtWord := some ws })
  else .refused .notDue

end Sys2Proof.Machine
end

