-- ==== Sys2Proof/Machine/Commit.lean ====
section
/-!
DEFINITION. Commands performed and committed, the clearing, walks and replays (12_memory.md R214; 22_scheduling_faults.md R337 to
R339, R350 to R354).
-/
namespace Sys2Proof.Machine

/-- A command of the ENGINE class performed; a gated one reads its sync word first, which may be lost (R355). -/
def performGated (k : Cmd) (s : State) : Perf :=
  if k.gate then
    let t := s.mapCore fun c => { c with health := c.health.touchN k.gateAt 16 }
    if s.core.health.lostIn k.gateAt 16 then .fault t .memerr (BitVec.ofNat 64 (k.gateAt - k.base)) else performEngine k t
  else performEngine k s

/-- A command performed, by its class. -/
def performCmd (k : Cmd) (s : State) : Perf :=
  match k.cls with
  | 1 => performVarith k s
  | 2 => performVlogic k s
  | 3 => performVcmp k s
  | 4 => performVcvtClass k s
  | 5 => performVperm k s
  | 6 => performVred k s
  | 7 => performVmem k s
  | 8 => performMatrix k s
  | 10 => performAtomicCmd k s
  | 12 => performGated k s
  | 13 => performScanClass k s
  | 14 => performLaw k s
  | 15 => performSendm k s
  | 16 => performAdest k s
  | 18 => performNear k s
  | _ => .ok s {}

/-! ### Commit -/

/-- A command leaves its queue. -/
def Core.drop (c : Core) (k : Cmd) : Core := { c with cmds := c.cmds.filter fun e => e.serial != k.serial }

/-- A performed command commits: its flags and statistics are merged (04_formats.md R58, 06_numbers.md R119). -/
def commitDone (k : Cmd) (e : Effect) (s : State) : State := s.mapCore fun c => (c.drop k).merge e

/-- A command that fails leaves its queue, and its trap is deferred (R347, R351). -/
def failCmd (k : Cmd) (c : Cause) (v : Word) (s : State) : State :=
  s.mapCore fun x => { x.drop k with deferred := x.deferred ++ [{ cause := c, tval := v, q := some k.q, at_ := s.grove.cycle, mgmt := k.mgmt }] }

/-- A command's abandoned mark. -/
def State.setAbandoned (s : State) (k : Cmd) (b : Bool) : State :=
  s.mapCore fun c => { c with cmds := c.cmds.map fun e => if e.serial = k.serial then { e with abandoned := b, pages := if b then e.pages else [] } else e }

/-- A command collects a translation. -/
def State.collect (s : State) (k : Cmd) (t : TlbEntry) : State :=
  s.mapCore fun c => { c with cmds := c.cmds.map fun e => if e.serial = k.serial then { e with pages := t :: e.pages } else e }

/-- What performing a command comes to; none: it cannot be performed now. -/
def attempt (k : Cmd) (s : State) : Option State :=
  match performCmd k s with
  | .ok t e => some (commitDone k e t)
  | .notYet => none
  | .fault t c v => some (failCmd k c v t)
  | .miss t _ => some (t.setAbandoned k true)
  | .more t => some (t.setAbandoned k false)

/-- The head of a queue of the core that can be performed now. -/
def State.ready (s : State) (q : Queue) : Option Cmd :=
  ((s.core.queue q).head?).bind fun k => if s.core.startable k && !external s k then some k else none

/-- The head of a queue performed, if it can be. -/
def commitHead (q : Queue) (s : State) : Option State := (s.ready q).bind fun k => attempt k s

/-- COMMAND_COMMIT (12_memory.md R214). -/
def execCommandCommit (q : Queue) (s : State) : Out :=
  match commitHead q s with
  | some t => .next t
  | none => .refused .notDue

/-! ### Walks and replays (R350 to R353) -/

/-- The head of a queue that waits for its page, and the page's address. -/
def State.missing (s : State) (q : Queue) : Option (Cmd × Nat) :=
  match (s.core.queue q).head? with
  | some k => if k.abandoned then (match performCmd k s with | .miss _ va => some (k, va) | _ => none) else none
  | none => none

/-- The queues. -/
def queues : List Queue := [.v, .m, .s, .e, .g, .l, .q, .n]

/-- A walk for a command of the core ends: the cache is filled, or the command fails with XFAULT, or with MEMERR where a table cannot be
read (R351, R352, R357). -/
def walkFor (k : Cmd) (va : Nat) (s : State) : State :=
  match s.walk va with
  | none => failCmd k (s.missCause va) (BitVec.ofNat 64 (2 ^ 60 + va)) (s.walked va)
  | some e =>
    let s := s.walked va
    let t := (s.useTlb e).collect k e
    match performCmd { k with pages := e :: k.pages } t with
    | .fault _ .xfault v => failCmd k .xfault v s
    | _ => t

/-- WALK_COMPLETE (R353): the first command of the core that waits for the page of va. -/
def execWalkComplete (va : Nat) (s : State) : Out :=
  match queues.findSome? fun q => (s.missing q).bind fun p => if p.2 / 2 ^ 16 = va / 2 ^ 16 then some p else none with
  | some (k, w) => .next (walkFor k w s)
  | none => .refused .notDue

/-- The head of a queue that was abandoned and can be replayed. -/
def replayHead (q : Queue) (s : State) : Option State :=
  match (s.core.queue q).head? with
  | some k =>
    if k.abandoned then
      (match performCmd k s with
       | .miss _ _ => none
       | .notYet => some (s.setAbandoned k false)
       | _ => attempt k s)
    else none
  | none => none

/-- COMMAND_REPLAY (R350): from its start, once the event has been serviced. -/
def execCommandReplay (q : Queue) (s : State) : Out :=
  match replayHead q s with
  | some t => .next t
  | none => .refused .notDue

/-! ### The clearing (R337) -/

/-- A command that its engine would start, but for the clearing. -/
def wouldStart (c : Core) (k : Cmd) : Bool :=
  c.scoreClear k && gateOpen c k && !k.abandoned && !(k.q == .n && c.nmu.run.isSome)

/-- A command of another core, or the same, is the same instruction of the gang. -/
def Cmd.joint (k e : Cmd) (here there : Fin 32) : Bool :=
  e.q == k.q && e.jid == k.jid && e.g == k.g && e.cls == k.cls && e.sub == k.sub && here.val + e.ix == there.val + k.ix

/-- The engine of every member would start its command of a gang's instruction: their requests are made in the same cycle. -/
def State.jointStarts (s : State) (k : Cmd) : Bool :=
  decide (k.g ≤ 1) || s.cores.all fun c =>
    match c.cmds.find? fun e => k.joint e s.core.ix c.ix with
    | some e => (match (c.queue e.q).head? with | some h => h.serial == e.serial | none => false) && wouldStart c e
    | none => true

/-- The request of the head of a queue of the core, if it makes one now. -/
def askQueue (s : State) (q : Queue) : State :=
  match (s.core.queue q).head? with
  | some k =>
    (match k.grant with
     | .toAsk e =>
       if wouldStart s.core k && s.jointStarts k then
         { s.mapCore (fun c => { c with cmds := c.cmds.map fun x => if x.serial = k.serial then { x with grant := .asked } else x }) with
           grove := { s.grove with reqs := s.grove.reqs ++ [{ core := s.core.ix, serial := k.serial, e := e }] } }
       else s
     | _ => s)
  | none => s

/-- The requests of a core, in the order M, S, Q, N. -/
def askCore (s : State) : State := [Queue.m, .s, .q, .n].foldl askQueue s

/-- The requests of one cycle, in ascending core index. -/
def asks (s : State) : State :=
  (List.range 32).foldl (fun s ix => match s.memberOf (Fin.ofNat 32 ix) with | some k => focus k (askCore (focus k s)) | none => s) s

/-- A grant delivered to the core that asked: a command may start, or a run goes on (20_nearmem.md R325). -/
def Core.granted (c : Core) (serial : Nat) : Core :=
  match c.nmu.run with
  | some r =>
    if r.serial = serial ∧ r.waiting then { c with nmu := { c.nmu with run := some { r with waiting := false } } }
    else { c with cmds := c.cmds.map fun k => if k.serial = serial then { k with grant := .granted } else k }
  | none => { c with cmds := c.cmds.map fun k => if k.serial = serial then { k with grant := .granted } else k }

/-- The head request granted, when the pool suffices. -/
def grantHead (s : State) : Option State :=
  match s.grove.reqs with
  | [] => none
  | r :: t =>
    if (min r.e s.grove.cap : Int) ≤ s.grove.cnow then
      some { s.mapCores (fun c => if c.ix = r.core then c.granted r.serial else c) with
        grove := { s.grove with reqs := t, cnow := s.grove.cnow - r.e } }
    else none

/-- CLEARING_GRANT (R337). -/
def execClearingGrant (s : State) : Out :=
  match grantHead (asks s) with
  | some t => .next t
  | none => .refused .notDue

/-- The clearing refilled at the end of a cycle. -/
def State.refill (s : State) : State :=
  let g := s.grove
  { s with grove := { g with cnow := min (g.cap : Int) (g.cnow + g.rate), cycle := g.cycle + 1 } }

/-- CLEARING_REFILL (R337): the end of a cycle, at which the trace's triggers decide (24_debug.md R372). -/
def execClearingRefill (s : State) : Out := .next (flush s).refill

end Sys2Proof.Machine
end

