-- ==== Sys2Proof/Machine/Start.lean ====
section
/-!
DEFINITION. Activations started: dispatch of messages and tasks, re-runs, and what reaches a boundary (02_execution.md R23 to R32,
R39, R44 to R51; 18_messages.md R286 to R289; 22_scheduling_faults.md R335, R346, R347).
-/
namespace Sys2Proof.Machine

/-! ### The state at a start (02_execution.md R31, R32) -/

/-- The registers at the start of an activation: what R31 does not name is cleared. -/
def startRegs (pc : Word) (args : Vector Word 5) (wid : Word) (aid : BitVec 24) (mode : Nat) (seed stream ctr : Word) : Regs :=
  let r : Regs := { pc := pc, wid := wid, aid := aid, fpctl := BitVec.ofNat 64 (mode % 8), srseed := seed, srstream := stream, srctr := ctr }
  ((((r.ws 1 args[0]).ws 2 args[1]).ws 3 args[2]).ws 4 args[3]).ws 5 args[4]

/-- A code field as a program counter (04_formats.md R83). -/
def codePc (f : Nat) : Word := BitVec.ofNat 64 (0x1000 * 2 ^ 48 + f % 2 ^ 48)

/-- What the core holds as an activation starts: traps of an earlier activation, and its commands that still wait for a condition
that may never come, are gone (DEDUCED, log entry 29); the NMU's status word is cleared (20_nearmem.md R326). -/
def Core.begin (c : Core) (r : Regs) (a : Activation) : Core :=
  { c with
    regs := r, act := some { a with first := c.serial + 1 }, await := none, hold := false, pause := 0, ganged := false, halted := false, retry := none
    deferred := c.mgmtTraps, kills := [], cmds := [], begun := true, dbg := { c.dbg with pass := false }, serial := c.serial + 1, nmu := { c.nmu with status := 7 } }

/-- The payload of a DISP record (24_debug.md R373). -/
def dispWord (aid : BitVec 24) (typ cls : Nat) : Word := BitVec.ofNat 64 (aid.toNat + typ % 32 * 2 ^ 24 + cls % 8 * 2 ^ 29)

/-- The gang size of an actor's activations. -/
def State.gangFor (s : State) (slot : BitVec 12) (wid : Word) : Nat :=
  match s.pkg.launch slot with
  | some l => if l.hdr.item wid false then l.hdr.gang else 1
  | none => 1

/-- The fault of a record at its dispatch, with its TVAL, from the entry as it is read (R286). -/
def dispatchFault (e : BitVec 128) (r : MRec) : Option (Cause × Word) :=
  if entryV e = false then some (.hnone, BitVec.ofNat 64 r.typ.val)
  else if entryLchk e ≠ 0x3FF ∧ entryLchk e ≠ r.len then some (.hlen, BitVec.ofNat 64 r.len)
  else if hdrCC r.h0 ∧ entryCP e = false then some (.ccode, BitVec.ofNat 64 (r.off + 16))
  else none

/-- A message's activation starts on the core (R31, R286, R289); its fault is taken before the first instruction. -/
def startMessage (a : Actor) (r : MRec) (retries : Nat) (s : State) : State :=
  let e := a.handlers[r.typ]
  let pay : Word := BitVec.ofNat 64 (r.off + 16)
  let fault := dispatchFault e r
  let carried : Option Range := if hdrCC r.h0 then some { lo := r.off + 16, hi := r.off + 16 + r.len } else none
  let pc := if carried.isSome ∧ fault.isNone then pay else codePc (entryCode e)
  let regs := startRegs pc #v[pay, r.h0, r.h1, BitVec.ofNat 64 r.len, 0] a.wid a.aid a.mode.val a.seed a.stream a.ctr
  let act := newActivation (.message a.aid r.off) a.slot r.filed a.base a.size (s.gangFor a.slot a.wid) a.ctr
  let t := s.mapCore fun c =>
    ((c.mapActor a.aid fun b => { b with recs := b.recs.map fun x => if x.off = r.off ∧ x.pad = false then { x with dispatched := true } else x }).begin regs
      { act with carried := carried, rs := entryRS e, retries := retries }).note [10] [(2, dispWord a.aid r.typ.val r.filed.val)]
  match fault with
  | some (c, v) => t.trapNow c v
  | none => t

/-- The task scratch area at a start: its contents are undefined, free values (R28). -/
def State.freeScratch (s : State) : State :=
  let bs := (List.range 0x4000).map fun i => Config.freeByte (s.fresh + i)
  { s.mapCore (fun c => c.writeScratch 0x3C000 bs) with fresh := s.fresh + 0x4000 }

/-- A task's activation starts on the core (R31, R32). -/
def startTask (r : TaskRec) (retries : Nat) (s : State) : State :=
  let h := (s.pkg.launch r.slot).map fun l => l.hdr
  let mode := match h with | some h => h.mode | none => 0
  let seed := match h with | some h => h.seed | none => 0
  let regs := startRegs (codePc r.pc.toNat) r.args r.wid 0 mode seed r.wid 0
  let act := newActivation (.task r) r.slot r.cls 0x3C000 0x4000 (max 1 r.gang) 0
  s.freeScratch.mapCore fun c => (c.begin regs { act with retries := retries }).note [10] [(2, 0)]

/-! ### The choice of R45 to R47 -/

/-- A forked record is held until the accesses before it are performed (08_scalar.md R145). -/
def State.recHeld (s : State) (r : TaskRec) : Bool :=
  match s.cores.find? fun c => c.pkgIx == r.by_ with
  | some c =>
    r.hold.any c.outstanding || (c.cmds.any fun k => decide (k.serial < r.bound))
      || c.posted.any fun p => p.q.isSome && decide (p.ser < r.bound) && c.outstanding p.id
  | none => false

/-- The number of cores that a record needs. -/
def QRec.width (q : QRec) : Nat :=
  match q with
  | .task r => max 1 r.gang
  | .resume ims => ims.length

/-- The class of a record. -/
def QRec.cls (q : QRec) : Nat :=
  match q with
  | .task r => r.cls.val
  | .resume ims => (match ims with | im :: _ => (match im.act with | some a => a.cls.val | none => 0) | [] => 0)

/-- A core that may take work: idle, running, stopped and retrying nothing, with no command that can still be performed. -/
def State.idle (s : State) : Bool :=
  let c := s.core
  c.act.isNone && c.retry.isNone && !c.stopped && !c.mgmt && c.mgmtWord.isNone && c.await.isNone && s.settled

/-- The core may take a record of a launch: it has a task scratch area, and may join the launch (R27, 22_scheduling_faults.md R336,
R356). -/
def State.seatsTask (s : State) (slot : BitVec 12) : Bool :=
  s.core.hasScratch && (match s.pkg.launch slot with | some l => s.mayJoin l | none => s.core.sound)

/-- The core and the neighbours after it, n in all, may take a unit of tasks together: each stands next to the one before it, is idle and
may take a record (R39). -/
def State.idleTogether (s : State) (slot : BitVec 12) (n : Nat) : Bool :=
  decide (s.core.ix.val + n ≤ 32) && decide (n ≤ 8)
    && (List.range n).all fun k =>
      let t := focus k (ensurePeers (n - 1) s)
      t.core.ix.val == s.core.ix.val + k && t.idle && t.seatsTask slot

/-- A record that the core may start now. -/
def State.takes (s : State) (q : QRec) : Bool :=
  s.seatsTask q.slot && (match q with | .task r => !s.recHeld r | .resume _ => true) && (q.width ≤ 1 || s.idleTogether q.slot q.width)

/-- The place of the first record that may be taken, in a list of numbered records. -/
def State.firstTaken (s : State) (l : List (Nat × QRec)) : Option (Nat × QRec) := l.find? fun p => s.takes p.2

/-- Records with their places. -/
def numbered (l : List QRec) : List (Nat × QRec) := (List.range l.length).zip l

/-- Where the core finds its next task (R45): its own deque from the bottom, the other cores' from the top in turn, the overflow
ring from its oldest record. -/
def State.nextTask (s : State) : Option (TaskSrc × Nat × QRec) :=
  let dq (i : Fin 32) : List (Nat × QRec) := numbered s.grove.deques[i]
  match s.firstTaken (dq s.core.ix).reverse with
  | some p => some (.own, p)
  | none =>
    match (List.range 31).findSome? fun j =>
        let v : Fin 32 := s.core.ix + Fin.ofNat 32 (j + 1)
        (s.firstTaken (dq v)).map fun p => (TaskSrc.steal v.val, p) with
    | some p => some p
    | none => (s.firstTaken (numbered s.grove.overflow)).map fun p => (.overflow, p)

/-- What a core dispatches: a message record of the actor in a resident place, or a task. -/
inductive Pick where
  | message (place : Nat) (a : Actor) (r : MRec)
  | task (src : TaskSrc) (i : Nat) (q : QRec)

/-- The class of a choice. -/
def Pick.cls (p : Pick) : Nat := match p with | .message _ _ r => r.filed.val | .task _ _ q => q.cls

/-- The participant of a choice in R47's rotation: a resident place, or, after them, 16, the task source (DESIGN CHOICE: R47 does not say
where it stands, log entry 54). -/
def Pick.turn (p : Pick) : Nat := match p with | .message k _ _ => k | .task _ _ _ => 16

/-- The first record of each filed class, in ring order. -/
def firstOfClasses : List MRec → List Nat → List MRec
  | [], _ => []
  | r :: t, seen => if seen.contains r.filed.val then firstOfClasses t seen else r :: firstOfClasses t (seen ++ [r.filed.val])

/-- The choices of the core (R46). -/
def State.picks (s : State) : List Pick :=
  let msgs := ((List.range s.core.actors.length).zip s.core.actors).flatMap fun p =>
    match p.2 with
    | some a => (firstOfClasses (s.core.eligible a) []).map fun r => Pick.message p.1 a r
    | none => []
  msgs ++ (match s.nextTask with | some (src, i, q) => [Pick.task src i q] | none => [])

/-- The distance in the rotation from the participant after the last one served. -/
def turnDist (last k : Nat) : Nat := (k + 17 - (last + 1) % 17) % 17

/-- A choice comes before another in the rotation. -/
def firstTurn (last : Nat) (best : Option Pick) (p : Pick) : Option Pick :=
  match best with
  | some b => if turnDist last p.turn < turnDist last b.turn then some p else some b
  | none => some p

/-- The choice of R47: the highest class, then the rotation. -/
def State.pick (s : State) : Option Pick :=
  let l := s.picks
  let top := (l.map Pick.cls).foldl max 0
  (l.filter fun p => p.cls == top).foldl (firstTurn s.core.served[Fin.ofNat 8 top]) none

/-- The core may dispatch. -/
def State.mayDispatch (s : State) : Bool := s.grove.on && s.idle

/-- The participant served in a class. -/
def Core.serve (c : Core) (cls turn : Nat) : Core := { c with served := c.served.set (Fin.ofNat 8 cls) turn }

/-! ### Dispatch events -/

/-- MESSAGE_DISPATCH (R46 to R48): the record that R47 chooses. -/
def execMessageDispatch (aid off : Nat) (s : State) : Out :=
  if s.mayDispatch then
    match s.pick with
    | some (.message k a r) =>
      if a.aid.toNat = aid ∧ r.off = off then
        .next (startMessage a r 0 (s.mapCore fun c => c.serve r.filed.val k))
      else .refused .notDue
    | _ => .refused .notDue
  else .refused .notDue

/-- n records from place i on. -/
def takeRecs (l : List QRec) (i n : Nat) : List QRec × List QRec := ((l.drop i).take n, l.take i ++ l.drop (i + n))

/-- A record removed from its source, with the others of its unit. -/
def State.removeTask (s : State) (src : TaskSrc) (i : Nat) (q : QRec) : List QRec × State :=
  let n := match q with | .task _ => q.width | .resume _ => 1
  let at_ (v : Fin 32) : List QRec × State :=
    let r := takeRecs s.grove.deques[v] i n
    (r.1, { s with grove := { s.grove with deques := s.grove.deques.set v r.2 } })
  match src with
  | .own => at_ s.core.ix
  | .steal v => at_ (Fin.ofNat 32 v)
  | .overflow =>
    let r := takeRecs s.grove.overflow i n
    (r.1, { s with grove := { s.grove with overflow := r.2 } })

/-- The core is given a task's launch, freshly when it held no work of another (22_scheduling_faults.md R336, log entry 23). -/
def State.assignTask (s : State) (slot : BitVec 12) : State :=
  match s.pkg.launch slot with
  | some l =>
    giveCore l
      (if s.core.launchSlot = slot ∧ s.core.tenant = l.tenant then s
       else if s.freeFor slot then s.mapCore fun c => c.fresh l.tenant (s.pkg.root l.tenant) l.slot
       else s)
  | none => s

/-- The sweep regions of a saved task, as it goes on on the core. -/
def State.resumeSweeps (s : State) (tag : Nat) : State :=
  let go (w : Sweep) : Sweep := if w.parked = some tag then { w with core := s.core.ix, parked := none } else w
  { s with grove := { s.grove with sweeps := s.grove.sweeps.map fun o => o.map go } }

/-- A record started on the core. -/
def startRec (q : QRec) (s : State) : State :=
  let s := s.assignTask q.slot
  match q with
  | .task r => startTask r 0 s
  | .resume ims =>
    match ims with
    | im :: _ =>
      (s.freeScratch.resumeSweeps im.tag).mapCore fun c =>
        let c : Core := { c with cmds := [], kills := [], retry := none }
        ({ c.resumeImage im 0x3C000 0x4000 with halted := false } : Core).note [10] [(2, 0)]
    | [] => s

/-- The records of a unit started on members 0, 1, …. -/
def startUnit : Nat → List QRec → State → State
  | _, [], s => s
  | k, q :: t, s => startUnit (k + 1) t (focus k (startRec q (focus k s)))

/-- The members of a unit: its records, or one for each image. -/
def unitOf (l : List QRec) : List QRec :=
  match l with
  | [.resume ims] => ims.map fun im => .resume [im]
  | l => l

/-- TASK_DISPATCH (R45 to R48, R346): the record that R45 gives and R47 chooses; a gang's on neighbouring cores (R39). -/
def execTaskDispatch (src : TaskSrc) (s : State) : Out :=
  if s.mayDispatch then
    match s.pick with
    | some (.task whence i q) =>
      if src = whence then
        let s := s.mapCore fun c => c.serve q.cls 16
        let r := s.removeTask src i q
        .next (startUnit 0 (unitOf r.1) (ensurePeers (q.width - 1) r.2))
      else .refused .notDue
    | _ => .refused .notDue
  else .refused .notDue

/-- A pre-emption request that stands as a re-run starts is taken before its first instruction (23_faults_notes.md R361). -/
def preemptRerun (s : State) : State := if s.core.preempt ∧ s.core.act.isSome then preempt s else s

/-- RETRY_DISPATCH (R48, R50): the re-run starts on the same core from its retained record, when no command of the core can still be
performed. -/
def execRetryDispatch (s : State) : Out :=
  match s.core.retry with
  | none => .refused .notDue
  | some a =>
    if s.core.act.isSome ∨ s.core.stopped ∨ s.core.mgmt ∨ s.settled = false then .refused .notDue
    else
      match a.src with
      | .task r => if s.core.hasScratch then .next (preemptRerun (startTask r a.retries s)) else .refused .notDue
      | .message aid off =>
        match (s.core.actor aid).bind fun b => (b.recs.find? fun r => r.off == off && !r.pad).map fun r => (b, r) with
        | some (b, r) => .next (preemptRerun (startMessage b r a.retries s))
        | none => .next (s.mapCore fun c => { c with retry := none, preempt := false })

/-! ### The overflow ring (22_scheduling_faults.md R335) -/

/-- Records of a launch in the ring. -/
def ringOfLaunch (slot : BitVec 12) (l : List QRec) : Nat := (l.filter fun q => q.slot == slot && (match q with | .task _ => true | _ => false)).length

/-- The initial record of an item. -/
def firstRec (l : Launch) (wid : Word) (s : State) : QRec × State :=
  let f (i : Nat) : Word := Config.freeWord (s.fresh + i)
  (.task { slot := l.slot, cls := Fin.ofNat 8 l.hdr.cls, pc := l.hdr.code.setWidth 48, wid := wid, join := 0, args := #v[f 0, f 1, f 2, f 3, f 4], hold := [], bound := 0, by_ := 4096, gang := if 1 < l.hdr.gang then l.hdr.gang else 1 },
   { s with fresh := s.fresh + 5 })

/-- The initial records of n items from item i on; s1 to s5 are free values (the spec states none, log entry 30). -/
def firstRecs (l : Launch) : Nat → Nat → State → List QRec × State
  | 0, _, s => ([], s)
  | n + 1, i, s =>
    let r := firstRec l (l.hdr.itemWid i) s
    let q := firstRecs l n (i + 1) r.2
    (r.1 :: q.1, q.2)

/-- The units that are left of the run that goes to one grove: those of the present prefix at the affinity level, or one. -/
def Launch.run (l : Launch) : Nat :=
  let h := l.hdr
  let m := ((h.cnt.take h.n).drop (h.affinity + 1)).foldl (· * ·) 1
  if h.affinity < h.n then max 1 ((m - l.next % m) / h.gang) else 1

/-- The launch stands within a run. -/
def Launch.midRun (l : Launch) : Bool :=
  decide (l.hdr.affinity < l.hdr.n) && l.next % ((l.hdr.cnt.take l.hdr.n).drop (l.hdr.affinity + 1)).foldl (· * ·) 1 != 0

/-- The ring has room for the next unit of a launch: at most 4,096 records of one launch stand in it. -/
def State.ringRoom (s : State) (l : Launch) : Bool :=
  decide (ringOfLaunch l.slot s.grove.overflow + l.hdr.gang ≤ 4096) && decide (s.grove.overflow.length + l.hdr.gang ≤ s.grove.overflowCap)

/-- The next n units of a launch written into the ring, in ascending WID order and as far as it has room; the items of a killed prefix
are not made. -/
def feedUnits (slot : BitVec 12) : Nat → State → State
  | 0, s => s
  | n + 1, s =>
    match s.pkg.launch slot with
    | none => s
    | some l =>
      let g := l.hdr.gang
      let step (t : State) : State := { t with pkg := t.pkg.mapLaunch slot fun l => { l with next := l.next + g } }
      if (List.range g).any fun j => l.skips (l.hdr.itemWid (l.next + j)) then feedUnits slot n (step s)
      else if s.ringRoom l then
        let r := firstRecs l g l.next s
        feedUnits slot n (step { r.2 with grove := { r.2.grove with overflow := r.2.grove.overflow ++ r.1 } })
      else s

/-- The placer has initial records of the launch to write. -/
def Launch.feeds (l : Launch) : Bool := !l.hdr.actors && decide (l.next < l.hdr.items) && l.report.isNone

/-- OVERFLOW_RING_FEED (R335; 01_device.md R21): the placer writes the next run of a launch's initial records, a gang's items as one
unit, into the grove's ring, as far as that has room; or, where slot names 4,096 + the launch slot, into the ring of another grove, which
it may not choose for a run begun in this one while its ring has room. -/
def execOverflowRingFeed (slot : Nat) (s : State) : Out :=
  match s.pkg.launch (BitVec.ofNat 12 slot) with
  | none => .refused .notDue
  | some l =>
    if l.feeds = false then .refused .notDue
    else if slot < 4096 then
      if s.grove.on = false ∨ s.groveTakes l = false ∨ (s.ringRoom l = false ∧ l.skips (l.hdr.itemWid l.next) = false) then .refused .notDue
      else .next (feedUnits l.slot l.run (joinGrove l s))
    else if l.midRun ∧ s.ringRoom l then .refused .notDue
    else .next { s with pkg := s.pkg.mapLaunch l.slot fun l => { l with next := min l.hdr.items (l.next + l.run * l.hdr.gang), far := true } }

/-! ### The boundary (22_scheduling_faults.md R347) -/

/-- That trap taken on the core (R347, R348). -/
def takeDeferred (s : State) : State :=
  match s.core.firstDeferred with
  | none => s
  | some d => takeTrap d.cause d.tval s.core.regs.pc true d.q (s.mapCore fun c => { c with deferred := c.deferred.erase d })

/-- DEFERRED_TRAP (R347): at a boundary, with TPC at the instruction not yet issued. -/
def execDeferredTrap (s : State) : Out :=
  match s.trapMember with
  | some k => .next (focus k (takeDeferred (focus k s)))
  | none => .refused .notDue

/-- A member's activation that a kill ends now: a deferred trap and a debug stop at its boundary come first (R347). -/
def Core.killDue (cycle : Nat) (c : Core) : Bool :=
  c.kills != [] && c.act.isSome && !c.stopped && !c.trapDue && c.dbg.stop.all fun t => decide (cycle < t.at_ + 3) && !c.dbg.step

/-- The activation of the core ends by a kill; a gang that it is in dissolves (DEDUCED, log entry 29). -/
def endKilled (s : State) : State := (dissolve s).endActivation

/-- The activations of the core and of its gang's members that a kill ends now. -/
def reapKills (s : State) : State :=
  (List.range (s.members + 1)).foldl (fun s k => let t := focus k s; if t.core.killDue t.grove.cycle then focus k (endKilled t) else s) s

/-- KILL (R51): queued records and actors of the prefix go, and its activations stop at their boundaries. -/
def execKill (k : KillReq) (s : State) : Out := .next (s.kill k)

/-- ILLEGAL_ENCODING (04_formats.md R76): ILLOP precisely, whatever the guard. -/
def execIllegalEncoding (w : IWord) (s : State) : Out :=
  issue { ok := false, w0 := w, len := 4, g := Guard.none } (fun s => .done s) s

end Sys2Proof.Machine
end

