-- ==== Sys2Proof/Machine/Arrive.lean ====
section
/-!
DEFINITION. What the network brings to the cores of the state and takes back to the core: arrivals, acknowledgements, refusals,
returned data and room notices (12_memory.md R199 to R205, R215 to R217; 18_messages.md R281 to R284, R292, R293;
08_scalar.md R138, R139; 23_faults_notes.md R362).
-/
namespace Sys2Proof.Machine

/-! ### What may arrive -/

/-- An access of the network comes from no core of the state. -/
def State.foreign (s : State) (a : NetAccess) : Bool := a.src.other || !(s.cores.any fun c => c.pkgIx == a.src.core)

/-- The place that an access of the network reaches, and its physical address: an actor of this package that is not queueing, or
the interleaved view. -/
def State.netPlace (s : State) (a : NetAccess) (r : Right) : Option (Place × Nat) :=
  if s.foreign a = false ∨ s.queueing a.addr then none
  else
    match placeOf s a.addr with
    | some (.actor none aid off) => some (.actor none aid off, 0)
    | some (.inter va) => (s.walk va).bind fun e => if e.grants r then some (.inter va, s.pkg.cell (e.pa va)) else none
    | _ => none

/-- An arrival at an actor that stands beyond the state does not come here. -/
def State.comesHere (s : State) (pl : Place) : Bool :=
  match pl with
  | .actor pk aid _ => (match s.place pk aid with | .away _ => false | _ => true)
  | _ => true

/-- An access performed at its destination, or refused there with nothing changed. -/
def Done.out (s : State) (d : Done) : Out := .next (match d.why with | none => d.s | some _ => s)

/-- A posted access of the core arrives, if it may and is of the kind that is asked for. -/
def ownArrival (kind : PostKind → Bool) (id : Nat) (s : State) : Out :=
  match s.core.posted.find? fun p => p.id == id with
  | some p => if kind p.kind && mayArrive s p then .next (arrivePosted s p) else .refused .notDue
  | none => .refused .notDue

/-- The size of a scalar access. -/
def scalarSize (n : Nat) : Bool := n == 1 || n == 2 || n == 4 || n == 8

/-! ### Arrivals -/

/-- REMOTE_STORE_ARRIVAL (R199, R200): a store, or another request that a core posts as one access (R222, R301). -/
def execRemoteStoreArrival (v : Arrival) (s : State) : Out :=
  match v with
  | .own id => ownArrival (fun k => match k with | .store _ | .destroy _ | .contribution _ _ _ _ => true | _ => false) id s
  | .net a =>
    if a.flit ∨ a.atomic.isSome ∨ a.msg.isSome ∨ a.sync.isSome ∨ scalarSize a.bytes.length = false ∨ a.addr.toNat % a.bytes.length ≠ 0 then
      .refused .notDue
    else
      match s.netPlace a .write with
      | some (pl, pa) => if s.comesHere pl then Done.out s (performBytes s pl pa a.addr a.bytes none false a.src) else .refused .notDue
      | none => .refused .notDue

/-- REMOTE_LOAD_ARRIVAL (R199): a load of another core reads; an evicted actor's is held (R292). The value leaves with the
answer. -/
def execRemoteLoadArrival (v : Arrival) (s : State) : Out :=
  match v with
  | .own _ => .refused .notDue
  | .net a =>
    if a.flit ∨ a.atomic.isSome ∨ a.msg.isSome ∨ a.sync.isSome ∨ a.bytes ≠ [] ∨ scalarSize a.len = false ∨ a.addr.toNat % a.len ≠ 0 then
      .refused .notDue
    else
      match s.netPlace a .read with
      | some (.actor pk aid off, _) =>
        (match s.reach pk aid off a.len .load with
         | .at_ k p =>
           .next (s.readAt k p a.len a.src)
         | .evicted => .next (s.holdFor aid a)
         | .no _ => .next s
         | .away _ => .refused .notDue)
      | some _ => .next s
      | none => .refused .notDue

/-- ATOMIC_ARRIVAL (R216): a read-modify-write performed as a whole, or refused; bytes that are lost are left as they are. -/
def execAtomicArrival (v : Arrival) (s : State) : Out :=
  match v with
  | .own id => ownArrival (fun k => match k with | .atomic _ _ => true | _ => false) id s
  | .net a =>
    match a.atomic with
    | none => .refused .notDue
    | some x =>
      let n := sizeOfTy x.ty.val
      if a.flit ∨ a.msg.isSome ∨ a.sync.isSome ∨ a.bytes ≠ [] ∨ a.len ≠ n ∨ n < 2 ∨ 8 < n ∨ a.addr.toNat % n ≠ 0 then .refused .notDue
      else
        match s.netPlace a .write with
        | some (pl, pa) =>
          if s.comesHere pl = false then .refused .notDue
          else if atomicLost s pl pa n then .next (s.touchAtomic pl n)
          else Done.out s (performAtomic s pl pa a.addr x a.src)
        | none => .refused .notDue

/-- PUSH_FLIT_ARRIVAL (R200, R204): each flit is judged alone, and a performed flit's bytes count into its sync word. -/
def execPushFlitArrival (v : Arrival) (s : State) : Out :=
  match v with
  | .own id => ownArrival (fun k => match k with | .flit _ _ => true | _ => false) id s
  | .net a =>
    if a.flit = false ∨ a.sync.any s.queueing ∨ a.atomic.isSome ∨ a.msg.isSome ∨ a.bytes = [] ∨ 64 < a.addr.toNat % 64 + a.bytes.length then .refused .notDue
    else
      match s.netPlace a .write with
      | some (pl, pa) =>
        if s.comesHere pl then Done.out s (performBytes s pl pa a.addr a.bytes (a.sync.map .remote) true a.src) else .refused .notDue
      | none => .refused .notDue

/-- A message of the network is formed as R279 and R294 form it, and is none that MSGBIG stops. -/
def msgFormed (m : MsgArgs) (k : Nat) : Bool :=
  let h := m.h0.toNat
  decide (hdrLen m.h0 ≤ 1008) && m.payload.length == hdrLen m.h0 && !bitAt h 7 && bitsOf h 11 5 == 0 && bitsOf h 26 6 == 0
    && m.h1.toNat / 2 ^ 37 == 0 && decide (recordBytes (hdrLen m.h0) ≤ 2 ^ k - 16)

/-- MESSAGE_HEADER_ARRIVAL (R281, R283): ring space is reserved, or the message is refused and its sender listed. -/
def execMessageHeaderArrival (v : Arrival) (s : State) : Out :=
  match v with
  | .own id => ownArrival (fun k => match k with | .msg _ => true | _ => false) id s
  | .net a =>
    match a.msg, s.netPlace a .write with
    | some m, some (.actor pk aid _, _) =>
      if a.flit ∨ a.atomic.isSome ∨ a.sync.isSome ∨ a.bytes ≠ [] ∨ (match s.ringOf aid with | some k => msgFormed m k | none => true) = false then
        .refused .notDue
      else
        (match s.place pk aid with
         | .at_ k _ =>
           (match meetMessage s k aid m none a.src with
            | .taken t _ => .next t
            | .noRoom t _ => .next t
            | .no _ => .next s)
         | .evicted => .next (if s.savedSync aid m then s.holdFor aid a else s)
         | .no _ => .next s
         | .away _ => .refused .notDue)
    | _, _ => .refused .notDue

/-- The reserved record of an actor that has not landed, at an offset. -/
def Actor.landing (a : Actor) (off : Nat) : Option MRec := a.recs.find? fun r => r.off == off && !r.pad && !r.landed

/-- MESSAGE_LAST_FLIT (R281, R294): the record is whole, and may be dispatched. -/
def execMessageLastFlit (aid off : Nat) (s : State) : Out :=
  let id := BitVec.ofNat 24 aid
  match residentAt id s.cores 0 with
  | some (k, a) => (match a.landing off with | some r => .next (landMessage s k id r) | none => .refused .notDue)
  | none => .refused .notDue

/-! ### Held messages (R283) -/

/-- A held message of the core to an actor, by what its addresses name (its package with it), listed there or not. -/
def Posted.heldFor (p : Posted) (key : Nat) (listed : Bool) : Bool :=
  match p.kind with
  | .msg _ => p.key == key && p.stage == .held listed
  | _ => false

/-- What the operand of a retry names, as addresses do: an actor of this package by its id, or, from 2^24 on, an actor of the package
whose number is one less than the operand's upper bits. -/
def noticeKey (v : Nat) : Nat := if v < 2 ^ 24 then 0x4FF00 * 2 ^ 24 + v else (0x400 + (v / 2 ^ 24 - 1)) * 2 ^ 32 + v % 2 ^ 24

/-- The operand that names the actor of a posted message. -/
def Posted.notice (p : Posted) : Nat :=
  let pk := p.key / 2 ^ 32 % 256
  if pk = 0xFF then p.key % 2 ^ 24 else (pk + 1) * 2 ^ 24 + p.key % 2 ^ 24

/-- A source still stands in the room list of the core that holds the actor. -/
def State.listed (s : State) (aid : BitVec 24) (f : Source → Bool) : Bool :=
  match residentAt aid s.cores 0 with
  | some (k, _) => (focus k s).core.room.any fun l => l.aid == aid && f l.src
  | none => false

/-- A notice for the actor that an operand names has come to the core, or may have come from a core that the state does not hold. -/
def State.noticed (s : State) (v : Nat) : Bool :=
  let aid := BitVec.ofNat 24 v
  let own := decide (v < 2 ^ 24)
  own && s.core.notices.contains aid
    || ((s.core.posted.any fun p => p.heldFor (noticeKey v) true) && !(own && s.listed aid fun c => c.core == s.core.pkgIx && !c.other))

/-- The crossing unit holds a message to the actor and is not listed there. -/
def State.crossDue (s : State) (aid : BitVec 24) : Bool :=
  (s.grove.crossHeld.any fun x => x.tgt == aid) && !(s.listed aid fun c => c == crossSource)

/-- Held messages sent again in issue order, until one is refused again. One to an actor beyond the state is on its way anew. -/
def retryHeld (aid : BitVec 24) : List Posted → State → State
  | [], s => s
  | p :: t, s =>
    match p.kind, s.place (match placeOf s p.addr with | some (.actor pk _ _) => pk | _ => none) aid with
    | .msg _, .away _ => retryHeld aid t (s.mapCore fun c => c.setStage p.id .inFlight)
    | .msg m, _ =>
      let u := arriveMessage s p m
      if u.core.posted.any fun q => q.id == p.id && (q.stage == .held true || q.stage == .held false) then u
      else retryHeld aid t u
    | _, _ => retryHeld aid t s

/-- The messages that the core holds for the actor that an operand names, and to one of this package those of the crossing unit, sent
again. -/
def retryMessages (v : Nat) (s : State) : State :=
  let aid := BitVec.ofNat 24 v
  let key := noticeKey v
  let t := retryHeld aid (s.core.posted.filter fun p => p.heldFor key true || p.heldFor key false) s
  if v < 2 ^ 24 then retryCross aid t else t

/-- A retry at the actor that an operand names is due to the crossing unit's messages. -/
def State.crossNoticed (s : State) (v : Nat) : Bool := decide (v < 2 ^ 24) && s.crossDue (BitVec.ofNat 24 v)

/-- ROOM_NOTICE (R283). -/
def execRoomNotice (aid : Nat) (s : State) : Out :=
  if aid < 2 ^ 24 ∧ s.queueing (actorAddr (BitVec.ofNat 24 aid) 0) then .refused .notDue
  else if s.noticed aid || s.crossNoticed aid then
    .next (retryMessages aid (if aid < 2 ^ 24 then s.mapCore fun c => { c with notices := c.notices.erase (BitVec.ofNat 24 aid) } else s))
  else .refused .notDue

/-- UNLISTED_RETRY (R283): 256 cycles after a refusal that could not be listed. -/
def execUnlistedRetry (aid : Nat) (s : State) : Out :=
  if aid < 2 ^ 24 ∧ s.queueing (actorAddr (BitVec.ofNat 24 aid) 0) then .refused .notDue
  else if (s.core.posted.any fun p => p.heldFor (noticeKey aid) false) || s.crossNoticed aid then .next (retryMessages aid s)
  else .refused .notDue

/-! ### Acknowledgements and refusals (R203, R362) -/

/-- A posted access is no longer counted. -/
def Core.unpost (c : Core) (id : Nat) : Core := { c with posted := c.posted.filter fun p => p.id != id }

/-- The flags that an access performed beyond the state brings back: of an AFADD a free value, of any other none (R217). -/
def Posted.farFlags (p : Posted) (s : State) : Flags × State :=
  match p.kind with
  | .atomic a _ =>
    if a.op = 10 then
      let f := s.free
      ({ nv := f.1.getLsbD 0, ov := f.1.getLsbD 1, uf := f.1.getLsbD 2, nx := f.1.getLsbD 3 }, f.2)
    else (noFlags, s)
  | _ => (noFlags, s)

/-- A posted access is no longer counted: its responses are accounted, and its flags are set in FPCTL. -/
def State.acked (s : State) (p : Posted) (f : Flags) : State :=
  ((s.mapCore fun c => c.unpost p.id).mapRegs fun r => r.accrue f).accountPost p p.n

/-- ACK_RETURN (R203): the count falls, and a posted AFADD's flags are set in FPCTL then (R217); an access that was sent beyond the state
has been performed or accepted there. From a package that is cut off nothing comes (26_system.md R388). -/
def execAckReturn (id : Nat) (s : State) : Out :=
  match s.core.posted.find? fun p => p.id == id with
  | some p =>
    (match p.stage with
     | .sent =>
       if s.severed p then .refused .notDue
       else
         let f := p.farFlags s
         .next (f.2.acked p f.1)
     | .performed f => .next (s.acked p f)
     | _ => .refused .notDue)
  | none => .refused .notDue

/-- A refusal reported to the core: its count falls, and the trap stands for the next boundary (R139, R362). A refusal of an
access of an earlier activation is reported to none (DEDUCED, log entry 31). -/
def refusalBack (p : Posted) (why : Refused) (s : State) : State :=
  let t := (s.mapCore fun c => c.unpost p.id).accountPost p p.n
  let heard := p.mgmt || (match s.core.act with | some a => decide (a.first ≤ p.ser) | none => false)
  if heard then
    t.mapCore fun c => { c with deferred := c.deferred ++ [{ cause := refusedCause why, tval := p.raw, q := p.q, at_ := s.grove.cycle, mgmt := p.mgmt }] }
  else t

/-- What an actor beyond the state may refuse an access for: a message for want of room, an atomic for lost storage. -/
def refusable (p : Posted) (why : Refused) : Bool :=
  match why, p.kind with
  | .room _, .msg _ | .memErr, .atomic _ _ => true
  | .room _, _ | .memErr, _ => false
  | _, _ => true

/-- A posted message. -/
def Posted.isMsg (p : Posted) : Bool :=
  match p.kind with
  | .msg _ => true
  | _ => false

/-- The messages to an actor that had left after one that is refused for room there go back behind it (18_messages.md R283). -/
def Core.recall (c : Core) (p : Posted) : Core :=
  { c with posted := c.posted.map fun e =>
      if p.id < e.id ∧ e.key = p.key ∧ e.stage = .sent ∧ e.isMsg then { e with stage := .inFlight } else e }

/-- A refusal may come from beyond the state: of an access that has left for it, or that leaves for it or counts there now (R199, R205 rule
3); of one to a package that is cut off, ADEAD (26_system.md R388). -/
def State.refusedFar (s : State) (p : Posted) (why : Refused) : Bool :=
  match p.stage with
  | .inFlight => (s.postedAway p || s.syncAway p) && refusable p why && mayArrive s p
  | .sent => (s.postedAway p && refusable p why) || (s.severed p && why == .adead)
  | _ => false

/-- NACK_RETURN (R362): a refusal that the state found, or one from an actor beyond it; a message refused for room is held. -/
def execNackReturn (id : Nat) (why : Refused) (s : State) : Out :=
  match s.core.posted.find? fun p => p.id == id with
  | some p =>
    (match p.stage with
     | .refused w => if w = why then .next (refusalBack p why s) else .refused .notDue
     | _ =>
       if s.refusedFar p why then
         (match why with
          | .room l => .next ((s.mapCore fun c => (c.setStage id (.held l)).recall p).accountPost p 1)
          | _ => .next (refusalBack p why s))
       else .refused .notDue)
  | none => .refused .notDue

/-! ### Returned data (R138) -/

/-- The request of an await has gone out: at once, or when its pair had moved and what the core posted before it was on its way
(26_system.md R388; 12_memory.md R205 rule 3). -/
def State.goneOut (s : State) (w : Await) : Bool :=
  w.out || (!s.addrHeld w.addr && !mustPrecede s w.addr 0)

/-- An answer to an await may come from beyond the state; the actor that is gone, or the package that is cut off, refuses. -/
def State.awaitsAway (s : State) (w : Await) (r : LoadReply) : Bool :=
  match w.kind, placeOf s w.addr with
  | .load _ _ _, some (.actor pk aid _) | .atomic _ _, some (.actor pk aid _) | .join _, some (.actor pk aid _)
  | .ringSize _, some (.actor pk aid _) =>
    (match s.place pk aid with
     | .away _ => s.goneOut w
     | .no why => r == .refuse why
     | _ => false)
  | _, _ => false

/-- A reply for the member that waits (the core): the value, a refusal, or lost storage, each precise (R138, R140, R216). The size
of a ring fills the cache, and the SENDM that asked issues again (18_messages.md R294). -/
def replyPart (r : LoadReply) (w : Await) (s : State) : Option R :=
  match r, w.kind with
  | .value v, .ringSize key =>
    if 10 ≤ v.toNat ∧ v.toNat ≤ 16 then some (.wait (s.mapCore fun c => { c.useRing key v.toNat with await := none })) else none
  | .value v, .load n _ _ => if v.toNat < 256 ^ n then some (answered v.toNat s) else none
  | .value v, .atomic x _ => if v.toNat < 256 ^ sizeOfTy x.ty.val then some (answered v.toNat s) else none
  | .value v, .join _ => some (answered v.toNat s)
  | .refuse (.room _), _ | .refuse .memErr, _ => none
  | .refuse .wnack, .ringSize _ => none
  | .refuse why, _ => some (.trap s (refusedCause why) w.addr)
  | .memErr, .ringSize _ => none
  | .memErr, _ => some (.trap s .memerr w.addr)
  | .value _, _ => none

/-- The first member that waits and that the reply may be for. -/
def State.remoteWaiter (s : State) (r : LoadReply) : Option (Nat × Await) :=
  (List.range (s.peers.length + 1)).findSome? fun k =>
    match (focus k s).core.await with
    | some w => if (focus k s).awaitsAway w r then some (k, w) else none
    | none => none

/-- LOAD_DATA_RETURN (R138): issue goes on. -/
def execLoadDataReturn (r : LoadReply) (s : State) : Out :=
  match s.remoteWaiter r with
  | some (k, w) =>
    let t := focus k s
    (match replyPart r w t with
     | some p =>
       (match w.kind, placeOf t w.addr with
        | .ringSize _, _ | _, none => answer k w.len p s
        | _, some pl => answer k w.len (p.map fun u => u.respond pl w.addr 0) s)
     | none => .refused .notDue)
  | none => .refused .notDue

end Sys2Proof.Machine
end

