-- ==== Sys2Proof/Machine/Phopol.lean ====
section
/-!
DEFINITION. Boot, bring-up, links, the requests that Phopol serves, and the end of launches (26_system.md R382 to R388;
02_execution.md R33 to R38, R52; 18_messages.md R303; 22_scheduling_faults.md R341, R352; 24_debug.md R380).
-/
namespace Sys2Proof.Machine

/-! ### Boot (R382, R383) -/

/-- n bytes of the flash from offset o up. -/
def flash (img : List Byte) (o n : Nat) : List Byte := (img.drop o).take n

/-- The body's length as the image states it. -/
def bodyLen (img : List Byte) : Nat := leNat (flash img 8 4)

/-- The signed bytes. -/
def signedBytes (img : List Byte) : List Byte := flash img 0 0x98 ++ flash img 0x7500 (bodyLen img)

/-- The checks of R382, in its order. -/
def bootChecks (img : List Byte) : List Bool :=
  let l := bodyLen img
  let entry := leNat (flash img 0x10 8)
  [leNat (flash img 0 8) == 0x5A4E3150484F504C,
   decide (4096 ≤ l) && decide (l ≤ 67108864),
   decide (Config.fuseVersion ≤ leNat (flash img 0xC 4)),
   decide (entry < l) && entry % 4 == 0,
   Config.shake256 (flash img 0x58 64) == Config.fusedDigest,
   Config.slhVerify (flash img 0x58 64) (signedBytes img) (flash img 0x98 29792),
   leNat (flash img 0x74F8 8) == 0]

/-- The number of the first check that fails, counting from 1; 0 when every check passes. -/
def firstFailed : List Bool → Nat → Nat
  | [], _ => 0
  | b :: t, n => if b then firstFailed t (n + 1) else n

/-- PACKAGE_RESET (R382, R383): the machine is reset, and the management cores start at the image's entry address when every check
passes. Where the core stands in the package, what is still to come from outside, and the model's count of free values, stay. -/
def execPackageReset (img : List Byte) (s : State) : Out :=
  let n := firstFailed (bootChecks img) 1
  let z := State.reset
  .next { z with
    core := { z.core with ix := s.core.ix, pkgIx := s.core.pkgIx, sliceBase := s.core.sliceBase }
    pkg := { z.pkg with
      bootStatus := n, started := n == 0, bootEntry := if n = 0 then leNat (flash img 0x10 8) else 0, m0 := Config.shake256 (signedBytes img), version := leNat (flash img 0xC 4) }
    agenda := s.agenda
    fresh := s.fresh }

/-- The grove's clearing under a cap of some watts (22_scheduling_faults.md R341). -/
def Grove.capped (g : Grove) (watts : Nat) : Grove :=
  let rate := 32 * (watts - 1150) / 1250
  { g with rate := rate, cap := 256 * rate, cnow := (256 * rate : Nat) }

/-- BRINGUP_COMPLETE (R384): every grove, stack and port that works is up, with the clearing that Phopol derives from the cap
(01_device.md R18; DEDUCED, log entry 36), and requests are served from now on. -/
def execBringupComplete (s : State) : Out :=
  if s.pkg.started ∧ s.pkg.ready = false then
    .next { s with
      grove := { s.grove.capped s.pkg.capW with on := true }
      pkg := { s.pkg with ready := true, ports := Vector.ofFn fun b => { s.pkg.ports[b] with up := !(s.pkg.ports[b]).failed, leads := Config.portPackages b.val } } }
  else .refused .notDue

/-- GROVE_RESET (14_lawstate.md R228; 22_scheduling_faults.md R356): what the spec says a grove reset does. -/
def execGroveReset (s : State) : Out :=
  let t := s.mapCores fun c => { c with health := { c.health with corrected := Vector.replicate 64 0 } }
  .next { t with grove := { t.grove with lawnow := 0, lawMode := .ltickOnly } }

/-! ### Links (R387, R388) -/

/-- DOMAIN_BRINGUP (R387). -/
def execDomainBringup (dom : BitVec 8) (s : State) : Out :=
  if s.pkg.started ∧ dom.toNat ≤ 0xBF then .next { s with pkg := { s.pkg with domain := some dom } } else .refused .notDue

/-- A port that works. -/
def State.portUp (s : State) (p : Nat) : Bool :=
  decide (p < 64) && (s.pkg.ports[Fin.ofNat 64 p]).up && !(s.pkg.ports[Fin.ofNat 64 p]).failed

/-- LINK_RESEND (R387): a flit goes over the link again; no flit is lost or doubled, and only time passes. -/
def execLinkResend (port : Nat) (s : State) : Out := if s.portUp port then .next s else .refused .notDue

/-- A port changed. -/
def State.mapPort (s : State) (p : Nat) (f : Port → Port) : State :=
  { s with pkg := { s.pkg with ports := s.pkg.ports.set (Fin.ofNat 64 p) (f s.pkg.ports[Fin.ofNat 64 p]) } }

/-- FABRIC_PORT_FAILURE (R388): the port's pairs are held at their sources. -/
def execFabricPortFailure (port : Nat) (s : State) : Out :=
  if s.portUp port then .next (s.mapPort port fun p => { p with up := false, failed := true, held := true }) else .refused .notDue

/-- An access of the core to an address goes by a port to a package. -/
def State.goesBy (s : State) (addr : Word) (port pk : Nat) : Bool :=
  match placeOf s addr with
  | some (.actor (some n) aid _) => n == pk && (s.portOf s.core.pkgIx n aid).val == port
  | _ => false

/-- A request or flit of the core that went out by a port to a package is not yet answered. -/
def State.owed (s : State) (port pk : Nat) : Bool :=
  (s.core.posted.any fun p => (match p.stage with | .performed _ | .sent => true | _ => false) && s.goesBy p.addr port pk)
    || (match s.core.await with | some w => w.out && s.goesBy w.addr port pk | none => false)

/-- The port that a first port's pairs to a package go by. -/
def Port.route (p : Port) (b pk : Nat) : Nat := ((p.moved.find? fun m => m.1 == pk).map fun m => m.2).getD b

/-- A port's pairs to a package moved from one port to another. -/
def Port.moveTo (p : Port) (b pk src dest : Nat) : Port :=
  if p.route b pk = src then { p with moved := (pk, dest) :: p.moved.filter fun m => m.1 != pk } else p

/-- PAIR_MOVE (R388): every flit of a failed port's pairs to a package has been acknowledged, and they move to a working port that
leads there. -/
def execPairMove (port : Nat) (e : PairEnd) (s : State) : Out :=
  if port < 64 ∧ (s.pkg.ports[Fin.ofNat 64 port]).held ∧ s.portUp e.dest ∧ (s.pkg.ports[Fin.ofNat 64 e.dest]).leads.contains e.pk
      ∧ ((List.range (s.peers.length + 1)).all fun k => !(focus k s).owed port e.pk) then
    .next { s with pkg := { s.pkg with ports := Vector.ofFn fun b => (s.pkg.ports[b]).moveTo b.val e.pk port e.dest } }
  else .refused .notDue

/-! ### Allocations (12_memory.md R202; 22_scheduling_faults.md R352) -/

/-- The bytes of device memory: 384 GiB (01_device.md R5). -/
def devSize : Nat := 0x6000000000

/-- The address of page table number n (DESIGN CHOICE: tables stand from the end of device memory down, log entry 32). -/
def tableAt (n : Nat) : Nat := devSize - 0x1000 * (n + 1)

/-- A new page table. -/
def Pkg.newTable (p : Pkg) : Nat × Pkg := (tableAt p.tables, { p with tables := p.tables + 1 })

/-- A doubleword of device memory written. -/
def Pkg.putWord (p : Pkg) (pa v : Nat) : Pkg := p.writeMem pa (leBytes 8 v)

/-- The table that an entry names, made when there is none. -/
def Pkg.nextTable (p : Pkg) (tab idx : Nat) : Nat × Pkg :=
  let e := pteAt p.dmem tab idx
  let p := { p with acts := countRows (tab + 8 * idx) 8 p.acts }
  if bitAt e 0 then (pteAddr e, p)
  else
    let n := p.newTable
    (n.1, n.2.putWord (tab + 8 * idx) (n.1 + 1))

/-- The root of a tenant's tables, made when there is none. -/
def Pkg.rootFor (p : Pkg) (tenant : BitVec 16) : Nat × Pkg :=
  match p.roots.find? fun r => r.1 == tenant with
  | some r => (r.2, p)
  | none =>
    let n := p.newTable
    (n.1, { n.2 with roots := n.2.roots ++ [(tenant, n.1)] })

/-- The level 3 table of a page, and its tenant's tables with it. -/
def Pkg.leafTable (p : Pkg) (tenant : BitVec 16) (va : Nat) : Nat × Pkg :=
  let r := p.rootFor tenant
  let a := r.2.nextTable r.1 (bitsOf va 39 9)
  let b := a.2.nextTable a.1 (bitsOf va 30 9)
  b.2.nextTable b.1 (bitsOf va 21 9)

/-- The leaf of a page written. -/
def Pkg.setLeaf (p : Pkg) (tenant : BitVec 16) (va e : Nat) : Pkg :=
  let t := p.leafTable tenant va
  t.2.putWord (t.1 + 8 * bitsOf va 16 5) e

/-- The first n pages of an allocation mapped, or, without on, unmapped. -/
def Pkg.mapPages (p : Pkg) (a : Alloc) (on : Bool) : Nat → Pkg
  | 0 => p
  | n + 1 =>
    let e := a.pa + 0x10000 * n + 3 + (if a.w then 4 else 0) + (if a.x then 8 else 0)
    (p.mapPages a on n).setLeaf a.tenant (a.va + 0x10000 * n) (if on then e else 0)

/-- Two ranges of bytes are apart. -/
def apart (a n b m : Nat) : Bool := decide (a + n ≤ b) || decide (b + m ≤ a)

/-- An allocation's bytes stand in a granule of device memory. -/
def Alloc.fills (a : Alloc) (g : Nat) : Bool :=
  if a.spread = [] then decide (a.pa / 4096 ≤ g) && decide (g < (a.pa + a.size) / 4096) else a.spread.contains g

/-- Two allocations stand in different granules. -/
def Alloc.clear (a b : Alloc) : Bool := a.spread.all (fun g => !b.fills g) && b.spread.all fun g => !a.fills g

/-- The granules of an allocation, in order. -/
def Alloc.cells (a : Alloc) : List Nat := if a.spread = [] then (List.range (a.size / 4096)).map fun i => a.pa / 4096 + i else a.spread

/-- The allocation that a request becomes. -/
def allocOf (r : AllocReq) : Alloc :=
  { tenant := r.tenant, va := r.va, pa := r.pa, pages := r.pages, w := r.write, x := r.execute, spread := r.spread }

/-- The placer's pages and granules fit in device memory beside what is allocated and the page tables. -/
def Pkg.fits (p : Pkg) (r : AllocReq) : Bool :=
  let n := r.pages * 0x10000
  let top := tableAt (p.tables + 3 * r.pages + 1)
  decide (1 ≤ r.pages) && r.va % 0x10000 == 0 && r.pa % 0x10000 == 0 && decide (r.va + n ≤ 2 ^ 48) && decide (r.pa + n ≤ top)
    && (r.spread == [] || (r.spread.length == 16 * r.pages && decide r.spread.Nodup && r.spread.all fun g => decide (4096 * g + 4096 ≤ top)))
    && p.allocs.all fun a => decide (a.pa + a.size ≤ top) && (a.spread.all fun g => decide (4096 * g + 4096 ≤ top))
        && apart a.pa a.size r.pa n && (a.tenant != r.tenant || apart a.va a.size r.va n) && a.clear (allocOf r)

/-- ALLOCATE (R385): pages are mapped in the tenant's context where the placer chose, and the answer tells where each granule stands
(12_memory.md R202). -/
def execAllocate (r : AllocReq) (s : State) : Out :=
  request (fun s =>
    if s.pkg.fits r then
      let p := s.pkg.mapPages (allocOf r) true r.pages
      .next (({ s with pkg := { p with allocs := p.allocs ++ [allocOf r] } } : State).reply (.placed (allocOf r).cells))
    else .refused .notDue) s

/-- FREE (R385): the pages are unmapped, and no translation of them stays in the cache (R353). -/
def execFree (tenant : BitVec 16) (va : Nat) (s : State) : Out :=
  request (fun s =>
    match s.pkg.allocs.find? fun a => a.tenant == tenant && a.va == va with
    | some a =>
      let p := s.pkg.mapPages a false a.pages
      let tlb := s.grove.tlb.filter fun e => e.tenant != tenant || apart (e.vpage * (if e.big then 0x200000 else 0x10000)) (if e.big then 0x200000 else 0x10000) a.va a.size
      .next (({ s with pkg := { p with allocs := p.allocs.erase a }, grove := { s.grove with tlb := tlb } } : State).reply .accepted)
    | none => .next (s.reply (.refused (-1)))) s

/-- The physical address of n bytes that lie in one granule of an allocation of a tenant. -/
def Pkg.pageAt (p : Pkg) (tenant : BitVec 16) (va n : Nat) : Option Nat :=
  (p.allocs.find? fun a => a.tenant == tenant && decide (a.va ≤ va) && decide (va + n ≤ a.va + a.size)).map fun a => p.cell (a.pa + (va - a.va))

/-- The pieces of n bytes at va, one for each granule that they touch: address and length. -/
def pagePieces (va n : Nat) : List (Nat × Nat) :=
  (List.range ((va % 0x1000 + n + 0xFFF) / 0x1000)).map fun i =>
    let lo := max va ((va / 0x1000 + i) * 0x1000)
    (lo, min (va + n) ((va / 0x1000 + i + 1) * 0x1000) - lo)

/-- The physical addresses and lengths of the pieces of n bytes that lie in a tenant's allocations. -/
def Pkg.within (p : Pkg) (tenant : BitVec 16) (va n : Nat) : Option (List (Nat × Nat)) :=
  (pagePieces va n).mapM fun q => (p.pageAt tenant q.1 q.2).map fun pa => (pa, q.2)

/-- Bytes written piece by piece. -/
def Pkg.writePieces (p : Pkg) : List (Nat × Nat) → List Byte → Pkg
  | [], _ => p
  | q :: t, bs => (p.writeMem q.1 (bs.take q.2)).writePieces t (bs.drop q.2)

/-- The bytes of the pieces; those with an error that cannot be corrected are free values. -/
def State.readPieces (s : State) (l : List (Nat × Nat)) : List Byte :=
  let at_ : List Nat := l.flatMap fun q => (List.range q.2).map fun i => q.1 + i
  (List.range at_.length).map fun i =>
    let a := at_.getD i 0
    if s.pkg.badUnits.contains (a / 32) then Config.freeByte (s.fresh + i) else s.pkg.dmem.read a

/-- WRITE_REQUEST (R385): performed before the answer. -/
def execWriteRequest (tenant : BitVec 16) (va : Nat) (bytes : List Byte) (s : State) : Out :=
  request (fun s =>
    match s.pkg.within tenant va bytes.length with
    | some l => .next (({ s with pkg := s.pkg.writePieces l bytes } : State).reply .accepted)
    | none => .next (s.reply (.refused (-1)))) s

/-- READ_REQUEST (R385); bytes with an error that cannot be corrected are free values. -/
def execReadRequest (tenant : BitVec 16) (va len : Nat) (s : State) : Out :=
  request (fun s =>
    match s.pkg.within tenant va len with
    | some l =>
      .next (({ s.activateAll l with fresh := if s.pkg.badUnits = [] then s.fresh else s.fresh + len } : State).reply (.bytes (s.readPieces l)))
    | none => .next (s.reply (.refused (-1)))) s

/-- Segments written. -/
def placeSegs (tenant : BitVec 16) : List (Nat × List Byte) → Pkg → Pkg
  | [], p => p
  | g :: t, p => placeSegs tenant t (match p.within tenant g.1 g.2.length with | some l => p.writePieces l g.2 | none => p)

/-- CODE_LOAD (R385): segments at their linked addresses, and no core's instruction cache holds a block. -/
def execCodeLoad (tenant : BitVec 16) (segs : List (Nat × List Byte)) (s : State) : Out :=
  request (fun s =>
    if segs.all fun g => (s.pkg.within tenant g.1 g.2.length).isSome then
      let l : CodeLoad :=
        { tenant := tenant, parts := segs.map fun g => { lo := g.1, hi := g.1 + g.2.length }, digest := Config.shake256 (segs.flatMap fun g => g.2) }
      let p := placeSegs tenant segs s.pkg
      let s := s.mapCores fun c => { c with icache := [] }
      .next (({ s with pkg := { p with loads := p.loads ++ [l] } } : State).reply .accepted)
    else .next (s.reply (.refused (-1)))) s

/-! ### Launches (02_execution.md R33, R34) -/

/-- The state as Phopol reads in a tenant's context. -/
def State.asTenant (s : State) (tenant : BitVec 16) : State :=
  { s with core := { s.core with tenant := tenant, troot := s.pkg.root tenant }, grove := { s.grove with tlb := [] } }

/-- Back to the core's own context. -/
def State.backTo (s0 s : State) : State :=
  { s with core := { s.core with tenant := s0.core.tenant, troot := s0.core.troot }, grove := { s.grove with tlb := s0.grove.tlb } }

/-- The bytes of a launch header that a host names, in the tenant's context; none where it is refused. A host has no core, so no
bank-linear view (12_memory.md R202): its header stands in the interleaved view, where the tenant's translation checks it. -/
def hostHeader (r : LaunchReq) (s : State) : Option (List Byte) :=
  if r.header.toNat / 2 ^ 60 = 1 then
    match readHeader r.header (s.asTenant r.tenant) with
    | .ok p => p.1
    | .error _ => none
  else none

/-- LAUNCH_REQUEST (R34, R385): the header is read and checked, and the work starts. -/
def execLaunchRequest (r : LaunchReq) (s : State) : Out :=
  request (fun s =>
    match hostHeader r s with
    | none => .next (s.reply (.refused (-2)))
    | some raw =>
      match answerLaunch raw r.tenant false 0 0 0 r.attach r.answer (s.asTenant r.tenant) with
      | some (.inl c) => .next (s.reply (.refused (-(c : Int))))
      | some (.inr (t, n)) => .next ((s.backTo t).reply (.slot n))
      | none => .refused .notDue) s

/-! ### The end of a launch (02_execution.md R38, R52; 18_messages.md R303) -/

/-- An activation of a launch runs, or waits to run again, on a core. -/
def Core.worksFor (c : Core) (slot : BitVec 12) : Bool :=
  (match c.act with | some a => a.slot == slot | none => false) || (match c.retry with | some a => a.slot == slot | none => false)

/-- An item of a launch is still to be made. -/
def Launch.unmade (l : Launch) : Bool := l.report.isNone && decide (l.next < l.hdr.items) && !(l.killed.any fun k => decide (64 ≤ k.2))

/-- Something of a launch remains. -/
def State.remains (s : State) (l : Launch) : Bool :=
  l.unmade || (s.cores.any fun c => c.worksFor l.slot)
    || (s.grove.deques.toList.any fun d => d.any fun q => q.slot == l.slot) || (s.grove.overflow.any fun q => q.slot == l.slot)
    || (s.pkg.dir.any fun e => e.slot == l.slot && e.at_ != .destroyed)

/-- The report of a launch: of its completion, unless it was aborted. -/
def Launch.finalReport (l : Launch) : Report := l.report.getD { state := 1, tcause := 0, tpc := 0, tval := 0, wid := 0 }

/-- The 64 bytes of a completion record. -/
def launchRecord (r : Report) (ign : Nat) : List Byte :=
  leBytes 8 (r.state % 4) ++ leBytes 8 (ign % 2 ^ 32) ++ leBytes 8 r.tcause.toNat ++ leBytes 8 r.tpc.toNat ++ leBytes 8 r.tval.toNat
    ++ leBytes 8 r.wid.toNat ++ fillBytes 16 0

/-- The completion record written, in the launch's tenant's context, or into the slice of the core that made the launch. Where the
address has no translation for writing when the launch ends, no record is written (DESIGN CHOICE: 18_messages.md R303 gives no outcome, log entry 61). -/
def writeRecord (l : Launch) (bs : List Byte) (s : State) : State :=
  if l.comp = 0 then s
  else
    match devParts .write l.comp 64 ((s.asTenant l.tenant).mapCore fun c => { c with sliceBase := l.slice }) with
    | .ok ([(pa, _)], _) => s.writeDev pa bs
    | _ => s

/-- The completion message sent, from no actor and in the launch's class. -/
def sendReport (l : Launch) (bs : List Byte) (s : State) : State :=
  if l.notify = 0 then s
  else
    match placeOf s l.notify with
    | some (.actor none aid _) =>
      sendCross { tgt := aid, slot := 0, msg := { h0 := header0 0xFF 0 48 l.hdr.cls false false l.ntype, h1 := 0, payload := bs.take 48 } } s
    | _ => s

/-- A launch's attachment leaves the cores it was given (24_debug.md R380). -/
def detach (l : Launch) (s : State) : State :=
  let p := s.pkg.mapLaunch l.slot fun x => { x with attach := none }
  ({ s with pkg := p } : State).mapCores fun c =>
    if l.attach.isSome ∧ l.given.contains c.pkgIx then { c with dbg := { c.dbg with ctl := p.attached c.pkgIx &&& 7 } } else c

/-- A launch's slot is free: its barriers and trees end. -/
def freeSlot (l : Launch) (s : State) : State :=
  let p := { s.pkg with
    launches := s.pkg.launches.filter fun x => x.slot != l.slot
    waiting := s.pkg.waiting.filter fun x => x != l.slot
    bars := s.pkg.bars.filter fun b => b.slot != l.slot
    trees := s.pkg.trees.filter fun t => t.slot != l.slot
    strays := s.pkg.strays.filter fun x => x.slot != l.slot }
  ({ s with pkg := p } : State).mapCores fun c =>
    { c with launchSlot := if c.launchSlot = l.slot then 0 else c.launchSlot }

/-- The report of a launch of which nothing remains, delivered where that can be done: by record and message, or to a host that
waits. -/
def deliver (l : Launch) (s : State) : State :=
  let r := l.finalReport
  let s := detach l s
  if l.byDevice then
    let bs := launchRecord r l.ign
    freeSlot l (sendReport l bs (writeRecord l bs s))
  else if s.pkg.waiting.contains l.slot then
    freeSlot l ((List.replicate (s.pkg.waiting.count l.slot) (Answer.report r l.ign)).foldl State.reply s)
  else { s with pkg := s.pkg.mapLaunch l.slot fun l => { l with report := some r } }

/-- A launch whose end has come and has not been seen to; tasks that run in another grove end with the event. -/
def State.ends (s : State) (l : Launch) : Bool :=
  !s.remains l && (l.byDevice || l.report.isNone || l.attach.isSome || s.pkg.waiting.contains l.slot)

/-- LAUNCH_COMPLETION (R38, R52, R303). -/
def execLaunchCompletion (slot : Nat) (s : State) : Out :=
  match s.pkg.launch (BitVec.ofNat 12 slot) with
  | some l => if s.ends l then .next (deliver l s) else .refused .notDue
  | none => .refused .notDue

/-- A host's request about a launch of its tenant. -/
def aboutLaunch (tenant : BitVec 16) (slot : Nat) (f : Launch → State → State) (s : State) : Out :=
  request (fun s =>
    match s.pkg.launch (BitVec.ofNat 12 slot) with
    | some l => if l.tenant = tenant then .next (f l s) else .next (s.reply (.refused (-1)))
    | none => .next (s.reply (.refused (-1)))) s

/-- WAIT_REQUEST (R38): answered when the launch has ended; Phopol keeps each request until then. -/
def execWaitRequest (tenant : BitVec 16) (slot : Nat) (s : State) : Out :=
  aboutLaunch tenant slot (fun l s =>
    if l.byDevice then s.reply (.refused (-1))
    else
      let t : State := { s with pkg := { s.pkg with waiting := s.pkg.waiting ++ [l.slot] } }
      if s.remains l then t else deliver l t) s

/-- DESTROY_REQUEST (R38): the actors of a launch are destroyed, and no further one is made. -/
def execDestroyRequest (tenant : BitVec 16) (slot : Nat) (s : State) : Out :=
  aboutLaunch tenant slot (fun l s =>
    (if l.hdr.actors then s.kill { slot := l.slot.toNat, wid := 0, low := 64 } else s).reply .accepted) s

/-! ### Cap and attestation (22_scheduling_faults.md R341; R386) -/

/-- SET_CAP_REQUEST (R341). -/
def execSetCapRequest (watts : Nat) (s : State) : Out :=
  request (fun s =>
    if 1200 ≤ watts ∧ watts ≤ 2400 then
      .next (({ s with
        grove := s.grove.capped watts
        pkg := { s.pkg with capW := watts } } : State).reply .accepted)
    else .next (s.reply (.refused (-1)))) s

/-- A code load that a live launch of its tenant runs from (DESIGN CHOICE, log entry 33). -/
def Pkg.inUse (p : Pkg) (l : CodeLoad) : Bool :=
  p.launches.any fun x => x.tenant == l.tenant && l.parts.any fun r => decide (r.lo ≤ x.hdr.code.toNat % 2 ^ 48) && decide (x.hdr.code.toNat % 2 ^ 48 < r.hi)

/-- The digests of a tenant's code loads chained in load order (DESIGN CHOICE: from 64 zero bytes, log entry 33). -/
def Pkg.codeDigest (p : Pkg) (tenant : BitVec 16) : BitVec 512 :=
  (p.loads.filter fun l => l.tenant == tenant && p.inUse l).foldl
    (fun h l => Config.shake256 (leBytes 64 h.toNat ++ leBytes 64 l.digest.toNat)) 0

/-- The signed bytes of a report (R386). -/
def attestation (tenant : BitVec 16) (nonce : List Byte) (s : State) : List Byte :=
  nonce ++ leBytes 64 s.pkg.m0.toNat ++ leBytes 64 (s.pkg.codeDigest tenant).toNat ++ leBytes 4 s.pkg.version ++ leBytes 4 s.pkg.capW
    ++ leBytes 64 Config.deviceKey.toNat

/-- ATTEST_REQUEST (R386). -/
def execAttestRequest (tenant : BitVec 16) (nonce : List Byte) (s : State) : Out :=
  request (fun s =>
    if nonce.length = 32 then
      let m := attestation tenant nonce s
      .next (s.reply (.attest m (Config.slhSign m)))
    else .refused .notDue) s

end Sys2Proof.Machine
end

