-- ==== Sys2Proof/Machine/Dispatch.lean ====
section
/-!
DEFINITION. One arm per instruction or event: each a direct call of its meaning.
-/
namespace Sys2Proof.Machine

def exec (i : Instr) (s : State) : Host.Outcome State Fault Refusal :=
  match i with
  | .add x => Sys2Proof.Machine.execAdd x s
  | .sub x => Sys2Proof.Machine.execSub x s
  | .min x => Sys2Proof.Machine.execMin x s
  | .max x => Sys2Proof.Machine.execMax x s
  | .and x => Sys2Proof.Machine.execAnd x s
  | .or x => Sys2Proof.Machine.execOr x s
  | .xor x => Sys2Proof.Machine.execXor x s
  | .andn x => Sys2Proof.Machine.execAndn x s
  | .shl x => Sys2Proof.Machine.execShl x s
  | .shr x => Sys2Proof.Machine.execShr x s
  | .sra x => Sys2Proof.Machine.execSra x s
  | .rotr x => Sys2Proof.Machine.execRotr x s
  | .mul x => Sys2Proof.Machine.execMul x s
  | .mulhs x => Sys2Proof.Machine.execMulhs x s
  | .mulhu x => Sys2Proof.Machine.execMulhu x s
  | .mulhsu x => Sys2Proof.Machine.execMulhsu x s
  | .divs x => Sys2Proof.Machine.execDivs x s
  | .divu x => Sys2Proof.Machine.execDivu x s
  | .rems x => Sys2Proof.Machine.execRems x s
  | .remu x => Sys2Proof.Machine.execRemu x s
  | .minu x => Sys2Proof.Machine.execMinu x s
  | .maxu x => Sys2Proof.Machine.execMaxu x s
  | .absd x => Sys2Proof.Machine.execAbsd x s
  | .clz x => Sys2Proof.Machine.execClz x s
  | .ctz x => Sys2Proof.Machine.execCtz x s
  | .popc x => Sys2Proof.Machine.execPopc x s
  | .brev x => Sys2Proof.Machine.execBrev x s
  | .addi x => Sys2Proof.Machine.execAddi x s
  | .andi x => Sys2Proof.Machine.execAndi x s
  | .ori x => Sys2Proof.Machine.execOri x s
  | .xori x => Sys2Proof.Machine.execXori x s
  | .shli x => Sys2Proof.Machine.execShli x s
  | .shri x => Sys2Proof.Machine.execShri x s
  | .srai x => Sys2Proof.Machine.execSrai x s
  | .lis x => Sys2Proof.Machine.execLis x s
  | .addiLit x => Sys2Proof.Machine.execAddiLit x s
  | .andiLit x => Sys2Proof.Machine.execAndiLit x s
  | .oriLit x => Sys2Proof.Machine.execOriLit x s
  | .xoriLit x => Sys2Proof.Machine.execXoriLit x s
  | .shliLit x => Sys2Proof.Machine.execShliLit x s
  | .shriLit x => Sys2Proof.Machine.execShriLit x s
  | .sraiLit x => Sys2Proof.Machine.execSraiLit x s
  | .lisLit x => Sys2Proof.Machine.execLisLit x s
  | .cmp x => Sys2Proof.Machine.execCmp x s
  | .cmpi x => Sys2Proof.Machine.execCmpi x s
  | .cmpiLit x => Sys2Proof.Machine.execCmpiLit x s
  | .fcmpF32 x => Sys2Proof.Machine.execFcmpF32 x s
  | .fcmpF16 x => Sys2Proof.Machine.execFcmpF16 x s
  | .fcmpBf16 x => Sys2Proof.Machine.execFcmpBf16 x s
  | .plog x => Sys2Proof.Machine.execPlog x s
  | .faddF32 x => Sys2Proof.Machine.execFaddF32 x s
  | .fsubF32 x => Sys2Proof.Machine.execFsubF32 x s
  | .fmulF32 x => Sys2Proof.Machine.execFmulF32 x s
  | .fmacF32 x => Sys2Proof.Machine.execFmacF32 x s
  | .faddF16 x => Sys2Proof.Machine.execFaddF16 x s
  | .fsubF16 x => Sys2Proof.Machine.execFsubF16 x s
  | .fmulF16 x => Sys2Proof.Machine.execFmulF16 x s
  | .fmacF16 x => Sys2Proof.Machine.execFmacF16 x s
  | .faddBf16 x => Sys2Proof.Machine.execFaddBf16 x s
  | .fsubBf16 x => Sys2Proof.Machine.execFsubBf16 x s
  | .fmulBf16 x => Sys2Proof.Machine.execFmulBf16 x s
  | .fmacBf16 x => Sys2Proof.Machine.execFmacBf16 x s
  | .fminF32 x => Sys2Proof.Machine.execFminF32 x s
  | .fmaxF32 x => Sys2Proof.Machine.execFmaxF32 x s
  | .fmscF32 x => Sys2Proof.Machine.execFmscF32 x s
  | .fcpsF32 x => Sys2Proof.Machine.execFcpsF32 x s
  | .fminF16 x => Sys2Proof.Machine.execFminF16 x s
  | .fmaxF16 x => Sys2Proof.Machine.execFmaxF16 x s
  | .fmscF16 x => Sys2Proof.Machine.execFmscF16 x s
  | .fcpsF16 x => Sys2Proof.Machine.execFcpsF16 x s
  | .fminBf16 x => Sys2Proof.Machine.execFminBf16 x s
  | .fmaxBf16 x => Sys2Proof.Machine.execFmaxBf16 x s
  | .fmscBf16 x => Sys2Proof.Machine.execFmscBf16 x s
  | .fcpsBf16 x => Sys2Proof.Machine.execFcpsBf16 x s
  | .fcvt x => Sys2Proof.Machine.execFcvt x s
  | .sel x => Sys2Proof.Machine.execSel x s
  | .pget x => Sys2Proof.Machine.execPget x s
  | .pput x => Sys2Proof.Machine.execPput x s
  | .ldb x => Sys2Proof.Machine.execLdb x s
  | .ldh x => Sys2Proof.Machine.execLdh x s
  | .ldw x => Sys2Proof.Machine.execLdw x s
  | .ldd x => Sys2Proof.Machine.execLdd x s
  | .ldbu x => Sys2Proof.Machine.execLdbu x s
  | .ldhu x => Sys2Proof.Machine.execLdhu x s
  | .ldwu x => Sys2Proof.Machine.execLdwu x s
  | .stb x => Sys2Proof.Machine.execStb x s
  | .sth x => Sys2Proof.Machine.execSth x s
  | .stw x => Sys2Proof.Machine.execStw x s
  | .std x => Sys2Proof.Machine.execStd x s
  | .ldbLit x => Sys2Proof.Machine.execLdbLit x s
  | .ldhLit x => Sys2Proof.Machine.execLdhLit x s
  | .ldwLit x => Sys2Proof.Machine.execLdwLit x s
  | .lddLit x => Sys2Proof.Machine.execLddLit x s
  | .ldbuLit x => Sys2Proof.Machine.execLdbuLit x s
  | .ldhuLit x => Sys2Proof.Machine.execLdhuLit x s
  | .ldwuLit x => Sys2Proof.Machine.execLdwuLit x s
  | .stbLit x => Sys2Proof.Machine.execStbLit x s
  | .sthLit x => Sys2Proof.Machine.execSthLit x s
  | .stwLit x => Sys2Proof.Machine.execStwLit x s
  | .stdLit x => Sys2Proof.Machine.execStdLit x s
  | .br x => Sys2Proof.Machine.execBr x s
  | .brl x => Sys2Proof.Machine.execBrl x s
  | .brLit x => Sys2Proof.Machine.execBrLit x s
  | .brlLit x => Sys2Proof.Machine.execBrlLit x s
  | .jr x => Sys2Proof.Machine.execJr x s
  | .loop x => Sys2Proof.Machine.execLoop x s
  | .nop x => Sys2Proof.Machine.execNop x s
  | .endAct x => Sys2Proof.Machine.execEndAct x s
  | .yield x => Sys2Proof.Machine.execYield x s
  | .trap x => Sys2Proof.Machine.execTrap x s
  | .eret x => Sys2Proof.Machine.execEret x s
  | .brk x => Sys2Proof.Machine.execBrk x s
  | .pause x => Sys2Proof.Machine.execPause x s
  | .fencei x => Sys2Proof.Machine.execFencei x s
  | .getc x => Sys2Proof.Machine.execGetc x s
  | .putc x => Sys2Proof.Machine.execPutc x s
  | .fork x => Sys2Proof.Machine.execFork x s
  | .join x => Sys2Proof.Machine.execJoin x s
  | .vadd x => Sys2Proof.Machine.execVadd x s
  | .vsub x => Sys2Proof.Machine.execVsub x s
  | .vmul x => Sys2Proof.Machine.execVmul x s
  | .vfma x => Sys2Proof.Machine.execVfma x s
  | .vfms x => Sys2Proof.Machine.execVfms x s
  | .vmin x => Sys2Proof.Machine.execVmin x s
  | .vmax x => Sys2Proof.Machine.execVmax x s
  | .vabs x => Sys2Proof.Machine.execVabs x s
  | .vneg x => Sys2Proof.Machine.execVneg x s
  | .vabsd x => Sys2Proof.Machine.execVabsd x s
  | .vmulh x => Sys2Proof.Machine.execVmulh x s
  | .vdiv x => Sys2Proof.Machine.execVdiv x s
  | .vsqrt x => Sys2Proof.Machine.execVsqrt x s
  | .vscl x => Sys2Proof.Machine.execVscl x s
  | .vand x => Sys2Proof.Machine.execVand x s
  | .vor x => Sys2Proof.Machine.execVor x s
  | .vxor x => Sys2Proof.Machine.execVxor x s
  | .vandn x => Sys2Proof.Machine.execVandn x s
  | .vnot x => Sys2Proof.Machine.execVnot x s
  | .vshl x => Sys2Proof.Machine.execVshl x s
  | .vshr x => Sys2Proof.Machine.execVshr x s
  | .vsra x => Sys2Proof.Machine.execVsra x s
  | .vrotr x => Sys2Proof.Machine.execVrotr x s
  | .vpopc x => Sys2Proof.Machine.execVpopc x s
  | .vclz x => Sys2Proof.Machine.execVclz x s
  | .vceq x => Sys2Proof.Machine.execVceq x s
  | .vcne x => Sys2Proof.Machine.execVcne x s
  | .vclt x => Sys2Proof.Machine.execVclt x s
  | .vcle x => Sys2Proof.Machine.execVcle x s
  | .vcgt x => Sys2Proof.Machine.execVcgt x s
  | .vcge x => Sys2Proof.Machine.execVcge x s
  | .vcun x => Sys2Proof.Machine.execVcun x s
  | .vclass x => Sys2Proof.Machine.execVclass x s
  | .vsel x => Sys2Proof.Machine.execVsel x s
  | .vmand x => Sys2Proof.Machine.execVmand x s
  | .vmor x => Sys2Proof.Machine.execVmor x s
  | .vmxor x => Sys2Proof.Machine.execVmxor x s
  | .vmnot x => Sys2Proof.Machine.execVmnot x s
  | .vmtos x => Sys2Proof.Machine.execVmtos x s
  | .vstom x => Sys2Proof.Machine.execVstom x s
  | .vcvt x => Sys2Proof.Machine.execVcvt x s
  | .valign x => Sys2Proof.Machine.execValign x s
  | .valignp x => Sys2Proof.Machine.execValignp x s
  | .vpke2 x => Sys2Proof.Machine.execVpke2 x s
  | .vunpe2 x => Sys2Proof.Machine.execVunpe2 x s
  | .vhist x => Sys2Proof.Machine.execVhist x s
  | .vbcast x => Sys2Proof.Machine.execVbcast x s
  | .vshuf x => Sys2Proof.Machine.execVshuf x s
  | .vrot x => Sys2Proof.Machine.execVrot x s
  | .vslide x => Sys2Proof.Machine.execVslide x s
  | .vzip x => Sys2Proof.Machine.execVzip x s
  | .vunzip x => Sys2Proof.Machine.execVunzip x s
  | .vins x => Sys2Proof.Machine.execVins x s
  | .vextr x => Sys2Proof.Machine.execVextr x s
  | .vcomp x => Sys2Proof.Machine.execVcomp x s
  | .vexpd x => Sys2Proof.Machine.execVexpd x s
  | .vrsum x => Sys2Proof.Machine.execVrsum x s
  | .vrmin x => Sys2Proof.Machine.execVrmin x s
  | .vrmax x => Sys2Proof.Machine.execVrmax x s
  | .vrdot x => Sys2Proof.Machine.execVrdot x s
  | .vld x => Sys2Proof.Machine.execVld x s
  | .vst x => Sys2Proof.Machine.execVst x s
  | .vldr x => Sys2Proof.Machine.execVldr x s
  | .vstr x => Sys2Proof.Machine.execVstr x s
  | .vldbc x => Sys2Proof.Machine.execVldbc x s
  | .mldb x => Sys2Proof.Machine.execMldb x s
  | .mmul x => Sys2Proof.Machine.execMmul x s
  | .mmac x => Sys2Proof.Machine.execMmac x s
  | .mrd x => Sys2Proof.Machine.execMrd x s
  | .mclr x => Sys2Proof.Machine.execMclr x s
  | .mshr x => Sys2Proof.Machine.execMshr x s
  | .mrel x => Sys2Proof.Machine.execMrel x s
  | .vscalc x => Sys2Proof.Machine.execVscalc x s
  | .gang x => Sys2Proof.Machine.execGang x s
  | .split x => Sys2Proof.Machine.execSplit x s
  | .aadd x => Sys2Proof.Machine.execAadd x s
  | .aand x => Sys2Proof.Machine.execAand x s
  | .aor x => Sys2Proof.Machine.execAor x s
  | .axor x => Sys2Proof.Machine.execAxor x s
  | .amin x => Sys2Proof.Machine.execAmin x s
  | .amax x => Sys2Proof.Machine.execAmax x s
  | .aminu x => Sys2Proof.Machine.execAminu x s
  | .amaxu x => Sys2Proof.Machine.execAmaxu x s
  | .aswap x => Sys2Proof.Machine.execAswap x s
  | .acas x => Sys2Proof.Machine.execAcas x s
  | .afadd x => Sys2Proof.Machine.execAfadd x s
  | .aaddp x => Sys2Proof.Machine.execAaddp x s
  | .aandp x => Sys2Proof.Machine.execAandp x s
  | .aorp x => Sys2Proof.Machine.execAorp x s
  | .axorp x => Sys2Proof.Machine.execAxorp x s
  | .aminp x => Sys2Proof.Machine.execAminp x s
  | .amaxp x => Sys2Proof.Machine.execAmaxp x s
  | .aminup x => Sys2Proof.Machine.execAminup x s
  | .amaxup x => Sys2Proof.Machine.execAmaxup x s
  | .aswapp x => Sys2Proof.Machine.execAswapp x s
  | .afaddp x => Sys2Proof.Machine.execAfaddp x s
  | .expect x => Sys2Proof.Machine.execExpect x s
  | .waitg x => Sys2Proof.Machine.execWaitg x s
  | .bar x => Sys2Proof.Machine.execBar x s
  | .bararr x => Sys2Proof.Machine.execBararr x s
  | .barwt x => Sys2Proof.Machine.execBarwt x s
  | .qfence x => Sys2Proof.Machine.execQfence x s
  | .swinit x => Sys2Proof.Machine.execSwinit x s
  | .send x => Sys2Proof.Machine.execSend x s
  | .sendl x => Sys2Proof.Machine.execSendl x s
  | .gath x => Sys2Proof.Machine.execGath x s
  | .scat x => Sys2Proof.Machine.execScat x s
  | .treduce x => Sys2Proof.Machine.execTreduce x s
  | .scop x => Sys2Proof.Machine.execScop x s
  | .scophdr x => Sys2Proof.Machine.execScophdr x s
  | .scopid x => Sys2Proof.Machine.execScopid x s
  | .scan x => Sys2Proof.Machine.execScan x s
  | .scanc x => Sys2Proof.Machine.execScanc x s
  | .ride x => Sys2Proof.Machine.execRide x s
  | .rbar x => Sys2Proof.Machine.execRbar x s
  | .scwait x => Sys2Proof.Machine.execScwait x s
  | .lld x => Sys2Proof.Machine.execLld x s
  | .lst x => Sys2Proof.Machine.execLst x s
  | .ladd x => Sys2Proof.Machine.execLadd x s
  | .lreb x => Sys2Proof.Machine.execLreb x s
  | .lset x => Sys2Proof.Machine.execLset x s
  | .lget x => Sys2Proof.Machine.execLget x s
  | .ltick x => Sys2Proof.Machine.execLtick x s
  | .lnow x => Sys2Proof.Machine.execLnow x s
  | .lreg x => Sys2Proof.Machine.execLreg x s
  | .lregf x => Sys2Proof.Machine.execLregf x s
  | .sendm x => Sys2Proof.Machine.execSendm x s
  | .mbox x => Sys2Proof.Machine.execMbox x s
  | .maskc x => Sys2Proof.Machine.execMaskc x s
  | .unmc x => Sys2Proof.Machine.execUnmc x s
  | .spawn x => Sys2Proof.Machine.execSpawn x s
  | .hset x => Sys2Proof.Machine.execHset x s
  | .hclr x => Sys2Proof.Machine.execHclr x s
  | .wset x => Sys2Proof.Machine.execWset x s
  | .wclr x => Sys2Proof.Machine.execWclr x s
  | .adest x => Sys2Proof.Machine.execAdest x s
  | .launch x => Sys2Proof.Machine.execLaunch x s
  | .widf x => Sys2Proof.Machine.execWidf x s
  | .nmld x => Sys2Proof.Machine.execNmld x s
  | .nmrun x => Sys2Proof.Machine.execNmrun x s
  | .nmwait x => Sys2Proof.Machine.execNmwait x s
  | .nmfence x => Sys2Proof.Machine.execNmfence x s
  | .nmred x => Sys2Proof.Machine.execNmred x s
  | .tld x => Sys2Proof.Machine.execTld x s
  | .tq x => Sys2Proof.Machine.execTq x s
  | .dbset x => Sys2Proof.Machine.execDbset x s
  | .dbclr x => Sys2Proof.Machine.execDbclr x s
  | .dwset x => Sys2Proof.Machine.execDwset x s
  | .dwclr x => Sys2Proof.Machine.execDwclr x s
  | .trmark x => Sys2Proof.Machine.execTrmark x s
  | .trctl x => Sys2Proof.Machine.execTrctl x s
  | .dacc x => Sys2Proof.Machine.execDacc x s
  | .ctxsv x => Sys2Proof.Machine.execCtxsv x s
  | .ctxld x => Sys2Proof.Machine.execCtxld x s
  | .tlbinv x => Sys2Proof.Machine.execTlbinv x s
  | .clrset x => Sys2Proof.Machine.execClrset x s
  | .ltmode x => Sys2Proof.Machine.execLtmode x s
  | .crset x => Sys2Proof.Machine.execCrset x s
  | .nldr x => Sys2Proof.Machine.execNldr x s
  | .nstr x => Sys2Proof.Machine.execNstr x s
  | .nldi x => Sys2Proof.Machine.execNldi x s
  | .nadd x => Sys2Proof.Machine.execNadd x s
  | .nsub x => Sys2Proof.Machine.execNsub x s
  | .nmul x => Sys2Proof.Machine.execNmul x s
  | .nfma x => Sys2Proof.Machine.execNfma x s
  | .nmin x => Sys2Proof.Machine.execNmin x s
  | .nmax x => Sys2Proof.Machine.execNmax x s
  | .ncmp x => Sys2Proof.Machine.execNcmp x s
  | .nsel x => Sys2Proof.Machine.execNsel x s
  | .nand x => Sys2Proof.Machine.execNand x s
  | .nor x => Sys2Proof.Machine.execNor x s
  | .nxor x => Sys2Proof.Machine.execNxor x s
  | .nshf x => Sys2Proof.Machine.execNshf x s
  | .ncvt x => Sys2Proof.Machine.execNcvt x s
  | .nlaw x => Sys2Proof.Machine.execNlaw x s
  | .ntq x => Sys2Proof.Machine.execNtq x s
  | .nred x => Sys2Proof.Machine.execNred x s
  | .npush x => Sys2Proof.Machine.execNpush x s
  | .nloop0 x => Sys2Proof.Machine.execNloop0 x s
  | .nloop1 x => Sys2Proof.Machine.execNloop1 x s
  | .nadda x => Sys2Proof.Machine.execNadda x s
  | .nend => Sys2Proof.Machine.execNend s
  | .nmuRunEnd => Sys2Proof.Machine.execNmuRunEnd s
  | .nmuParityReload => Sys2Proof.Machine.execNmuParityReload s
  | .nmuClearingRequest => Sys2Proof.Machine.execNmuClearingRequest s
  | .packageReset image => Sys2Proof.Machine.execPackageReset image s
  | .bringupComplete => Sys2Proof.Machine.execBringupComplete s
  | .groveReset => Sys2Proof.Machine.execGroveReset s
  | .domainBringup dom => Sys2Proof.Machine.execDomainBringup dom s
  | .linkResend port => Sys2Proof.Machine.execLinkResend port s
  | .fabricPortFailure port => Sys2Proof.Machine.execFabricPortFailure port s
  | .pairMove port e => Sys2Proof.Machine.execPairMove port e s
  | .codeLoad tenant segs => Sys2Proof.Machine.execCodeLoad tenant segs s
  | .allocate r => Sys2Proof.Machine.execAllocate r s
  | .free tenant va => Sys2Proof.Machine.execFree tenant va s
  | .writeRequest tenant va bytes => Sys2Proof.Machine.execWriteRequest tenant va bytes s
  | .readRequest tenant va len => Sys2Proof.Machine.execReadRequest tenant va len s
  | .launchRequest r => Sys2Proof.Machine.execLaunchRequest r s
  | .waitRequest tenant slot => Sys2Proof.Machine.execWaitRequest tenant slot s
  | .evictRequest tenant aid => Sys2Proof.Machine.execEvictRequest tenant aid s
  | .attestRequest tenant nonce => Sys2Proof.Machine.execAttestRequest tenant nonce s
  | .setCapRequest watts => Sys2Proof.Machine.execSetCapRequest watts s
  | .debugStopRequest => Sys2Proof.Machine.execDebugStopRequest s
  | .debugStepRequest => Sys2Proof.Machine.execDebugStepRequest s
  | .debugRunRequest => Sys2Proof.Machine.execDebugRunRequest s
  | .debugRegisterWrite tenant x => Sys2Proof.Machine.execDebugRegisterWrite tenant x s
  | .whitWrite x => Sys2Proof.Machine.execWhitWrite x s
  | .mgmtInstruction ws => Sys2Proof.Machine.execMgmtInstruction ws s
  | .overflowRingFeed slot => Sys2Proof.Machine.execOverflowRingFeed slot s
  | .messageDispatch aid off => Sys2Proof.Machine.execMessageDispatch aid off s
  | .taskDispatch src => Sys2Proof.Machine.execTaskDispatch src s
  | .retryDispatch => Sys2Proof.Machine.execRetryDispatch s
  | .placerAnswer a => Sys2Proof.Machine.execPlacerAnswer a s
  | .gangJoin tags => Sys2Proof.Machine.execGangJoin tags s
  | .gangTimeout => Sys2Proof.Machine.execGangTimeout s
  | .deferredTrap => Sys2Proof.Machine.execDeferredTrap s
  | .kill k => Sys2Proof.Machine.execKill k s
  | .preemption => Sys2Proof.Machine.execPreemption s
  | .contextSaveDone => Sys2Proof.Machine.execContextSaveDone s
  | .actorReload k aid base => Sys2Proof.Machine.execActorReload k aid base s
  | .launchCompletion slot => Sys2Proof.Machine.execLaunchCompletion slot s
  | .remoteStoreArrival a => Sys2Proof.Machine.execRemoteStoreArrival a s
  | .remoteLoadArrival a => Sys2Proof.Machine.execRemoteLoadArrival a s
  | .atomicArrival a => Sys2Proof.Machine.execAtomicArrival a s
  | .pushFlitArrival a => Sys2Proof.Machine.execPushFlitArrival a s
  | .messageHeaderArrival a => Sys2Proof.Machine.execMessageHeaderArrival a s
  | .messageLastFlit aid off => Sys2Proof.Machine.execMessageLastFlit aid off s
  | .roomNotice aid => Sys2Proof.Machine.execRoomNotice aid s
  | .unlistedRetry aid => Sys2Proof.Machine.execUnlistedRetry aid s
  | .ackReturn id => Sys2Proof.Machine.execAckReturn id s
  | .loadDataReturn r => Sys2Proof.Machine.execLoadDataReturn r s
  | .nackReturn id why => Sys2Proof.Machine.execNackReturn id why s
  | .treeRoundTotal tree parts => Sys2Proof.Machine.execTreeRoundTotal tree parts s
  | .rideCarryArrival aid ch carry => Sys2Proof.Machine.execRideCarryArrival aid ch carry s
  | .rbarRelease aid ch => Sys2Proof.Machine.execRbarRelease aid ch s
  | .barrierRelease idx => Sys2Proof.Machine.execBarrierRelease idx s
  | .barrierTimeout idx => Sys2Proof.Machine.execBarrierTimeout idx s
  | .waitgTimeout => Sys2Proof.Machine.execWaitgTimeout s
  | .commandCommit q => Sys2Proof.Machine.execCommandCommit q s
  | .commandReplay q => Sys2Proof.Machine.execCommandReplay q s
  | .walkComplete va => Sys2Proof.Machine.execWalkComplete va s
  | .clearingRefill => Sys2Proof.Machine.execClearingRefill s
  | .clearingGrant => Sys2Proof.Machine.execClearingGrant s
  | .lawnowAdvance => Sys2Proof.Machine.execLawnowAdvance s
  | .sweeperVisit off => Sys2Proof.Machine.execSweeperVisit off s
  | .crossingSearchEnd => Sys2Proof.Machine.execCrossingSearchEnd s
  | .dramRefresh bank => Sys2Proof.Machine.execDramRefresh bank s
  | .targetedRefresh bank row => Sys2Proof.Machine.execTargetedRefresh bank row s
  | .debugStop => Sys2Proof.Machine.execDebugStop s
  | .stepHoldTimeout => Sys2Proof.Machine.execStepHoldTimeout s
  | .traceDrain d => Sys2Proof.Machine.execTraceDrain d s
  | .grovePowerGate => Sys2Proof.Machine.execGrovePowerGate s
  | .groveWake => Sys2Proof.Machine.execGroveWake s
  | .illegalEncoding w => Sys2Proof.Machine.execIllegalEncoding w s
  | .destroyRequest tenant slot => Sys2Proof.Machine.execDestroyRequest tenant slot s
  | .gatherRowLanding row => Sys2Proof.Machine.execGatherRowLanding row s
  | .failedBankMarkClear bank => Sys2Proof.Machine.execFailedBankMarkClear bank s

end Sys2Proof.Machine
end

