-- ==== Sys2Proof/Machine/World.lean ====
section
/-!
DEFINITION. What moves around the cores without being told to: one turn lets each kind of thing that can happen happen once
for each member, and a cycle passes (log entry 34). What comes from outside, or out of this order, comes as an event.
-/
namespace Sys2Proof.Machine

/-- The next state, or the state as it was where an event is not due. -/
def Out.orStay (o : Out) (s : State) : State :=
  match o with
  | .next t => t
  | _ => s

/-- A move of every member, each in the core's place. -/
def eachMember (f : State → State) (s : State) : State :=
  (List.range (s.peers.length + 1)).foldl (fun s k => focus k (f (focus k s))) s

/-! ### The network -/

/-- The oldest posted access of the core that may arrive does. -/
def moveArrival (s : State) : State :=
  match s.core.posted.find? fun p => mayArrive s p with
  | some p => (arrivePosted s p)
  | none => s

/-- The first record of the core's actors that has not landed does. -/
def moveLanding (s : State) : State :=
  match s.core.actors.findSome? fun o => o.bind fun a => (a.recs.find? fun r => !r.pad && !r.landed).map fun r => (a.aid, r.off) with
  | some (aid, off) => Out.orStay (execMessageLastFlit aid.toNat off s) s
  | none => s

/-- The answer to the core's first posted access that has one returns. -/
def moveAnswer (s : State) : State :=
  match s.core.posted.find? fun p => match p.stage with | .sent | .performed _ | .refused _ => true | _ => false with
  | some p =>
    (match p.stage with
     | .refused why => Out.orStay (execNackReturn p.id why s) s
     | .sent => Out.orStay (if s.severed p then execNackReturn p.id .adead s else execAckReturn p.id s) s
     | _ => Out.orStay (execAckReturn p.id s) s)
  | none => s

/-- What is reported to the core of the management path goes to Phopol (22_scheduling_faults.md R358). -/
def moveMgmtTraps (s : State) : State :=
  if s.core.mgmtTraps = [] then s
  else
    { s.mapCore (fun c => { c with deferred := c.deferred.filter fun d => !d.mgmt }) with
      pkg := { s.pkg with answers := s.pkg.answers ++ s.core.mgmtTraps.map fun d => .fault d.cause d.tval } }

/-- The messages that the core holds, each sent again when its notice or its time has come. -/
def moveHeld (s : State) : State :=
  let l := (s.core.posted.filter Posted.isHeld).map Posted.notice
  l.foldl (fun s v => Out.orStay (execRoomNotice v s) (Out.orStay (execUnlistedRetry v s) s)) s

/-- The crossing messages that are held, sent again. -/
def moveCross (s : State) : State :=
  (s.grove.crossHeld.map fun x => x.tgt).foldl (fun s aid => if s.crossDue aid then Out.orStay (execRoomNotice aid.toNat s) s else s) s

/-- A load or atomic whose actor has gone, or whose package is cut off, is refused. -/
def moveRefused (s : State) : State :=
  Out.orStay (execLoadDataReturn (.refuse .adead) s) (Out.orStay (execLoadDataReturn (.refuse .wnack) s) s)

/-- The held accesses of reloaded actors go on. -/
def moveReinjected (s : State) : State :=
  (s.core.actors.filterMap fun o => o.bind fun a => if a.holding = [] then none else some a.aid).foldl (fun s aid => s.reinjected aid) s

/-! ### Engines and clearing -/

/-- A command of the core moves: it commits, is replayed, or has its walk. -/
def moveCmd (s : State) (k : Cmd) : Option State :=
  match commitHead k.q s with
  | some t => some t
  | none =>
    match replayHead k.q s with
    | some t => some t
    | none => (s.missing k.q).map fun p => walkFor p.1 p.2 s

/-- The oldest command of the core that can move, and the state when it has. -/
def engineMove (s : State) : Option (Cmd × State) :=
  s.core.cmds.findSome? fun k => if (s.core.queue k.q).head? == some k then (moveCmd s k).map fun t => (k, t) else none

/-- One command of every member moves. Those that perform an LTICK do so last, in ascending core index (14_lawstate.md R228, R229). -/
def moveEngines (s : State) : State :=
  let r := (List.range (s.peers.length + 1)).foldl (fun (p : State × List (Fin 32)) k =>
    let t := focus k p.1
    match engineMove t with
    | none => p
    | some (c, u) => if c.cls = 14 ∧ c.sub = 6 then (p.1, p.2 ++ [t.core.ix]) else (focus k (u), p.2)) (s, [])
  ((List.range 32).map (Fin.ofNat 32)).foldl (fun s ix =>
    if r.2.contains ix then
      match s.memberOf ix with
      | some k => (match engineMove (focus k s) with | some (_, u) => focus k (u) | none => s)
      | none => s
    else s) r.1

/-- Requests are granted from the head on, as far as the pool suffices. -/
def grantAll : Nat → State → State
  | 0, s => s
  | n + 1, s => match grantHead s with | some t => grantAll n t | none => s

/-- The clearing's cycle: the requests, then the grants. -/
def moveGrant (s : State) : State := let t := asks s; grantAll t.grove.reqs.length t

/-! ### The sweeper (14_lawstate.md R242) -/

/-- The words that the sweeper visits, region by region and in ascending address, as its visits name them. -/
def State.sweepWords (s : State) : List Nat :=
  s.grove.swept.flatMap fun w =>
    match s.cores.find? fun c => c.ix == w.core with
    | some c => (s.regionWords c w.bytes).map fun p => w.core.val * 2 ^ 18 + p
    | none => []

/-- Words visited in order; one that must wait for the crossing unit keeps the sweeper there. -/
def sweepOver : List Nat → State → State
  | [], s => s
  | p :: l, s =>
    match execSweeperVisit p s with
    | .next t => sweepOver l { t with grove := { t.grove with sweepAt := t.grove.sweepAt + 1 } }
    | _ => s

/-- The sweeper's cycle: 8 words, and after the last one it begins again. -/
def moveSweep (s : State) : State :=
  let l := s.sweepWords
  if l = [] then s
  else
    let t := sweepOver ((l.drop s.grove.sweepAt).take 8) s
    if l.length ≤ t.grove.sweepAt then { t with grove := { t.grove with sweepAt := 0 } } else t

/-! ### Barriers, trees, rides -/

/-- The state holds every member of a launch's prefix: no item is to be made, and none stands elsewhere. -/
def State.holdsAll (s : State) (slot : BitVec 12) (low : Nat) (share : Word) : Bool :=
  !s.itemsDue slot low share && !(s.pkg.dir.any fun e => e.slot == slot && sharesFrom low e.wid share && (match e.at_ with | .away _ => true | _ => false))

/-- The barrier phases that are complete are released. -/
def moveBarriers (s : State) : State :=
  match s.pkg.bars.find? fun b => s.barFull b && s.holdsAll b.slot b.low b.share with
  | some b => s.mapBar b fun b => { b with phase := b.phase + 1 }
  | none => s

/-- The trees whose round is complete are totalled. -/
def moveTrees (s : State) : State :=
  match s.pkg.trees.findSome? fun t =>
      if s.holdsAll t.slot t.low t.share then
        let l := (s.treeMembers t).map fun e => t.part e.wid
        if l ≠ [] ∧ l.all Option.isSome then some (t.idx, l.filterMap id) else none
      else none with
  | some (i, parts) => Out.orStay (execTreeRoundTotal i parts s) s
  | none => s

/-- The ride phases that are complete are released. -/
def moveRides (s : State) : State :=
  (s.core.actors.filterMap id).foldl (fun s a =>
    ([0, 1] : List (Fin 2)).foldl (fun s ch =>
      match a.ride ch.val with
      | some r =>
        if r.released < r.arrived ∧ s.chainReady a r ch.val false then Out.orStay (execRbarRelease a.aid.toNat ch s) s else s
      | none => s) s) s

/-! ### Pre-emption for a launch of higher class (22_scheduling_faults.md R342) -/

/-- The kind of the running activation as a victim: a task, an actor in no gang and no chain, a gang, a ride member. -/
def Core.victimKind (c : Core) : Nat :=
  match c.self with
  | none => 0
  | some a => if a.rides.any Option.isSome then 3 else if c.ganged then 2 else 1

/-- How a running activation ranks as a victim: class, kind, and the bytes of its saved context; none: it is no victim. -/
def State.victimRank (s : State) (cls : Nat) : Option (Nat × Nat × Nat) :=
  if s.core.halted || s.core.stopped || s.core.preempt || !s.core.leads then none
  else
    s.core.act.bind fun a =>
      if a.cls.val < cls then
        let im := s.image s.core.regs.aid true
        some (a.cls.val, s.core.victimKind, im.bytes im.parts.toNat)
      else none

/-- A rank comes before another. -/
def rankBefore (a b : Nat × Nat × Nat) : Bool :=
  decide (a.1 < b.1) || (a.1 == b.1 && (decide (a.2.1 < b.2.1) || (a.2.1 == b.2.1 && decide (a.2.2 < b.2.2))))

/-- The first of the best ranked members. -/
def bestVictim : List (Nat × Nat × Nat × Nat) → Option (Nat × Nat × Nat × Nat)
  | [] => none
  | p :: t =>
    match bestVictim t with
    | some q => some (if rankBefore q.2 p.2 then q else p)
    | none => some p

/-- A launch has work for the grove that has not begun: items of actors not made, or initial records that wait. -/
def State.pendingWork (s : State) (l : Launch) : Bool :=
  l.report.isNone
    && (if l.hdr.actors then decide (l.next < l.hdr.items)
        else (s.grove.overflow ++ s.grove.deques.toList.flatten).any fun q => q.slot == l.slot)

/-- The core and the neighbours after it, as many as a gang has, are free for a launch: each idle, with room for an actor's region or with a
task scratch area. -/
def State.freeHere (s : State) (l : Launch) : Bool :=
  let g := l.hdr.gang
  (List.range g).all fun j =>
    let t := focus j (ensurePeers (g - 1) s)
    t.core.ix.val == s.core.ix.val + j && t.idle
      && (if l.hdr.actors then t.mayJoin l && (List.range 64).any fun i => t.core.regionOk (4096 * i) l.hdr.size else t.seatsTask l.slot)

/-- The highest class of a launch that has work for the grove, while no core that the state may hold is free for it. -/
def State.pressing (s : State) : Option Nat :=
  let free (l : Launch) : Bool := (List.range 8).any fun k => let t := ensurePeers k s; decide (k ≤ t.peers.length) && (focus k t).freeHere l
  ((s.pkg.launches.filter fun l => s.pendingWork l && !free l).map fun l => l.hdr.cls).max?

/-- Phopol asks for the pre-emption of the best victim for such a launch (R342). -/
def movePreempt (s : State) : State :=
  match s.pressing with
  | none => s
  | some cls =>
    if s.cores.any fun c => c.preempt || (c.act.isSome && c.halted) then s
    else
      match bestVictim ((List.range (s.peers.length + 1)).filterMap fun k => ((focus k s).victimRank cls).map fun r => (k, r)) with
      | some (k, _) =>
        focus k ((focus k s).mapMembers fun c => { c with preempt := true })
      | none => s

/-! ### Launches and time -/

/-- The crossing search that stands first ends. -/
def moveSearch (s : State) : State := Out.orStay (execCrossingSearchEnd s) s

/-- The launches that have ended are seen to, and records of items are made as room appears. -/
def moveLaunches (s : State) : State :=
  let s := match s.pkg.launches.find? fun l => s.ends l && !l.far with | some l => (deliver l s) | none => s
  s.pkg.launches.foldl (fun s l => Out.orStay (execOverflowRingFeed l.slot.toNat s) s) s

/-- A cycle ends: the trace's triggers decide, in divider mode law time advances at every d-th, and the clearing is refilled. -/
def tick (s : State) : State :=
  let s := flush s
  let t : State :=
    match s.grove.lawMode with
    | .divider d => if (s.grove.cycle + 1) % max 1 d = 0 then Out.orStay (execLawnowAdvance s) s else s
    | .ltickOnly => s
  t.refill

/-- One turn of the world. The sweeper and the engines come before what arrives from the network (12_memory.md R196). -/
def worldTurn (s : State) : State :=
  if s.slack = 0 then
    let s := moveSweep (moveGrant s)
    let s := moveEngines s
    let s := eachMember moveArrival s
    let s := eachMember moveLanding s
    let s := eachMember moveAnswer s
    let s := eachMember moveHeld s
    let s := moveCross s
    let s := eachMember moveMgmtTraps (moveRefused s)
    let s := eachMember moveReinjected s
    let s := moveBarriers s
    let s := moveTrees s
    let s := eachMember moveRides s
    let s := movePreempt s
    let s := moveSearch s
    tick (moveLaunches s)
  else tick { s with slack := s.slack - 1 }

end Sys2Proof.Machine
end

