-- ==== Sys2Proof/Machine/Turn.lean ====
section
/-!
DEFINITION. One turn of a core and of an NMU: the boundary of R347, issue (04_formats.md R62; 22_scheduling_faults.md R343, R347, R358;
24_debug.md R366; 20_nearmem.md R316, R322).
-/
namespace Sys2Proof.Machine

noncomputable section

/-- The instruction that words stand for; words that are none reach issue as what they are (R76). -/
def instrOf (ws : List IWord) : Instr :=
  match decode ws with
  | .ok i => i
  | .error _ => .illegalEncoding (ws.headD 0)

/-- The instruction at the program counter issues; a fetch that fails traps at its first word (R62). -/
def issueNext (s : State) : Out :=
  match fetch s with
  | .words ws t => exec (instrOf ws) t
  | .fault c v t => .next (t.trapNow c v)

/-! ### The boundary (R347) -/

/-- Traps taken so far by the cores of the state. -/
def State.trapsTaken (s : State) : Nat := (s.cores.map fun c => c.traps).sum

/-- The synchronous fault of the next instruction, if it has one: the state after it. -/
def syncFault (s : State) : Option State :=
  match issueNext s with
  | .next t => if s.trapsTaken < t.trapsTaken then some t else none
  | _ => none

/-- RBAR or SCWAIT holds issue, or waits for its phase (17_scan_notes.md R278). -/
def State.rideHold (s : State) : Bool :=
  (s.together.any fun c => match c.await with | some { kind := .rbar _, .. } => true | _ => false)
    || (match heldInstr s with | some (13, 4, _) | some (13, 5, _) => true | _ => false)

/-- A stop is taken: a breakpoint's at once; another from the third cycle after its arrival on, or when the core pauses (08_scalar.md
R149), when RBAR or SCWAIT holds (R278), or a step has ended (R366, R370). -/
def State.stopDue (s : State) : Bool :=
  !s.core.stopped && (s.breaks.isSome
    || (match s.stopHere with
        | some t => decide (t.at_ + 3 ≤ s.grove.cycle) || (s.together.any fun c => c.dbg.step || c.pause != 0) || s.rideHold
        | none => false))

/-- What the boundary takes after a synchronous fault: a deferred trap, a debug stop, a kill, a pre-emption. -/
def boundary (s : State) : Option State :=
  if s.trapMember.isSome then some (Out.orStay (execDeferredTrap s) s)
  else if s.together.any Core.readingOut then some s
  else if s.stopDue then some (Out.orStay (execDebugStop s) s)
  else if s.together.any (Core.killDue s.grove.cycle) then some (reapKills s)
  else if s.core.preempt then some (Out.orStay (execPreemption s) s)
  else none

/-! ### Waits -/

/-- The first member whose wait is over, with what it comes to. -/
def State.waitOver (s : State) : Option (Nat × Nat × R) :=
  (List.range (s.members + 1)).findSome? fun k =>
    let t := focus k s
    match t.core.await with
    | some w =>
      (match w.kind with
       | .ending => if t.core.quiet then some (k, w.len, .ended t.endActivation) else none
       | _ => match pollSync t with
         | some r => some (k, w.len, r)
         | none => (pollRide t).map fun r => (k, w.len, r))
    | none => none

/-- A core that waits goes on when the wait is over. -/
def waitTurn (s : State) : Out :=
  match s.waitOver with
  | some (k, n, r) => answer k n r s
  | none => .next s

/-! ### Turns -/

/-- An instruction of the management path (R358): it stays submitted while it holds. -/
def mgmtTurn (ws : List IWord) (s : State) : Out :=
  if s.core.await.isSome then waitTurn s
  else
    match exec (instrOf ws) (s.mapCore fun c => { c with mgmt := true }) with
    | .next t =>
      if t.core.hold then .next (t.mapCore fun c => { c with hold := false, pause := 0, mgmt := false })
      else .next (t.mapCore fun c => { c with pause := 0, mgmtWord := none, mgmt := c.mgmt && c.await.isSome })
    | o => o

/-- A core with no activation: a stop, a re-run, or a dispatch. -/
def idleTurn (s : State) : Out :=
  if s.stopDue || (!s.core.stopped && s.stopHere.isSome) then .next (Out.orStay (execDebugStop s) s)
  else if s.core.stopped then .next s
  else if s.core.retry.isSome then .next (Out.orStay (execRetryDispatch s) s)
  else if s.mayDispatch then
    match s.pick with
    | some (.message _ a r) => .next (Out.orStay (execMessageDispatch a.aid.toNat r.off s) s)
    | some (.task src _ _) => .next (Out.orStay (execTaskDispatch src s) s)
    | none => .next s
  else .next s

/-- A core that waits at GANG joins with its gang when all have arrived; the turn of the gang's first core does it. -/
def gangTurn (s : State) : Out :=
  match s.gangTags with
  | some l => if s.gangCores.any Core.stopped then .next s else execGangJoin l s
  | none => .next s

/-- A core with an activation: the boundary first, in R347's order, then a wait or a pause, then the next instruction. A request
that the boundary takes ends a pause (08_scalar.md R149). -/
def activeTurn (s : State) : Out :=
  if s.core.leads = false then .next s
  else
    match boundary s with
    | some t =>
      if s.breaks.isSome || s.awaits || s.core.arrived then .next t
      else (match syncFault s with | some u => .next u | none => .next t)
    | none =>
      if s.awaits then waitTurn s
      else if s.core.arrived then gangTurn s
      else if s.together.any fun c => c.pause != 0 then .next (s.mapMembers fun c => { c with pause := c.pause - 1 })
      else issueNext s

/-- One turn of the core. -/
def coreTurn (s : State) : Out :=
  match s.core.mgmtWord with
  | some ws => mgmtTurn ws s
  | none =>
    if s.core.mgmt then
      (if s.core.await.isSome then waitTurn s else .next (s.mapCore fun c => { c with mgmt := false }))
    else if s.together.any Core.stopped then .next s
    else if s.core.halted && s.together.any (Core.killDue s.grove.cycle) then .next (reapKills s)
    else if s.core.halted || s.core.toEvict.isSome then .next (Out.orStay (execContextSaveDone s) s)
    else if s.core.act.isNone then idleTurn s
    else activeTurn s

/-! ### The NMU -/

/-- One turn of the core's NMU: a run starts, ends, or executes its next instruction (R316, R322, R323). -/
def nmuTurn (s : State) : Out :=
  let n := s.core.nmu
  match n.run with
  | none =>
    (match s.core.runToStart with
     | some k => .next (s.mapNmu fun n => n.begin k.nrun)
     | none => .next s)
  | some r =>
    if r.ended then execNmuRunEnd s
    else if r.waiting then .next s
    else if n.parityOk r.entry = false then execNmuParityReload s
    else
      match n.buf[r.entry]? with
      | none => .next (s.mapNmu fun n => n.stop r 2)
      | some w =>
        match nmuDecode w.1 with
        | some i => exec i s
        | none => .next (s.mapNmu fun n => n.stop r 2)

/-- The core's NMU has something to do. -/
def Core.nmuActive (c : Core) : Bool := c.nmu.run.isSome || c.runToStart.isSome

end

/-! ### Whose turn it is -/

/-- The place of an agent in the round. -/
def Turn.rank (t : Turn) : Nat :=
  match t with
  | .core => 0
  | .nmu k => 2 * k + 1
  | .peer k => 2 * k
  | .world => 1000

/-- The agents of a neighbour: the core unless it follows in a gang, and its NMU when it has something to do. -/
def peerAgents (k : Nat) (c : Core) : List Turn :=
  (if c.leads then [Turn.peer k] else []) ++ (if c.nmuActive then [Turn.nmu k] else [])

/-- The agents of the neighbours from number k on. -/
def peersAgents : Nat → List Core → List Turn
  | _, [] => []
  | k, c :: t => peerAgents k c ++ peersAgents (k + 1) t

/-- The agents that have a turn in a round, in its order. -/
def State.agents (s : State) : List Turn :=
  [Turn.core] ++ (if s.core.nmuActive then [Turn.nmu 0] else []) ++ peersAgents 1 s.peers ++ [Turn.world]

/-- The agent after one in the round. -/
def State.nextTurn (s : State) (t : Turn) : Turn := (s.agents.find? fun u => decide (Turn.rank t < Turn.rank u)).getD .core

/-- The end of a turn: requests for the clearing are made (22_scheduling_faults.md R337), and the next agent has its turn. -/
def endTurn (t : Turn) (s : State) : State :=
  let u := asks s
  { u with turn := u.nextTurn t }

/-- The end of a turn after its outcome. -/
def Out.ended (t : Turn) (o : Out) : Out :=
  match o with
  | .next s => .next (endTurn t s)
  | o => o

/-- A turn of member k, which faces the cores around it meanwhile. -/
def asMember (k : Nat) (f : State → Out) (s : State) : Out :=
  if k = 0 then f s
  else
    match f (s.facing (focus k s).core.ix) with
    | .next t => .next (t.facing s.core.ix)
    | o => o

/-! ### A word put where the next step fetches it -/

/-- A program counter from which 20 bytes can be fetched out of one page. -/
def fetchable (pc : Word) : Bool := pc.toNat / 2 ^ 48 == 0x1000 && pc.toNat % 4 == 0 && decide (pc.toNat % 2 ^ 16 + 20 ≤ 2 ^ 16)

/-- The record of the activation that stands for a load from outside (log entry 35). -/
def hostRecord (pc : Word) : TaskRec :=
  { slot := 0, cls := 0, pc := pc.setWidth 48, wid := 0, join := 0, args := #v[0, 0, 0, 0, 0], hold := [], bound := 0, by_ := 4096, gang := 1 }

/-- The core made ready to issue the instruction at pc next: nothing else is due. -/
def Core.readyAt (c : Core) (pc : Word) : Core :=
  { c with
    regs := { c.regs with pc := pc }
    act := some (match c.act with
      | some a => { a with carried := none, arrived := none }
      | none => newActivation (.task (hostRecord pc)) 0 0 0x3C000 0x4000 1 0)
    await := none, hold := false, pause := 0, icache := [], ganged := false, deferred := [], kills := [], preempt := false, halted := false, mgmt := false
    mgmtWord := none, actors := c.actors.map fun o => o.map fun a => { a with evict := false }
    dbg := { c.dbg with stat := 0, stop := none, step := false, pass := true } }

/-- A core instruction of up to 20 bytes at the program counter, in a page that can be fetched, written and read. -/
def State.withCoreWord (s : State) (w : Nat) : State :=
  let pc : Word := if fetchable s.core.regs.pc then s.core.regs.pc else 0x1000000000000000
  let page := pc.toNat % 2 ^ 48 / 2 ^ 16
  let e : TlbEntry := { tenant := s.core.tenant, vpage := page, big := false, pbase := page * 2 ^ 16, w := true, x := true }
  let t := (s.mapCore fun c => c.readyAt pc).useTlb e
  let put (t : State) (i : Nat) : State := t.writeDev (t.pkg.cell (pc.toNat % 2 ^ 48 + 4 * i)) (leBytes 4 (w / 2 ^ (32 * i)))
  { (List.range 5).foldl put t with agenda := [], turn := .core }

/-- An NMU instruction as entry 0 of the core's NMU, with a run that stands there. -/
def State.withNmuWord (s : State) (w : Nat) : State :=
  let t := s.mapNmu fun n =>
    { n with
      buf := n.buf.set 0 (BitVec.ofNat 32 w, true)
      stuck := n.stuck.filter fun e => e != 0
      run := some { serial := 0, start := 0, sa := 0, sb := 0, sync := none, entry := 0, base := 0x3C000, size := 0x4000, aid := 0, slot := 0, pushes := 0, counted := 0, replayed := false, waiting := false, ended := false } }
  { t with agenda := [], turn := .nmu 0 }

end Sys2Proof.Machine
end

