-- ==== Sys2Proof/Machine/Step.lean ====
section
/-!
DEFINITION. One step of the machine: an event that is due, or the turn of one agent.
-/
namespace Sys2Proof.Machine

noncomputable section

/-- The turn of the agent whose move is next. -/
def ownTurn (s : State) : Host.Outcome State Fault Refusal :=
  match s.turn with
  | .core => Out.ended .core (coreTurn s)
  | .peer k =>
    if k = 0 ∨ s.peers.length < k then .fault .noSuchNeighbour else Out.ended (.peer k) (asMember k coreTurn s)
  | .nmu k => if s.peers.length < k then .fault .noSuchNeighbour else Out.ended (.nmu k) (asMember k nmuTurn s)
  | .world => Out.ended .world (.next (worldTurn s))

/-- An event that takes the core at an instruction boundary, where a synchronous fault of the instruction comes first
(22_scheduling_faults.md R347). -/
def atBoundary (i : Instr) : Bool :=
  match i with
  | .debugStop | .preemption | .deferredTrap => true
  | _ => false

/-- The synchronous fault that comes before an event of the core's boundary: the core is about to issue. -/
def faultFirst (e : Instr) (s : State) : Option State :=
  if atBoundary e && s.core.act.isSome && s.core.leads && !s.core.stopped && !s.core.halted && !s.awaits && !s.core.arrived && s.breaks.isNone
  then syncFault s
  else none

/-- One step. An event of the agenda is performed when the steps before it have passed. -/
def step (s : State) : Host.Outcome State Fault Refusal :=
  match s.agenda with
  | [] => ownTurn s
  | (0, e) :: t =>
    let u : State := { s with agenda := t }
    (match faultFirst e u with
     | some v => .next v
     | none => exec e u)
  | (n + 1, e) :: t => ownTurn { s with agenda := (n, e) :: t }

/-- The state whose next step fetches and runs the instruction whose bits are w: a core instruction at the program counter, or an
NMU instruction in the NMU's buffer (log entries 16 and 35). -/
def State.withFetchWord (s : State) (nbits w : Nat) : State :=
  let v := w % 2 ^ nbits
  match decode (tableWords v) with
  | .ok _ => s.withCoreWord v
  | .error _ => if (nmuDecode (BitVec.ofNat 32 v)).isSome then s.withNmuWord v else s.withCoreWord v

end

end Sys2Proof.Machine
end

