-- ==== Sys2Proof/Safety.lean ====
section
/-!
DEFINITION. The terms in which claims speak of states and runs: canonical memories, runs that do not stop, what stands beside the
registers when an instruction completes, and when a core alone may issue one.
-/
namespace Sys2Proof.Machine

/-! ### Runs and memories -/

/-- n steps from a state end in a next state. -/
def SafeRun (n : Nat) (s : State) : Prop := ∃ t, Host.Core.run core n s = .next t

/-- The memories of a core keep the canonical form. -/
def Core.memWf (c : Core) : Bool := c.scratch.wf && c.coppice.wf

/-- Every memory of the state keeps the canonical form (log entry 4). -/
def State.memWf (s : State) : Bool := s.cores.all Core.memWf && s.pkg.dmem.wf

/-- A byte of device memory. -/
def State.devByte (s : State) (pa : Nat) : Byte := s.pkg.dmem.read pa

/-- A byte of the core's scratchpad. -/
def State.localByte (s : State) (p : Nat) : Byte := s.core.scratch.read p

/-! ### What stands beside the registers -/

/-- The debug module without what the trace and a stop on its way record of each issue (24_debug.md R366, R371 to R373). -/
def Debug.still (d : Debug) : Debug :=
  { d with trig := false, stop := none, skid := 0, pass := false, conds := [], recs := [] }

/-- A core without what the debug module records of each issue. -/
def Core.still (c : Core) : Core := { c with dbg := c.dbg.still }

/-- A core without its registers and without the marks of an issue: holding, its number in the gang, the count of instructions
(24_debug.md R377), the records of the debug module. -/
def Core.beside (c : Core) : Core :=
  { c.still with regs := {}, hold := false, gseq := 0, counters := c.counters.set 0 0 }

/-- Everything of a state that stands beside the core's registers, without the marks of an issue. -/
def State.beside (s : State) : State := { s with core := s.core.beside }

/-- The state as an instruction finds it at issue: the trace conditions of its address are noted (24_debug.md R371). -/
def State.noted (s : State) : State := s.mapMembers fun c => c.note c.pcConds []

/-- t is u, the state that an instruction's own effect made, with the program counter moved on by len bytes and the issue
recorded: nothing else differs. -/
structure After (len : Nat) (u t : State) : Prop where
  regs : t.core.regs = u.core.regs.advance len
  beside : t.beside = u.beside

/-- t is u after a taken transfer to a. -/
structure AfterJump (a : Word) (u t : State) : Prop where
  regs : t.core.regs = u.core.regs.transfer a
  beside : t.beside = u.beside

/-- t is u with the issue recorded, the program counter standing as u's effect left it. -/
structure AfterStay (u t : State) : Prop where
  regs : t.core.regs = u.core.regs
  beside : t.beside = u.beside

/-- The core is about to issue, by itself and in an activation, an instruction that executes: its guard holds, no register awaits
a result, and its wait field is satisfied. -/
structure Issues (g : Guard) (wait : Nat) (s : State) : Prop where
  alone : s.core.ganged = false
  activation : s.core.mgmt = false
  guard : s.core.regs.guard g = true
  free : ∀ rs, s.core.pending rs = false
  drained : s.core.waitHolds wait = false

/-- The instruction is len bytes long, and its successor does not run off carried code. -/
structure Ready (g : Guard) (wait len : Nat) (s : State) : Prop extends Issues g wait s where
  stays : runsOff s.core len = false

/-- An instruction that changes nothing but registers: it completes with registers r, and all else stands. -/
def SetsRegs (i : Instr) (s : State) (r : Regs) : Prop :=
  ∃ t, exec i s = .next t ∧ t.core.regs = r.advance i.bytes ∧ t.beside = s.beside

/-- No watchpoint of the core is valid, no scratchpad byte has an error, and the marked banks leave every byte readable. -/
def Core.calm (c : Core) : Prop := c.health.sound = true ∧ ∀ k : Fin 4, c.dbg.wp[k].getLsbD 63 = false

/-- A value of n bytes as a load writes it to a register (R136). -/
def extended (n : Nat) (signed : Bool) (bs : List Byte) : Word :=
  if signed then (BitVec.ofNat (8 * n) (leNat bs)).signExtend 64 else BitVec.ofNat 64 (leNat bs)

/-- n bytes at ea are local, aligned, within the activation's range, and no queued command touches them. -/
def localReady (s : State) (ea : Word) (n : Nat) (write : Bool) : Prop :=
  ea.toNat < 2 ^ 60 ∧ ea.toNat % n = 0 ∧ ea.toNat + n ≤ s.core.span.2 ∧ s.overtakes ea n = false
    ∧ s.core.blocked (s.core.span.1 + ea.toNat) n write = false

/-- Byte j of a word, byte 0 lowest. -/
def byteOf (w : Word) (j : Nat) : Byte := (w >>> (8 * j)).setWidth 8

/-- A memory with n bytes of a word at p, and m elsewhere. -/
def Holds (m' m : Mem) (p n : Nat) (w : Word) : Prop :=
  ∀ q, m'.read q = if p ≤ q ∧ q < p + n then byteOf w (q - p) else m.read q

end Sys2Proof.Machine
end

