-- ==== Sys2Proof/Certificates/Slice0/Obligations.lean ====
section
/-!
DEFINITION. The statements for the provers. Each cites the rules of spec/ that it formalises; a state in them is any state, reached or not.
-/
namespace Sys2Proof.Machine

/-! ### What a core instruction of the scalar classes does to the registers -/

/-- The scalar integer instructions (08_scalar.md R126 to R128, R132; 04_formats.md R63): the guard, the destination and the value
it receives. -/
def aluRow : Instr → Option (Guard × SReg × (Regs → Word))
  | .add x => some (x.h.g, x.d, fun r => r.rs x.a + r.rs x.b)
  | .sub x => some (x.h.g, x.d, fun r => r.rs x.a - r.rs x.b)
  | .min x => some (x.h.g, x.d, fun r => if (r.rs x.a).toInt ≤ (r.rs x.b).toInt then r.rs x.a else r.rs x.b)
  | .max x => some (x.h.g, x.d, fun r => if (r.rs x.a).toInt ≤ (r.rs x.b).toInt then r.rs x.b else r.rs x.a)
  | .minu x => some (x.h.g, x.d, fun r => if (r.rs x.a).toNat ≤ (r.rs x.b).toNat then r.rs x.a else r.rs x.b)
  | .maxu x => some (x.h.g, x.d, fun r => if (r.rs x.a).toNat ≤ (r.rs x.b).toNat then r.rs x.b else r.rs x.a)
  | .and x => some (x.h.g, x.d, fun r => r.rs x.a &&& r.rs x.b)
  | .or x => some (x.h.g, x.d, fun r => r.rs x.a ||| r.rs x.b)
  | .xor x => some (x.h.g, x.d, fun r => r.rs x.a ^^^ r.rs x.b)
  | .andn x => some (x.h.g, x.d, fun r => r.rs x.a &&& ~~~(r.rs x.b))
  | .shl x => some (x.h.g, x.d, fun r => r.rs x.a <<< ((r.rs x.b).toNat % 64))
  | .shr x => some (x.h.g, x.d, fun r => r.rs x.a >>> ((r.rs x.b).toNat % 64))
  | .sra x => some (x.h.g, x.d, fun r => (r.rs x.a).sshiftRight ((r.rs x.b).toNat % 64))
  | .rotr x => some (x.h.g, x.d, fun r => (r.rs x.a).rotateRight ((r.rs x.b).toNat % 64))
  | .mul x => some (x.h.g, x.d, fun r => r.rs x.a * r.rs x.b)
  | .mulhs x => some (x.h.g, x.d, fun r => BitVec.ofInt 64 ((r.rs x.a).toInt * (r.rs x.b).toInt / 2 ^ 64))
  | .mulhu x => some (x.h.g, x.d, fun r => BitVec.ofNat 64 ((r.rs x.a).toNat * (r.rs x.b).toNat / 2 ^ 64))
  | .mulhsu x => some (x.h.g, x.d, fun r => BitVec.ofInt 64 ((r.rs x.a).toInt * (r.rs x.b).toNat / 2 ^ 64))
  | .divs x => some (x.h.g, x.d, fun r => if r.rs x.b = 0 then BitVec.allOnes 64 else BitVec.ofInt 64 ((r.rs x.a).toInt.tdiv (r.rs x.b).toInt))
  | .divu x => some (x.h.g, x.d, fun r => if r.rs x.b = 0 then BitVec.allOnes 64 else r.rs x.a / r.rs x.b)
  | .rems x => some (x.h.g, x.d, fun r => if r.rs x.b = 0 then r.rs x.a else BitVec.ofInt 64 ((r.rs x.a).toInt.tmod (r.rs x.b).toInt))
  | .remu x => some (x.h.g, x.d, fun r => if r.rs x.b = 0 then r.rs x.a else r.rs x.a % r.rs x.b)
  | .absd x => some (x.h.g, x.d, fun r => BitVec.ofNat 64 ((r.rs x.a).toInt - (r.rs x.b).toInt).natAbs)
  | .clz x => some (x.h.g, x.d, fun r => BitVec.ofNat 64 (leadZeros 64 (r.rs x.a).toNat))
  | .ctz x => some (x.h.g, x.d, fun r => BitVec.ofNat 64 (trailZeros 64 (r.rs x.a).toNat))
  | .popc x => some (x.h.g, x.d, fun r => BitVec.ofNat 64 (popCount 64 (r.rs x.a).toNat))
  | .brev x => some (x.h.g, x.d, fun r => BitVec.ofNat 64 (revBits 64 (r.rs x.a).toNat))
  | .addi x => some (x.g, x.d, fun r => r.rs x.a + x.imm.signExtend 64)
  | .andi x => some (x.g, x.d, fun r => r.rs x.a &&& x.imm.signExtend 64)
  | .ori x => some (x.g, x.d, fun r => r.rs x.a ||| x.imm.signExtend 64)
  | .xori x => some (x.g, x.d, fun r => r.rs x.a ^^^ x.imm.signExtend 64)
  | .shli x | .shliLit x => some (x.g, x.d, fun r => r.rs x.a <<< x.cnt.val)
  | .shri x | .shriLit x => some (x.g, x.d, fun r => r.rs x.a >>> x.cnt.val)
  | .srai x | .sraiLit x => some (x.g, x.d, fun r => (r.rs x.a).sshiftRight x.cnt.val)
  | .lis x => some (x.g, x.d, fun _ => x.imm.signExtend 64)
  | .addiLit x => some (x.g, x.d, fun r => r.rs x.a + x.imm)
  | .andiLit x => some (x.g, x.d, fun r => r.rs x.a &&& x.imm)
  | .oriLit x => some (x.g, x.d, fun r => r.rs x.a ||| x.imm)
  | .xoriLit x => some (x.g, x.d, fun r => r.rs x.a ^^^ x.imm)
  | .lisLit x => some (x.g, x.d, fun _ => x.imm)
  | .sel x => some (x.h.g, x.d, fun r => if r.rp x.ps then r.rs x.a else r.rs x.b)
  | .pget x => some (x.h.g, x.d, fun r => (r.p ||| 1).setWidth 64)
  | _ => none

/-- The conditions of CMP, CMPI and CMPI_LIT (R129). -/
def compares (cond : Nat) (a b : Word) : Bool :=
  match cond with
  | 0 => decide (a = b)
  | 1 => decide (a ≠ b)
  | 2 => decide (a.toInt < b.toInt)
  | 3 => decide (a.toInt ≥ b.toInt)
  | 4 => decide (a.toInt ≤ b.toInt)
  | 5 => decide (a.toInt > b.toInt)
  | 6 => decide (a.toNat < b.toNat)
  | 7 => decide (a.toNat ≥ b.toNat)
  | 8 => decide (a.toNat ≤ b.toNat)
  | 9 => decide (a.toNat > b.toNat)
  | 10 => decide (a &&& b ≠ 0)
  | _ => decide (a &&& b = 0)

/-- The conditions of FCMP on the two values (R130). -/
def fcompares (cond : Nat) (a b : FVal) : Bool :=
  let unordered := a.isNan || b.isNan
  match cond with
  | 0 => !unordered && veq a b
  | 1 => unordered || !veq a b
  | 2 => !unordered && vlt a b
  | 3 => !unordered && !vlt a b
  | 4 => !unordered && !vlt b a
  | 5 => !unordered && vlt b a
  | 6 => unordered
  | _ => !unordered

/-- The compares and predicate instructions (R129 to R132): the guard, pd, pe and the condition that pd receives and pe
complemented. -/
def predRow : Instr → Option (Guard × PReg × PReg × (Regs → Bool))
  | .cmp x => some (x.h.g, x.pd, x.pe, fun r => compares x.cond.val (r.rs x.a) (r.rs x.b))
  | .cmpi x => some (x.g, x.pd, x.pe, fun r => compares x.cond.val (r.rs x.a) (x.imm.signExtend 64))
  | .cmpiLit x => some (x.g, x.pd, x.pe, fun r => compares x.cond.val (r.rs x.a) x.imm)
  | .fcmpF32 x => some (x.h.g, x.pd, x.pe, fun r => fcompares x.cond.val (FFmt.fp32.ofWord (r.rs x.a)) (FFmt.fp32.ofWord (r.rs x.b)))
  | .fcmpF16 x => some (x.h.g, x.pd, x.pe, fun r => fcompares x.cond.val (FFmt.fp16.ofWord (r.rs x.a)) (FFmt.fp16.ofWord (r.rs x.b)))
  | .fcmpBf16 x => some (x.h.g, x.pd, x.pe, fun r => fcompares x.cond.val (FFmt.bf16.ofWord (r.rs x.a)) (FFmt.bf16.ofWord (r.rs x.b)))
  | .plog x => some (x.h.g, x.pd, x.pe, fun r => x.tt.val.testBit ((if r.rp x.pa then 2 else 0) + (if r.rp x.pb then 1 else 0)))
  | _ => none

/-- The rounding instructions of a format (R133): the fields, the format, and the operation on d, a and b. -/
def roundRow : Instr → Option (FA3 × FFmt × (RMode → Nat → FVal → FVal → FVal → FVal × Flags))
  | .faddF32 x => some (x, .fp32, fun m u _ a b => fadd .fp32 m u a b)
  | .fsubF32 x => some (x, .fp32, fun m u _ a b => fsub .fp32 m u a b)
  | .fmulF32 x => some (x, .fp32, fun m u _ a b => fmul .fp32 m u a b)
  | .fmacF32 x => some (x, .fp32, fun m u d a b => ffma .fp32 m u a b d)
  | .fmscF32 x => some (x, .fp32, fun m u d a b => ffms .fp32 m u a b d)
  | .faddF16 x => some (x, .fp16, fun m u _ a b => fadd .fp16 m u a b)
  | .fsubF16 x => some (x, .fp16, fun m u _ a b => fsub .fp16 m u a b)
  | .fmulF16 x => some (x, .fp16, fun m u _ a b => fmul .fp16 m u a b)
  | .fmacF16 x => some (x, .fp16, fun m u d a b => ffma .fp16 m u a b d)
  | .fmscF16 x => some (x, .fp16, fun m u d a b => ffms .fp16 m u a b d)
  | .faddBf16 x => some (x, .bf16, fun m u _ a b => fadd .bf16 m u a b)
  | .fsubBf16 x => some (x, .bf16, fun m u _ a b => fsub .bf16 m u a b)
  | .fmulBf16 x => some (x, .bf16, fun m u _ a b => fmul .bf16 m u a b)
  | .fmacBf16 x => some (x, .bf16, fun m u d a b => ffma .bf16 m u a b d)
  | .fmscBf16 x => some (x, .bf16, fun m u d a b => ffms .bf16 m u a b d)
  | _ => none

/-- The floating-point instructions that round nothing (R134): the fields and the word that d receives from a and b. -/
def pickRow : Instr → Option (A3 × (Word → Word → Word))
  | .fminF32 x => some (x, fun a b => FFmt.fp32.toWord (fminV (FFmt.fp32.ofWord a) (FFmt.fp32.ofWord b)))
  | .fmaxF32 x => some (x, fun a b => FFmt.fp32.toWord (fmaxV (FFmt.fp32.ofWord a) (FFmt.fp32.ofWord b)))
  | .fcpsF32 x => some (x, copySign .fp32)
  | .fminF16 x => some (x, fun a b => FFmt.fp16.toWord (fminV (FFmt.fp16.ofWord a) (FFmt.fp16.ofWord b)))
  | .fmaxF16 x => some (x, fun a b => FFmt.fp16.toWord (fmaxV (FFmt.fp16.ofWord a) (FFmt.fp16.ofWord b)))
  | .fcpsF16 x => some (x, copySign .fp16)
  | .fminBf16 x => some (x, fun a b => FFmt.bf16.toWord (fminV (FFmt.bf16.ofWord a) (FFmt.bf16.ofWord b)))
  | .fmaxBf16 x => some (x, fun a b => FFmt.bf16.toWord (fmaxV (FFmt.bf16.ofWord a) (FFmt.bf16.ofWord b)))
  | .fcpsBf16 x => some (x, copySign .bf16)
  | _ => none

/-- The registers after a rounding instruction: SRCTR advances by 1 under SR, d receives the value, and the flags accrue (R125). -/
def rounded (r : Regs) (d : SReg) (rm : Nat) (f : RCtx → Word × Flags) : Regs :=
  let c := r.capture rm
  let q : Regs := if c.mode = .sr then { r with srctr := r.srctr + 1 } else r
  let w : Regs := q.ws d (f c).1
  { w with fpctl := w.fpctl ||| BitVec.ofNat 64 (f c).2.toNat }

/-- The guard of a core instruction with an encoding (04_formats.md R64). -/
def guardField (i : Instr) : Option Guard :=
  match toRaw i with
  | some r => some r.g
  | none => (xcode i).map fun p => p.2.2.h.g

/-- The element number or distance of VSLIDE, VINS and VEXTR lies within the joint vector (10_vector_matrix.md R174). -/
def withinJoint (i : Instr) (s : State) : Bool :=
  match i with
  | .vslide x => decide (x.w2.toNat ≤ 512 / tyBits x.ty.val * (s.members + 1))
  | .vins x | .vextr x => decide (x.w2.toNat < 512 / tyBits x.ty.val * (s.members + 1))
  | _ => true

/-- An instruction that no activation may issue, whatever its guard: a PUTC of a register that it may only read (04_formats.md R57,
R76), and the PRIV class (R75). -/
def forbidden (i : Instr) : Bool :=
  match i with
  | .putc x => !putOk x.idx.val false
  | .ctxsv _ | .ctxld _ | .tlbinv _ | .clrset _ | .ltmode _ | .crset _ => true
  | _ => false

/-- The three-register integer instructions of R126. -/
def threeRegs : Instr → Option A3
  | .add x | .sub x | .min x | .max x | .and x | .or x | .xor x | .andn x | .shl x | .shr x | .sra x | .rotr x | .mul x | .mulhs x
  | .mulhu x | .mulhsu x | .divs x | .divu x | .rems x | .remu x | .minu x | .maxu x | .absd x => some x
  | _ => none

/-- What TCAUSE holds of a trap (22_scheduling_faults.md R348): the code, DEFERRED in bit 15, and the queue in bits 14:12 with
bit 11 set. -/
def causeWord (c : Cause) (deferred : Bool) (q : Option Queue) : Word :=
  BitVec.ofNat 64 (c.code + (if deferred then 0x8000 else 0) + (match q with | some k => 0x800 + queueNum k * 0x1000 | none => 0))

/-- The rule that a fault of an activation of a launch meets at its own level (02_execution.md R50). -/
def ownPolicy (l : Launch) : Nat := if l.hdr.n = 0 then 4 else l.hdr.pol.getD (l.hdr.n - 1) 0

/-! ### Loads and stores -/

/-- The loads (08_scalar.md R136; 04_formats.md R63): guard, wait field, size, sign extension, destination, effective address. -/
def loadRow : Instr → Option (Guard × Nat × Nat × Bool × SReg × (Regs → Word))
  | .ldb x => some (x.g, x.wait.val, 1, true, x.d, fun r => r.rs x.a + x.off.signExtend 64)
  | .ldh x => some (x.g, x.wait.val, 2, true, x.d, fun r => r.rs x.a + x.off.signExtend 64 * 2)
  | .ldw x => some (x.g, x.wait.val, 4, true, x.d, fun r => r.rs x.a + x.off.signExtend 64 * 4)
  | .ldd x => some (x.g, x.wait.val, 8, true, x.d, fun r => r.rs x.a + x.off.signExtend 64 * 8)
  | .ldbu x => some (x.g, x.wait.val, 1, false, x.d, fun r => r.rs x.a + x.off.signExtend 64)
  | .ldhu x => some (x.g, x.wait.val, 2, false, x.d, fun r => r.rs x.a + x.off.signExtend 64 * 2)
  | .ldwu x => some (x.g, x.wait.val, 4, false, x.d, fun r => r.rs x.a + x.off.signExtend 64 * 4)
  | .ldbLit x => some (x.g, x.wait.val, 1, true, x.d, fun r => r.rs x.a + x.off)
  | .ldhLit x => some (x.g, x.wait.val, 2, true, x.d, fun r => r.rs x.a + x.off)
  | .ldwLit x => some (x.g, x.wait.val, 4, true, x.d, fun r => r.rs x.a + x.off)
  | .lddLit x => some (x.g, x.wait.val, 8, true, x.d, fun r => r.rs x.a + x.off)
  | .ldbuLit x => some (x.g, x.wait.val, 1, false, x.d, fun r => r.rs x.a + x.off)
  | .ldhuLit x => some (x.g, x.wait.val, 2, false, x.d, fun r => r.rs x.a + x.off)
  | .ldwuLit x => some (x.g, x.wait.val, 4, false, x.d, fun r => r.rs x.a + x.off)
  | _ => none

/-- The stores: guard, wait field, size, data register, effective address. -/
def storeRow : Instr → Option (Guard × Nat × Nat × SReg × (Regs → Word))
  | .stb x => some (x.g, x.wait.val, 1, x.d, fun r => r.rs x.a + x.off.signExtend 64)
  | .sth x => some (x.g, x.wait.val, 2, x.d, fun r => r.rs x.a + x.off.signExtend 64 * 2)
  | .stw x => some (x.g, x.wait.val, 4, x.d, fun r => r.rs x.a + x.off.signExtend 64 * 4)
  | .std x => some (x.g, x.wait.val, 8, x.d, fun r => r.rs x.a + x.off.signExtend 64 * 8)
  | .stbLit x => some (x.g, x.wait.val, 1, x.d, fun r => r.rs x.a + x.off)
  | .sthLit x => some (x.g, x.wait.val, 2, x.d, fun r => r.rs x.a + x.off)
  | .stwLit x => some (x.g, x.wait.val, 4, x.d, fun r => r.rs x.a + x.off)
  | .stdLit x => some (x.g, x.wait.val, 8, x.d, fun r => r.rs x.a + x.off)
  | _ => none

/-- The posted access that a store to the address raw makes; addr is the same address with the own package's number as 0xFF. -/
def postedStore (s : State) (near : Bool) (raw addr : Word) (pa size : Nat) (w : Word) : Posted :=
  { id := s.core.postId, near := near, n := 1, addr := addr, pa := pa, kind := .store ((List.range size).map fun j => byteOf w j)
    stage := .inFlight, q := none, ser := s.core.serial, raw := raw, said := s.core.regs.aid, mgmt := s.core.mgmt }

/-- A state with other activation counts of its memory rows. -/
def State.counting (s : State) (acts : List (Nat × Nat)) : State := { s with pkg := { s.pkg with acts := acts } }

/-- A state with one more posted access. -/
def State.plusPost (s : State) (p : Posted) : State :=
  s.mapCore fun c => { c with posted := c.posted ++ [p], postId := c.postId + 1 }

/-! ### Control -/

/-- The branches (08_scalar.md R141; 04_formats.md R63): guard, target, and the registers with the link written. -/
def branchRow : Instr → Option (Guard × (Regs → Word) × (Regs → Regs))
  | .br x => some (x.g, fun r => r.pc + x.off.signExtend 64 * 4, fun r => r)
  | .brl x => some (x.g, fun r => r.pc + x.off.signExtend 64 * 4, fun r => r.ws 31 (r.pc + 4))
  | .brLit x => some (x.g, fun _ => x.target, fun r => r)
  | .brlLit x => some (x.g, fun _ => x.target, fun r => r.ws 31 (r.pc + 12))
  | .jr x => some (x.h.g, fun r => r.rs x.a, fun r => r.ws x.d (r.pc + 4))
  | _ => none

/-- The block of carried code that the activation runs, if it runs any (18_messages.md R289). -/
def Core.block (c : Core) : Option Range := c.act.bind fun a => a.carried

/-- The task record that FORK and YIELD make (02_execution.md R42): it is held until the accesses and the commands of the core that
stand now are performed. -/
def newRecord (s : State) (a : Activation) (pc join : Word) : TaskRec :=
  { slot := a.slot, cls := a.cls, pc := pc.setWidth 48, wid := s.core.regs.wid, join := join
    args := #v[s.core.regs.rs 1, s.core.regs.rs 2, s.core.regs.rs 3, s.core.regs.rs 4, s.core.regs.rs 5]
    hold := s.core.posted.map (fun p => p.id), bound := s.core.serial, by_ := s.core.pkgIx, gang := 1 }

/-- The core's own deque, or the overflow ring, has room for a record (R44). -/
def State.recRoom (s : State) : Prop := s.grove.deques[s.core.ix].length < 256 ∨ s.grove.overflow.length < s.grove.overflowCap

/-- A record at the bottom of the core's own deque or, where that is full, at the end of the overflow ring. -/
def State.pushedRec (s : State) (r : TaskRec) : State :=
  if s.grove.deques[s.core.ix].length < 256 then
    { s with grove := { s.grove with deques := s.grove.deques.set s.core.ix (s.grove.deques[s.core.ix] ++ [.task r]) } }
  else { s with grove := { s.grove with overflow := s.grove.overflow ++ [.task r] } }

/-- The posted atomic add that FORK makes to its join word (R42), at the address raw. -/
def forkAdd (s : State) (near : Bool) (raw addr : Word) (pa : Nat) : Posted :=
  { id := s.core.postId, near := near, n := 1, addr := addr, pa := pa
    kind := .atomic { op := 0, ty := 6, rm := 0, u := 0, b := 1, c := 0 } 8, stage := .inFlight, q := none, ser := s.core.serial
    raw := raw, said := s.core.regs.aid, mgmt := s.core.mgmt }

/-- An admitted join word (R42). -/
def joinWordOk (j : Word) : Prop := (bitsOf j.toNat 60 4 = 1 ∨ bitsOf j.toNat 60 4 = 4) ∧ j.toNat % 8 = 0

/-! ### Commands -/

/-- A request that joins its queue (01_device.md R9): the command with what it captured, the next serial number, and under SR the
lanes taken from SRCTR (06_numbers.md R111). -/
def State.taken (u : Req) (s : State) : State :=
  s.mapCore fun c =>
    { c with
      cmds := c.cmds ++ [u.cmd s]
      serial := c.serial + 1
      mIssued := if u.q = .m then c.mIssued + 1 else c.mIssued
      regs := if (u.cmd s).rc.mode = .sr then { c.regs with srctr := c.regs.srctr + BitVec.ofNat 64 (u.lanes * (if u.q = .v then s.gangSize else 1)) } else c.regs }

/-- An instruction issues one command and goes on. -/
def Enqueues (i : Instr) (s : State) (u : Req) : Prop := ∃ t, exec i s = .next t ∧ After i.bytes (s.taken u) t

/-- A gated command finds its gate: a sync word of the local range at the low half of sc (12_memory.md R218). -/
def gateFound (x : XOp) (s : State) : Prop :=
  x.x = true → (s.core.regs.rs x.c).toNat % 2 ^ 32 % 16 = 0 ∧ (s.core.regs.rs x.c).toNat % 2 ^ 32 + 16 ≤ s.core.span.2

/-- A scan's record of R263; with no elements it declares nothing (04_formats.md R78). -/
def scanLegal (r : LRec) : Prop := r.ty = 8 ∧ r.flagI = false ∧ r.flagS = false ∧ r.rsv = 0 ∧ 1 ≤ r.e0 ∧ r.e0 ≤ 16

/-- One instruction of each queue: its fields, the queue, and what it asks of its operands before the queue is looked at. -/
def queueRow (s : State) : Instr → Option (XOp × Queue × Prop)
  | .vadd x => some (x, .v, True)
  | .mclr x => some (x, .m, True)
  | .scan x =>
    let r := s.core.regs.lrec x.l.val
    let o := s.core.slots[(Fin.ofNat 8 (x.w2f 0 3) : Fin 8)]
    let d : LRec := { r with base := r.aux0, e2 := o.outs.length }
    some (x, .s, scanLegal r ∧ o.ok = true ∧ r.e2 = o.nin ∧ (r.empty = true ∨ scanOverlap r d = false ∧ ∃ p, scanRanges x r d s = .ok p))
  | .adest x => some (x, .e, ∃ pk aid off, placeOf s (s.core.regs.rs x.a) = some (.actor pk aid off))
  | .gath x =>
    let r := s.core.regs.lrec x.l.val
    some (x, .g, r.ty = x.ty.val ∧ r.rsv = 0 ∧ (r.flagI = false → r.e2 ≤ 1) ∧ ¬(r.ty = 7 ∧ r.e0 % 2 = 1) ∧ gateFound x s ∧ r.empty = true)
  | .ltick x => some (x, .l, True)
  | .tld x => some (x, .q, ∃ g, localSpan s (s.core.regs.rs x.a) (if (x.w2f 0 11).testBit 10 then 8192 else 512) 64 = .ok g)
  | .nmwait x => some (x, .n, True)
  | _ => none

/-- A state without a command. -/
def State.without (k : Cmd) (s : State) : State := s.mapCore fun c => { c with cmds := c.cmds.filter fun e => e.serial != k.serial }

/-- The commit of a command of a queue, its effect a relation of the states before and after, its place in the queue free. -/
def CommitsAs (q : Queue) (k : Cmd) (s : State) (rel : State → State → Prop) : Prop :=
  ∃ t u, exec (.commandCommit q) s = .next t ∧ rel s u ∧ AfterStay (u.without k) t

/-- An instruction of the V engine: at issue it places one command with its lanes and its scalar destination, and a command of that
class and subop commits with the effect given, in a lone core and in a member of a gang. -/
def VCommand (i : Instr) (x : XOp) (lanes : Nat) (dst : List SReg) (rel : Cmd → State → State → Prop) : Prop :=
  ∃ cls sub : Nat,
    (∀ s : State, i.wf = true → withinJoint i s = true → Ready x.h.g x.wait.val i.bytes s → (s.core.queue .v).length < 16 →
      Enqueues i s { q := .v, cls := cls, sub := sub, x := x, lanes := lanes, dst := dst })
    ∧ ∀ (s : State) (k : Cmd), i.wf = true → s.ready .v = some k → k.cls = cls → k.sub = sub → k.x = x → CommitsAs .v k s (rel k)

/-- The registers changed and the effects of a commit merged. -/
def State.merged (s : State) (f : Regs → Regs) (e : Effect) : State := (s.mapRegs f).mapCore fun c => c.merge e

/-- The active elements of w bits of vd become f, the others stand, and the flags of the active ones accrue
(04_formats.md R55). -/
def ElemsBecome (w : Nat) (f : Nat → Nat × Flags) (k : Cmd) (s u : State) : Prop :=
  ∃ v : VWord,
    (∀ j < 512 / w, bitsOf v.toNat (j * w) w
      = if activeAt (s.core.regs.rm k.x.mask) w j then (f j).1 % 2 ^ w else s.core.regs.elem k.x.d w j)
    ∧ u = s.merged (fun r => r.wv k.x.d v)
        { flags := flagsOf (((List.range (512 / w)).filter fun j => activeAt (s.core.regs.rm k.x.mask) w j).map fun j => (f j).2) }

/-- Elements of one type of va, vb and vc. -/
def elemsOf (k : Cmd) (s : State) (j : Nat) : Nat × Nat × Nat :=
  let w := tyBits k.x.ty.val
  (s.core.regs.elem k.x.a w j, s.core.regs.elem k.x.b w j, s.core.regs.elem k.x.c w j)

/-- VARITH (10_vector_matrix.md R160 to R162): fields, the float operation, the integer operation (w is the width). -/
def varithRow : Instr → Option (XOp × Option (FFmt → RMode → Nat → Int → FVal → FVal → FVal → FVal × Flags)
    × Option (Nat → Int → Int → Int → Int))
  | .vadd x => some (x, some fun f m u _ a b _ => fadd f m u a b, some fun _ a b _ => a + b)
  | .vsub x => some (x, some fun f m u _ a b _ => fsub f m u a b, some fun _ a b _ => a - b)
  | .vmul x => some (x, some fun f m u _ a b _ => fmul f m u a b, some fun _ a b _ => a * b)
  | .vfma x => some (x, some fun f m u _ a b c => ffma f m u a b c, some fun _ a b c => a * b + c)
  | .vfms x => some (x, some fun f m u _ a b c => ffms f m u a b c, some fun _ a b c => c - a * b)
  | .vmin x => some (x, some fun _ _ _ _ a b _ => (fminV a b, noFlags), some fun _ a b _ => min a b)
  | .vmax x => some (x, some fun _ _ _ _ a b _ => (fmaxV a b, noFlags), some fun _ a b _ => max a b)
  | .vabs x => some (x, some fun _ _ _ _ a _ _ => (a.absv, noFlags), some fun _ a _ _ => a.natAbs)
  | .vneg x => some (x, some fun _ _ _ _ a _ _ => (a.negate, noFlags), some fun _ a _ _ => -a)
  | .vabsd x => some (x, some fun f m u _ a b _ => finish f m u ((addV m a b.negate).1.absv, (addV m a b.negate).2),
      some fun _ a b _ => (a - b).natAbs)
  | .vmulh x => some (x, none, some fun w a b _ => a * b / 2 ^ w)
  | .vdiv x => some (x, some fun f m u _ a b _ => fdiv f m u a b, none)
  | .vsqrt x => some (x, some fun f m u _ a _ _ => fsqrt f m u a, none)
  | .vscl x => some (x, some fun f m u n a _ _ => roundF f m u (a.scale n), none)
  | _ => none

/-- What a VARITH command makes of vd: a float type rounds the operation on the elements with the draw of its lane, an integer type
writes the exact result, or under sat the nearer bound. -/
def varithRel (fo : Option (FFmt → RMode → Nat → Int → FVal → FVal → FVal → FVal × Flags)) (io : Option (Nat → Int → Int → Int → Int))
    (k : Cmd) (s u : State) : Prop :=
  let w := tyBits k.x.ty.val
  (∀ f op, fmtOf k.x.ty.val = some f → fo = some op →
    ElemsBecome w (fun j =>
      let e := elemsOf k s j
      let v := op f k.rc.mode (k.rc.draw (k.ix * (512 / w) + j)) (k.x.w2.setWidth 16).toInt (f.unpack e.1) (f.unpack e.2.1) (f.unpack e.2.2)
      (f.pack v.1, v.2)) k s u)
  ∧ ∀ op, fmtOf k.x.ty.val = none → io = some op →
      ElemsBecome w (fun j =>
        let e := elemsOf k s j
        let rd (b : Nat) : Int := readInt (tySigned k.x.ty.val) w b
        intToInt (tySigned k.x.ty.val) w k.x.sat (op w (rd e.1) (rd e.2.1) (rd e.2.2))) k s u

/-- VLOGIC (R163): fields and the operation on elements of w bits. -/
def vlogicRow : Instr → Option (XOp × ((w : Nat) → BitVec w → BitVec w → Nat → BitVec w))
  | .vand x => some (x, fun _ a b _ => a &&& b)
  | .vor x => some (x, fun _ a b _ => a ||| b)
  | .vxor x => some (x, fun _ a b _ => a ^^^ b)
  | .vandn x => some (x, fun _ a b _ => a &&& ~~~b)
  | .vnot x => some (x, fun _ a _ _ => ~~~a)
  | .vshl x => some (x, fun w a _ n => a <<< (n % w))
  | .vshr x => some (x, fun w a _ n => a >>> (n % w))
  | .vsra x => some (x, fun w a _ n => a.sshiftRight (n % w))
  | .vrotr x => some (x, fun w a _ n => a.rotateRight (n % w))
  | .vpopc x => some (x, fun w a _ _ => BitVec.ofNat w (popCount w a.toNat))
  | .vclz x => some (x, fun w a _ _ => BitVec.ofNat w (leadZeros w a.toNat))
  | _ => none

/-- What a VLOGIC command makes of vd; a shift counts by vb's element, or with X = 1 by word 2 [5:0]. -/
def vlogicRel (op : (w : Nat) → BitVec w → BitVec w → Nat → BitVec w) (k : Cmd) (s u : State) : Prop :=
  let w := tyBits k.x.ty.val
  ElemsBecome w (fun j =>
    let e := elemsOf k s j
    let n := if k.x.x then (k.x.w2.setWidth 6).toNat else e.2.1
    ((op w (BitVec.ofNat w e.1) (BitVec.ofNat w e.2.1) n).toNat, noFlags)) k s u

/-- The compares of VCMP (R164): fields, float condition, integer condition. -/
def vcompareRow : Instr → Option (XOp × (FVal → FVal → Bool) × Option (Int → Int → Bool))
  | .vceq x => some (x, fcompares 0, some fun a b => decide (a = b))
  | .vcne x => some (x, fcompares 1, some fun a b => decide (a ≠ b))
  | .vclt x => some (x, fcompares 2, some fun a b => decide (a < b))
  | .vcle x => some (x, fcompares 4, some fun a b => decide (a ≤ b))
  | .vcgt x => some (x, fcompares 5, some fun a b => decide (b < a))
  | .vcge x => some (x, fcompares 3, some fun a b => decide (b ≤ a))
  | .vcun x => some (x, fcompares 6, none)
  | _ => none

/-- Mask md receives a condition on every active element of w bits: all the element's bits set or clear; the others stand. -/
def MaskBecomes (w : Nat) (f : Nat → Bool) (k : Cmd) (s u : State) : Prop :=
  ∃ m : Word,
    (∀ b < 64, m.getLsbD b
      = if activeAt (s.core.regs.rm k.x.mask) w (b / (w / 8)) then f (b / (w / 8)) else (s.core.regs.rm (maskReg k.x.d)).getLsbD b)
    ∧ u = s.mapRegs fun r => r.wm (maskReg k.x.d) m

/-- What a compare makes of md. -/
def vcompareRel (fo : FVal → FVal → Bool) (io : Option (Int → Int → Bool)) (k : Cmd) (s u : State) : Prop :=
  let w := tyBits k.x.ty.val
  let e := elemsOf k s
  8 ≤ w →
    (∀ f, fmtOf k.x.ty.val = some f → MaskBecomes w (fun j => fo (f.unpack (e j).1) (f.unpack (e j).2.1)) k s u)
    ∧ ∀ op, fmtOf k.x.ty.val = none → io = some op →
        MaskBecomes w (fun j => op (readInt (tySigned k.x.ty.val) w (e j).1) (readInt (tySigned k.x.ty.val) w (e j).2.1)) k s u

/-- The mask instructions (R167): fields, scalar destination, and the registers they leave. -/
def vmaskRow : Instr → Option (XOp × List SReg × (Cmd → Regs → Regs))
  | .vmand x => some (x, [], fun k r => r.wm (maskReg k.x.d) (r.rm (maskReg k.x.a) &&& r.rm (maskReg k.x.b)))
  | .vmor x => some (x, [], fun k r => r.wm (maskReg k.x.d) (r.rm (maskReg k.x.a) ||| r.rm (maskReg k.x.b)))
  | .vmxor x => some (x, [], fun k r => r.wm (maskReg k.x.d) (r.rm (maskReg k.x.a) ^^^ r.rm (maskReg k.x.b)))
  | .vmnot x => some (x, [], fun k r => r.wm (maskReg k.x.d) (~~~(r.rm (maskReg k.x.a))))
  | .vmtos x => some (x, [x.d], fun k r => r.ws k.x.d (r.rm (maskReg k.x.a)))
  | .vstom x => some (x, [], fun k r => r.wm (maskReg k.x.d) k.sa)
  | _ => none

/-! ### Conversions, permutations, reductions, vector memory -/

/-- Register v receives elements of w bits. -/
def IsElems (v : VWord) (w : Nat) (f : Nat → Nat) : Prop := ∀ j < 512 / w, bitsOf v.toNat (j * w) w = f j % 2 ^ w

/-- What VCVT makes of vd (10_vector_matrix.md R168): N elements of a part of va, converted, in a part of vd. -/
def vcvtRel (k : Cmd) (s u : State) : Prop :=
  let r := s.core.regs
  let sb := tyBits (k.x.w2f 0 4)
  let db := tyBits k.x.ty.val
  let n := 512 / max sb db
  let q := k.x.w2f 8 4 * n
  let c (i : Nat) : Nat × Flags :=
    cvtElem (k.x.w2f 0 4) k.x.ty.val k.rc.mode (k.rc.draw (k.ix * n + i)) k.x.sat (r.elem k.x.a sb (k.x.w2f 4 4 * n + i))
  let act := (List.range n).filter fun i => activeAt (r.rm k.x.mask) db (q + i)
  ∃ v : VWord,
    IsElems v db (fun j => if q ≤ j ∧ j < q + n ∧ activeAt (r.rm k.x.mask) db j then (c (j - q)).1 else r.elem k.x.d db j)
    ∧ u = s.merged (fun r => r.wv k.x.d v)
        { flags := flagsOf (act.map fun i => (c i).2), hist := k.x.hist
          seen := if k.x.x then act.map fun i => seenOf k.x.ty.val (c i).1 else [] }

/-- Element i of the 32 that VALIGN and VPKE2 read (R170). -/
def blockElem (k : Cmd) (s : State) (i : Nat) : FVal :=
  let f := (fmtOf (k.x.w2f 0 4)).getD .fp32
  if k.x.w2f 0 4 = 8 then f.unpack (if i < 16 then s.core.regs.elem k.x.a 32 i else s.core.regs.elem (k.x.a + 1) 32 (i - 16))
  else f.unpack (s.core.regs.elem k.x.a 16 i)

/-- The block exponent of R170: the largest floor(log2 |x|) less w − 2, no less than the bound of sb when B is set. -/
def blockEb (k : Cmd) (s : State) : Int :=
  let w : Int := awBits k.x.aw.val
  let bound : Option Int := if k.x.w2f 4 1 = 1 then some (k.sb.setWidth 16).toInt else none
  match blockExp ((List.range 32).map (blockElem k s)), bound with
  | none, none => 0
  | none, some b => b
  | some e, none => e - (w - 2)
  | some e, some b => max (e - (w - 2)) b

/-- The fields of an aligned block image (R169): mantissas of a box of bits each, then from byte o up the exponent and the three
bit maps, every other bit zero. -/
def IsImage (im box o : Nat) (eb : Int) (m : Nat → Int) (x : Nat → FVal) : Prop :=
  (∀ i < 32, bitsOf im (i * box) box = lowBits box (m i)
      ∧ bitAt im (8 * (o + 4) + i) = (x i).isNan ∧ bitAt im (8 * (o + 8) + i) = (x i).isInf
      ∧ bitAt im (8 * (o + 12) + i) = ((x i).isInf && (x i).neg))
    ∧ bitsOf im (8 * o) 16 = lowBits 16 eb ∧ bitsOf im (8 * o + 16) 16 = 0 ∧ bitsOf im (32 * box) (8 * o - 32 * box) = 0
    ∧ im < 2 ^ (8 * (o + 16))

/-- What VALIGN makes of vd, or of vd and v(d + 1) when w ≥ 12. -/
def valignRel (k : Cmd) (s u : State) : Prop :=
  let aw := k.x.aw.val
  let eb := blockEb k s
  let m (i : Nat) : Int × Flags := alignMant (awBits aw) eb k.rc.mode (k.rc.draw (k.ix * 32 + i)) (blockElem k s i)
  ∃ im : Nat,
    IsImage im (if aw = 0 then 4 else if aw = 1 then 8 else 16) (if aw < 2 then 48 else 64) eb (fun i => (m i).1) (blockElem k s)
    ∧ u = s.merged
        (fun r => if aw < 2 then r.wv k.x.d (BitVec.ofNat 512 im)
          else (r.wv k.x.d (BitVec.ofNat 512 im)).wv (k.x.d + 1) (BitVec.ofNat 512 (im / 2 ^ 512)))
        { flags := flagsOf ((List.range 32).map fun i => (m i).2) }

/-- What VPKE2 makes of vd (R171): 32 codes, the scale byte, the count, and the entries of the chosen outliers in ascending
position; the rest is zero. -/
def vpke2Rel (k : Cmd) (s u : State) : Prop :=
  let xs := (List.range 32).map (blockElem k s)
  let ch := (List.range 32).filter fun i => (outliers xs 4 []).contains i
  let draw (i : Nat) : Nat := k.rc.draw (k.ix * 32 + i)
  let code (i : Nat) : Nat × Flags :=
    if ch.contains i then (8, noFlags)
    else (FFmt.e2m1.pack (cvtToF .e2m1 k.rc.mode (draw i) true (blockElem k s i)).1, (cvtToF .e2m1 k.rc.mode (draw i) true (blockElem k s i)).2)
  let ent (j : Nat) : Int × Flags := outlierK k.rc.mode (draw (ch.getD j 0)) (blockElem k s (ch.getD j 0))
  ∃ v : VWord,
    (∀ i < 32, bitsOf v.toNat (4 * i) 4 = (code i).1 % 16)
    ∧ bitsOf v.toNat 128 8 = (k.sb.setWidth 8).toNat ∧ bitsOf v.toNat 136 8 = ch.length
    ∧ (∀ j < 4, bitsOf v.toNat (144 + 16 * j) 8 = (if j < ch.length then ch.getD j 0 else 0)
        ∧ bitsOf v.toNat (152 + 16 * j) 8 = (if j < ch.length then lowBits 8 (ent j).1 else 0))
    ∧ v.toNat < 2 ^ 208
    ∧ u = s.merged (fun r => r.wv k.x.d v)
        { flags := flagsOf (((List.range 32).map fun i => (code i).2) ++ (List.range ch.length).map fun j => (ent j).2) }

/-- What VUNPE2 makes of vd, and of v(d + 1) for FP32 (R172). -/
def vunpe2Rel (k : Cmd) (s u : State) : Prop :=
  let f := (fmtOf k.x.ty.val).getD .fp32
  let b := e2Block ((s.core.regs.rv k.x.a).toNat % 2 ^ 256)
  ∃ v w : VWord,
    (k.x.ty = 8 → IsElems v 32 (fun j => f.pack (b.1.getD j .pzero)) ∧ IsElems w 32 fun j => f.pack (b.1.getD (16 + j) .pzero))
    ∧ (k.x.ty ≠ 8 → IsElems v 16 fun j => f.pack (b.1.getD j .pzero))
    ∧ u = s.merged (fun r => if k.x.ty = 8 then (r.wv k.x.d v).wv (k.x.d + 1) w else r.wv k.x.d v) { flags := { nv := b.2 } }

/-- What VHIST makes of vd to v(d + 3) (R173). -/
def vhistRel (k : Cmd) (s u : State) : Prop :=
  let ctx : Fin 16 := Fin.ofNat 16 (k.x.w2f 0 4)
  ∃ v : Nat → VWord,
    (∀ q < 4, IsElems (v q) 32 fun j => ((s.core.stats.bins[ctx]).toArray.getD (16 * q + j) 0).toNat)
    ∧ u = ((s.mapRegs fun r => (((r.wv k.x.d (v 0)).wv (k.x.d + 1) (v 1)).wv (k.x.d + 2) (v 2)).wv (k.x.d + 3) (v 3)).mapCore fun c =>
        { c with stats := if k.x.w2f 4 1 = 1 then
            { c.stats with bins := c.stats.bins.set ctx (Vector.replicate 64 0), maxmag := c.stats.maxmag.set ctx 0
                           nanseen := c.stats.nanseen &&& ~~~(1#16 <<< ctx.val) }
          else c.stats })

/-- The commit of a joint command of a gang (R155, R157): once every member that issued it can start it, it is performed in them all,
rel giving a member's registers from its own command, the members in order, its place and its registers before. -/
def JointlyCommits (k : Cmd) (s : State) (rel : Cmd → List Core → Nat → Regs → Regs → Prop) : Prop :=
  let cs := jointCores k s
  ∃ t, exec (.commandCommit .v) s = .next t
    ∧ rel k cs (memberIx cs s.core) s.core.regs t.core.regs
    ∧ ∀ (i : Nat) (d : Core) (j : Cmd), s.peers[i]? = some d → k.inGang s.core d → d.jointCmd k = some j →
        ∃ e, t.peers[i]? = some e ∧ rel j cs (memberIx cs d) d.regs e.regs

/-- An instruction of the V engine on the joint vector: as VCommand in a lone core, and jointly in a gang. -/
def VJoint (i : Instr) (x : XOp) (lanes : Nat) (dst : List SReg) (rel : Cmd → State → State → Prop)
    (joint : Cmd → List Core → Nat → Regs → Regs → Prop) : Prop :=
  ∃ cls sub : Nat,
    (∀ s : State, i.wf = true → withinJoint i s = true → Ready x.h.g x.wait.val i.bytes s → (s.core.queue .v).length < 16 →
      Enqueues i s { q := .v, cls := cls, sub := sub, x := x, lanes := lanes, dst := dst })
    ∧ (∀ (s : State) (k : Cmd), i.wf = true → s.ready .v = some k → k.cls = cls → k.sub = sub → k.x = x → k.g ≤ 1 →
        CommitsAs .v k s (rel k))
    ∧ ∀ (s : State) (k : Cmd), i.wf = true → s.ready .v = some k → k.cls = cls → k.sub = sub → k.x = x → 2 ≤ k.g → k.g ≤ 8 →
        (∀ c ∈ jointCores k s, c.jointReady k = true) → JointlyCommits k s joint

/-- The elements of a joint vector of g members. -/
def jointSize (k : Cmd) : Nat := 512 / tyBits k.x.ty.val * k.g

/-- Register vd of member m becomes its part of a joint vector: its element j is joint element m × (512 / w) + j. -/
def PartBecomes (k : Cmd) (m : Nat) (r q : Regs) (f : Nat → Nat → Nat) : Prop :=
  ∃ v : VWord, IsElems v (tyBits k.x.ty.val) (fun j => f (m * (512 / tyBits k.x.ty.val) + j) j) ∧ q = r.wv k.x.d v

/-- The elementwise permutations (R174): fields, and element i for E elements a and b and word 2. -/
def vpermRow : Instr → Option (XOp × (Nat → (Nat → Nat) → (Nat → Nat) → Nat → Nat → Nat))
  | .vshuf x => some (x, fun e a b _ i => a (b i % e))
  | .vrot x => some (x, fun e a _ n i => a ((i + n) % e))
  | .vslide x => some (x, fun e a b n i => if i + n < e then a (i + n) else b (i + n - e))
  | .vzip x => some (x, fun e a b n i =>
      if i % 2 = 0 then a (n % 2 * (e / 2) + i / 2) else b (n % 2 * (e / 2) + (i - 1) / 2))
  | .vunzip x => some (x, fun e a b n i => if 2 * i + n % 2 < e then a (2 * i + n % 2) else b (2 * i + n % 2 - e))
  | _ => none

/-- What a permutation makes of vd in a lone core. -/
def vpermRel (f : Nat → (Nat → Nat) → (Nat → Nat) → Nat → Nat → Nat) (k : Cmd) (s u : State) : Prop :=
  let w := tyBits k.x.ty.val
  ElemsBecome w (fun i => (f (512 / w) (fun j => (elemsOf k s j).1) (fun j => (elemsOf k s j).2.1) k.x.w2.toNat i, noFlags)) k s u

/-- What a permutation makes of a member's vd: its active elements become those of the joint vector. -/
def vpermJoint (f : Nat → (Nat → Nat) → (Nat → Nat) → Nat → Nat → Nat) (k : Cmd) (cs : List Core) (m : Nat) (r q : Regs) : Prop :=
  let w := tyBits k.x.ty.val
  PartBecomes k m r q fun p j =>
    if activeAt (r.rm k.x.mask) w j then f (jointSize k) (jointElem cs k.x.a w) (jointElem cs k.x.b w) k.x.w2.toNat p else r.elem k.x.d w j

/-- The word that VEXTR makes of an element's bits: an integer of a signed type with its sign, every other with zeros. -/
def extractedWord (ty b : Nat) : Word :=
  if (fmtOf ty).isNone ∧ tySigned ty then (BitVec.ofNat (tyBits ty) b).signExtend 64 else BitVec.ofNat 64 b

/-- The numbers of the active elements in ascending order. -/
def activeList (k : Cmd) (s : State) : List Nat :=
  (List.range (512 / tyBits k.x.ty.val)).filter fun j => activeAt (s.core.regs.rm k.x.mask) (tyBits k.x.ty.val) j

/-- The integer reductions (R175): fields, lanes for each element, and the result from the active leaves. -/
def vredRow : Instr → Option (XOp × Nat × (Bool → Nat → List (Int × Int) → Nat × Flags))
  | .vrsum x => some (x, 1, fun sat _ l => intToInt true 64 sat (l.map fun p => p.1).sum)
  | .vrmin x => some (x, 0, fun _ w l => (lowBits w ((l.map fun p => p.1).min?.getD 0), noFlags))
  | .vrmax x => some (x, 0, fun _ w l => (lowBits w ((l.map fun p => p.1).max?.getD 0), noFlags))
  | .vrdot x => some (x, 2, fun sat _ l => intToInt true 64 sat (l.map fun p => p.1 * p.2).sum)
  | _ => none

/-- What a reduction makes of vd in a lone core: the result in its low bytes and zero above. -/
def vredRel (f : Bool → Nat → List (Int × Int) → Nat × Flags) (k : Cmd) (s u : State) : Prop :=
  let w := tyBits k.x.ty.val
  let rd (b : Nat) : Int := readInt (tySigned k.x.ty.val) w b
  (fmtOf k.x.ty.val = none →
    let v := f k.x.sat w ((activeList k s).map fun j => (rd (elemsOf k s j).1, rd (elemsOf k s j).2.1))
    u = s.merged (fun r => r.wv k.x.d (BitVec.ofNat 512 v.1)) { flags := v.2 })
  ∧ ((fmtOf k.x.ty.val).isSome →
      u = s.merged (fun r => r.wv k.x.d (BitVec.ofNat 512 (redValue [s.core] k).1)) { flags := (redValue [s.core] k).2 })

/-- What a reduction over the joint vector makes of each member's vd. -/
def vredJoint (f : Bool → Nat → List (Int × Int) → Nat × Flags) (k : Cmd) (cs : List Core) (_m : Nat) (r q : Regs) : Prop :=
  let w := tyBits k.x.ty.val
  let rd (b : Nat) : Int := readInt (tySigned k.x.ty.val) w b
  let leaves := (jointOnes cs k.x.mask w (jointSize k)).map fun p => (rd (jointElem cs k.x.a w p), rd (jointElem cs k.x.b w p))
  let v := if (fmtOf k.x.ty.val).isNone then f k.x.sat w leaves else redValue cs k
  let r' := r.wv k.x.d (BitVec.ofNat 512 v.1)
  q = { r' with fpctl := r'.fpctl ||| BitVec.ofNat 64 v.2.toNat }

/-- The vector loads and stores of R176: fields, whether it stores, the bytes declared. -/
def vrowRow : Instr → Option (XOp × Bool × Nat)
  | .vldr x => some (x, false, 64)
  | .vstr x => some (x, true, 64)
  | .vldbc x => some (x, false, max 1 (tyBits x.ty.val / 8))
  | _ => none

/-- The tile instructions of R177. -/
def tileRow : Instr → Option (XOp × Bool)
  | .vld x => some (x, false)
  | .vst x => some (x, true)
  | _ => none

/-- The scratchpad offset of row i of a command's tile. -/
def tileRowAt (k : Cmd) (r : LRec) (i : Nat) : Nat := k.base + ((r.base.toNat : Int) + i * r.st1).toNat

/-- Byte q lies in row i of a command's tile. -/
def inRow (k : Cmd) (r : LRec) (i q : Nat) : Prop :=
  tileRowAt k r i ≤ q ∧ q < tileRowAt k r i + (r.e0 * tyBits k.x.ty.val + 7) / 8

/-! ### The matrix macro -/

/-- A MATRIX record of the instruction's type with extents in range (10_vector_matrix.md R180, R181, R183, R189). -/
def matrixLegal (x : XOp) (r : LRec) (lo hi : Nat) : Prop :=
  r.ty = x.ty.val ∧ r.flagI = false ∧ r.flagS = false ∧ r.rsv = 0 ∧ r.e0 ≤ 128 ∧ lo ≤ r.e1 ∧ r.e1 ≤ hi ∧ r.e2 = 1
    ∧ (x.ty = 15 ∨ x.ty = 13 → r.e0 % 32 = 0)

/-- The running activation may use the macro's planes (R179). -/
def mayUse (c : Core) : Prop := c.mac.owner = none ∨ c.mac.owner = some c.regs.aid ∨ c.mac.shared = true

/-- The plane that an instruction names in word 2 [0]. -/
def planeIx (x : XOp) : Fin 2 := if x.w2.getLsbD 0 then 1 else 0

/-- The clearing units of a pass over m rows (R186): one row on a plane of TS8 costs 8, else its width times 1 or 2. -/
def passUnits (p : Plane) (x : XOp) (m : Nat) : Nat :=
  let a := if x.ty = 15 then 4 + 4 * x.aw.val else tyBits x.ty.val
  if p.issuedTy = 14 then m * 8 else m * a * (if p.issuedTy = 2 ∨ (p.issuedTy = 15 ∧ 2 ≤ p.issuedAw) then 2 else 1)

/-- The cells of row or column i of a MATRIX command's record. -/
def srcOf (k : Cmd) (r : LRec) (s : State) (i : Nat) : SrcRow := readSrc s.core k.x.ty.val k.x.aw.val r.e0 (tileRowAt k r i)

/-- A row of plain values of one exponent. -/
def SrcRow.plain (r : SrcRow) : Prop := r.differs = false ∧ ∀ c ∈ r.cells, c.2 = .none

/-- The exact sum of row i against column n of the command's plane. -/
def passSum (k : Cmd) (r : LRec) (s : State) (i n : Nat) : Int :=
  ((List.range 128).map fun j =>
    ((srcOf k r s i).cells.getD j (0, .none)).1 * ((((s.core.mac.planes[planeIx k.x]).col n).cells.getD j { v := 0, mark := .none }).v).toInt).sum

/-- A command of the matrix queue that its macro performs, in a lone core that nothing watches. -/
def MatrixHead (k : Cmd) (r : LRec) (s : State) : Prop :=
  s.ready .m = some k ∧ k.cls = 8 ∧ k.g ≤ 1 ∧ k.lrec = some r ∧ s.core.calm ∧ s.core.mac.resFail = []

/-! ### Atomics, sync words, barriers -/

/-- What an atomic writes for what it finds (12_memory.md R215): m the old value, b and c the operands, in w bits. -/
abbrev AtomFn : Type := (w : Nat) → BitVec w → BitVec w → BitVec w → BitVec w

/-- The integer operations in the order of their subops. -/
def atomFn : Nat → AtomFn
  | 0 => fun _ m b _ => m + b
  | 1 => fun _ m b _ => m &&& b
  | 2 => fun _ m b _ => m ||| b
  | 3 => fun _ m b _ => m ^^^ b
  | 4 => fun _ m b _ => if m.toInt ≤ b.toInt then m else b
  | 5 => fun _ m b _ => if m.toInt ≤ b.toInt then b else m
  | 6 => fun _ m b _ => if m.toNat ≤ b.toNat then m else b
  | 7 => fun _ m b _ => if m.toNat ≤ b.toNat then b else m
  | 8 => fun _ _ b _ => b
  | _ => fun _ m b c => if m = c then b else m

/-- The integer atomics: fields, subop, whether the old value returns. -/
def atomRow : Instr → Option (XOp × Nat × Bool)
  | .aadd x => some (x, 0, true)
  | .aand x => some (x, 1, true)
  | .aor x => some (x, 2, true)
  | .axor x => some (x, 3, true)
  | .amin x => some (x, 4, true)
  | .amax x => some (x, 5, true)
  | .aminu x => some (x, 6, true)
  | .amaxu x => some (x, 7, true)
  | .aswap x => some (x, 8, true)
  | .acas x => some (x, 9, true)
  | .aaddp x => some (x, 0, false)
  | .aandp x => some (x, 1, false)
  | .aorp x => some (x, 2, false)
  | .axorp x => some (x, 3, false)
  | .aminp x => some (x, 4, false)
  | .amaxp x => some (x, 5, false)
  | .aminup x => some (x, 6, false)
  | .amaxup x => some (x, 7, false)
  | .aswapp x => some (x, 8, false)
  | _ => none

/-- The address of an atomic or a sync word: sa plus word 2, signed. -/
def wordAddr (x : XOp) (r : Regs) : Word := r.rs x.a + x.w2.signExtend 64

/-- The value an atomic finds in n bytes at p of a memory, and the one it writes. -/
def atomFound (m : Mem) (p w : Nat) : BitVec w := BitVec.ofNat w (leNat (m.readN p (w / 8)))

/-- The value an integer atomic writes. -/
def atomWrites (op : AtomFn) (x : XOp) (r : Regs) (m : Mem) (p : Nat) : Word :=
  let w := tyBits x.ty.val
  (op w (atomFound m p w) ((r.rs x.b).setWidth w) ((r.rs x.c).setWidth w)).setWidth 64

/-- The old value as d receives it: INT32 sign-extended, the others with zeros above (08_scalar.md R121). -/
def atomReturns (x : XOp) (m : Mem) (p : Nat) : Word :=
  if x.ty = 4 then (atomFound m p 32).signExtend 64 else (atomFound m p (tyBits x.ty.val)).setWidth 64

/-- A core's scratchpad replaced. -/
def State.withScratch (s : State) (m : Mem) : State := s.mapCore fun c => { c with scratch := m }

/-- Device memory replaced. -/
def State.withDmem (s : State) (m : Mem) : State := { s with pkg := { s.pkg with dmem := m } }

/-- The float add of an AFADD on what it finds (R217). -/
def afaddOf (x : XOp) (r : Regs) (m : Mem) (p : Nat) : FVal × Flags :=
  let f := (fmtOf x.ty.val).getD .fp32
  let c := r.capture x.rm.val
  fadd f c.mode ((BitVec.ofNat 16 (c.draw 0)).toNat) (f.unpack (atomFound m p (tyBits x.ty.val)).toNat)
    (f.unpack ((r.rs x.b).setWidth (tyBits x.ty.val)).toNat)

/-- The registers after an AFADD at issue: SRCTR under SR. -/
def afaddRegs (x : XOp) (r : Regs) : Regs := if r.mode x.rm.val = .sr then { r with srctr := r.srctr + 1 } else r

/-- A sync word instruction finds its word: local, aligned to 16, within the range, touched by no command. -/
def syncReady (s : State) (ea : Word) (write : Bool) : Prop :=
  ea.toNat < 2 ^ 60 ∧ ea.toNat % 16 = 0 ∧ ea.toNat + 16 ≤ s.core.span.2 ∧ s.core.blocked (s.core.span.1 + ea.toNat) 16 write = false

/-- Memory m' holds a sync word at p, and m elsewhere. -/
def SyncHolds (c' c : Core) (p : Nat) (w : SyncWord) : Prop :=
  c'.sync p = w ∧ ∀ q, ¬(p ≤ q ∧ q < p + 16) → c'.scratch.read q = c.scratch.read q

/-! ### Engine commands -/

/-- A SEND or SENDL: its record, the record that names its destination (12_memory.md R219). -/
def pushRow (i : Instr) (s : State) : Option (XOp × Nat × LRec × LRec × Option LRec) :=
  match i with
  | .send x =>
    let r := s.core.regs.lrec x.l.val
    some (x, 0, r, { r with base := r.aux0, st1 := r.rowLen, st2 := (r.rowLen * r.e1 : Nat) }, none)
  | .sendl x =>
    let d := s.core.regs.lrec (x.w2f 0 2)
    some (x, 1, s.core.regs.lrec x.l.val, d, some d)
  | _ => none

/-- What R218 and R219 ask of a push's records. -/
def pushLegal (x : XOp) (sub : Nat) (r d : LRec) : Prop :=
  r.ty = x.ty.val ∧ d.flagI = false ∧ d.rsv = 0 ∧ (d.flagS = false → d.aux1 = 0) ∧ ¬(r.ty = 7 ∧ r.e0 % 2 = 1)
    ∧ (sub = 1 → r.flagI = false ∧ r.flagS = false ∧ r.rsv = 0 ∧ d.ty = r.ty ∧ d.e0 = r.e0 ∧ d.e1 = r.e1 ∧ d.e2 = r.e2)

/-- A GATH or SCAT. -/
def tableInstr : Instr → Option (XOp × Nat)
  | .gath x => some (x, 2)
  | .scat x => some (x, 3)
  | _ => none

/-- The bytes of a posted flit. -/
def Posted.flitBytes (p : Posted) : List Byte := match p.kind with | .flit bs _ => bs | _ => []

/-- A destination of a push beyond the local view, for a row of n bytes that stays in one bank, page or window: whether it is near, its
flit size, and of the byte at offset o the address that its flit carries and the physical address. -/
def pushTo (s : State) (d : Word) (n : Nat) (near : Bool) (size : Nat) (addr : Nat → Word) (pa : Nat → Nat) : Prop :=
  (∃ q, placeOf s d = some (.linear q) ∧ d.toNat % 2 ^ 24 + n ≤ 0xC00000 ∧ near = false ∧ size = 32
      ∧ addr = (fun o => d + BitVec.ofNat 64 o) ∧ pa = fun _ => 0)
  ∨ (∃ va e, placeOf s d = some (.inter va) ∧ va % 2 ^ 16 + n ≤ 2 ^ 16 ∧ tlbFind s.grove.tlb s.core.tenant va = some e ∧ e.w = true
      ∧ near = false ∧ size = 64 ∧ addr = (fun o => d + BitVec.ofNat 64 o) ∧ pa = fun o => s.pkg.cell (e.pa (va + o)))
  ∨ ∃ pk aid off, placeOf s d = some (.actor pk aid off) ∧ off + n ≤ 2 ^ 20 ∧ near = s.near (.actor pk aid off) ∧ size = (if near then 32 else 64)
      ∧ addr = (fun o => normal (.actor pk aid (off + o)) (d + BitVec.ofNat 64 o)) ∧ pa = fun _ => 0

/-- The rows of a table lie in one page of the interleaved view that the cache holds, each whole. -/
def tableIn (k : Cmd) (r : LRec) (s : State) (va : Nat → Nat) (e : TlbEntry) : Prop :=
  ∀ i < r.e1, placeOf s (tableAddr k r s.core i) = some (.inter (va i)) ∧ va i % 2 ^ 16 + r.rowLen ≤ 2 ^ 16 ∧ va i / 2 ^ 16 = va 0 / 2 ^ 16
    ∧ tlbFind s.grove.tlb s.core.tenant (va i) = some e

/-- A row of n bytes at S copied to D of the scratchpad. -/
def Copied (m' m : Mem) (S D n : Nat) : Prop := ∀ q, m'.read q = if D ≤ q ∧ q < D + n then m.read (S + (q - D)) else m.read q

/-- The head of a queue with its record, in a core that nothing watches. -/
def EngineHead (q : Queue) (k : Cmd) (r : LRec) (s : State) : Prop :=
  s.ready q = some k ∧ k.cls = 12 ∧ k.lrec = some r ∧ r.e0 ≠ 0 ∧ r.e1 ≠ 0 ∧ r.e2 ≠ 0 ∧ s.core.calm ∧ s.core.scratch.wf = true
    ∧ s.pkg.badUnits = []

/-! ### Scans -/

/-- What an SCOP form does to its operator slot (16_scan.md R262). -/
def scopRow : Instr → Option (XOp × (Regs → OpSlot → OpSlot))
  | .scop x => some (x, fun _ o =>
      { o with ops := o.ops.set (Fin.ofNat 16 (x.w2f 8 4)) { op := Fin.ofNat 16 (x.w2f 28 4), c := Fin.ofNat 16 (x.w2f 24 4), b := Fin.ofNat 16 (x.w2f 20 4), a := Fin.ofNat 16 (x.w2f 16 4), t := Fin.ofNat 8 (x.w2f 13 3) } })
  | .scophdr x => some (x, fun _ o => { o with valid := true, nst := x.w2f 16 4, nin := x.w2f 20 4, out := BitVec.ofNat 4 (x.w2f 24 4) })
  | .scopid x => some (x, fun r o => { o with idn := o.idn.set (Fin.ofNat 4 (x.w2f 13 3)) ((r.rs x.a).setWidth 32) })
  | _ => none

/-- SCAN and SCANC. -/
def scanRow : Instr → Option (XOp × Nat)
  | .scan x => some (x, 1)
  | .scanc x => some (x, 2)
  | _ => none

/-- The local prefix of a lane at step n (R265): a reset, or the first step, lifts the input; any other combines. -/
def scanPre (k : Cmd) (o : OpSlot) (l : Nat) (steps : List (Bool × List Nat)) : Nat → List Nat
  | 0 => o.lift (steps.headD (false, [])).2
  | n + 1 =>
    let x := steps.getD (n + 1) (false, [])
    if x.1 then o.lift x.2 else (combine o k.rc (k.drawAt o.rounds l (n + 1)) (scanPre k o l steps n) (o.lift x.2)).1

/-- The state that a lane writes at step n: the carry in combined with its prefix, unless a reset came by then (R265). -/
def scanOut (k : Cmd) (o : OpSlot) (l : Nat) (cin : List Nat) (steps : List (Bool × List Nat)) (n : Nat) : List Nat :=
  if (steps.take (n + 1)).any fun x => x.1 then scanPre k o l steps n
  else (combine o k.rc (k.drawAt o.rounds l n + o.rounds) cin (scanPre k o l steps n)).1

/-- The carry that leaves a lane (R265). -/
def scanCarry (k : Cmd) (o : OpSlot) (l : Nat) (cin : List Nat) (steps : List (Bool × List Nat)) : List Nat :=
  let p := scanPre k o l steps (steps.length - 1)
  if steps.any fun x => x.1 then p else (combine o k.rc (k.drawAt o.rounds l steps.length) cin p).1

/-- The outputs of a scan stand apart: the output tile's rows, and the carry record from them. -/
def scanApart (k : Cmd) (r : LRec) (o : OpSlot) (carry : Bool) : Prop :=
  let d : LRec := { r with base := r.aux0 }
  let n := o.outs.length
  (∀ s c s' c', s < r.e1 → c < n → s' < r.e1 → c' < n → (s, c) ≠ (s', c') →
    k.tile d s c + 4 * r.e0 ≤ k.tile d s' c' ∨ k.tile d s' c' + 4 * r.e0 ≤ k.tile d s c)
  ∧ (carry = true → ∀ s c, s < r.e1 → c < n → k.tile d s c + 4 * r.e0 ≤ k.base + r.aux1.toNat ∨ k.base + r.aux1.toNat + 256 ≤ k.tile d s c)

/-- What pass 1 of a SCANC finds (R270): for each computed lane the number of its first reset step and its local prefixes. -/
def ScanPrefixes (k : Cmd) (r : LRec) (o : OpSlot) (s : State) (lanes : List (Nat × List (List Nat))) : Prop :=
  lanes.length = r.e0 ∧ ∀ l < r.e0, ∃ p, lanes[l]? = some p
    ∧ p.1 = ((laneSteps k r s.core l).findIdx? fun x => x.1).getD r.e1 ∧ p.2.length = r.e1
    ∧ ∀ n < r.e1, p.2.getD n [] = scanPre k o l (laneSteps k r s.core l) n

/-- A command's scan work as the state keeps it from here on. -/
def State.withScan (s : State) (k : Cmd) (w : ScanWork) : List Cmd :=
  s.core.cmds.map fun e => if e.serial = k.serial then { e with scan := some w, abandoned := false, pages := [] } else e

/-- What a scan leaves in memory: its outputs, with carry in of each lane cin, and, where it writes one, the carry of each of n lanes. -/
def ScanWrites (k : Cmd) (r : LRec) (o : OpSlot) (cin : Nat → List Nat) (carry : Bool) (s t : State) : Prop :=
  (∀ l < r.e0, ∀ st < r.e1, ∀ q j, o.outs[q]? = some j →
    leNat (t.core.readScratch (k.tile { r with base := r.aux0 } st q + 4 * l) 4)
      = (scanOut k o l (cin l) (laneSteps k r s.core l) st).getD j 0 % 2 ^ 32)
  ∧ (carry = true → ∀ l < r.e0, ∀ c < o.nst,
      leNat (t.core.readScratch (k.carryAt r l c) 4) = (scanCarry k o l (cin l) (laneSteps k r s.core l)).getD c 0 % 2 ^ 32)

/-! ### Law state -/

/-- A law instruction on memory (14_lawstate.md R245 to R249): fields, subop, bytes, whether it declares a write, lanes, the scalar registers it
writes. -/
def lawRow : Instr → Option (XOp × Nat × Nat × Bool × Nat × List SReg)
  | .lld x => some (x, 0, if x.w2.getLsbD 0 then 16 else 8, true, if x.w2.getLsbD 0 then 2 else 1, if x.w2.getLsbD 0 ∧ x.d ≠ 0 then [x.d, x.d + 1] else [x.d])
  | .lst x => some (x, 1, if x.w2.getLsbD 0 then 16 else 8, true, 0, [])
  | .ladd x => some (x, 2, if x.w2.getLsbD 0 then 16 else 8, true, if x.w2.getLsbD 0 then 2 else 1, if x.w2.getLsbD 0 ∧ x.d ≠ 0 then [x.d, x.d + 1] else [x.d])
  | .lreb x => some (x, 3, if x.w2.getLsbD 0 then 16 else 8, true, if x.w2.getLsbD 0 then 2 else 1, if x.w2.getLsbD 0 ∧ x.d ≠ 0 then [x.d, x.d + 1] else [x.d])
  | .lset x => some (x, 4, 32, false, 0, [])
  | .lget x => some (x, 5, 32, true, 0, [])
  | _ => none

/-- A law instruction without memory (R250 to R252): fields, subop, the scalar registers it writes. -/
def lawPlain : Instr → Option (XOp × Nat × List SReg)
  | .ltick x => some (x, 6, [])
  | .lnow x => some (x, 7, [x.d])
  | .lregf x => some (x, 8, [])
  | _ => none

/-- The fields of a law word written now (R230): VALUE, BASE, FIRED, INDEX. -/
def lawWord (v : BitVec 32) (now : BitVec 48) (fired : Bool) (idx : BitVec 8) : Word :=
  v ++ (now.setWidth 23 ++ (BitVec.ofBool fired ++ idx) : BitVec 32)

/-- The exact value of a law word of kind 0 (constant), 1 (relaxing) or 2 (linear) at age d (R235): at age 0 the stored value where the
formula's value is finite. -/
def lawExact (l : Law) (mode : RMode) (v : FVal) (d : Nat) : FVal :=
  let y : FVal := match l.kind with
    | 0 => v
    | 2 => (addV mode v (mulV l.slope (FVal.ofInt d)).1).1
    | _ => (addV mode l.rest (mulV (addV mode v l.rest.negate).1 (lawF (l.rate * d))).1).1
  if d = 0 ∧ y ≠ .nan ∧ (∀ b, y ≠ .inf b) then v else y

/-- The head of the L queue, in a core that nothing watches. -/
def LawHead (k : Cmd) (sub : Nat) (s : State) : Prop :=
  s.ready .l = some k ∧ k.cls = 14 ∧ k.sub = sub ∧ s.core.calm ∧ s.core.scratch.wf = true

/-! ### Messages and actors -/

/-- A window descriptor that WSET accepts in window w of an actor (12_memory.md R198): one that is not valid, or one whose fields are multiples of 64,
of 64 bytes to 256 KiB, inside the region and actor space, beyond the ring if it may be written, and apart from the other valid windows. -/
def windowOk (a : Actor) (w : Nat) (v : Word) : Prop :=
  let len (v : Word) : Nat := v.toNat / 2 ^ 40 % 2 ^ 20
  let base (v : Word) : Nat := v.toNat / 2 ^ 20 % 2 ^ 20
  let off (v : Word) : Nat := v.toNat % 2 ^ 20
  v.getLsbD 63 = true →
    len v % 64 = 0 ∧ base v % 64 = 0 ∧ off v % 64 = 0 ∧ 64 ≤ len v ∧ len v ≤ 0x40000 ∧ base v + len v ≤ a.size ∧ off v + len v ≤ 2 ^ 20
    ∧ (v.getLsbD 61 = true ∨ v.getLsbD 62 = true → 2 ^ a.ringK ≤ base v)
    ∧ ∀ j : Fin 8, j.val ≠ w → (a.windows[j]).getLsbD 63 = true →
        off v + len v ≤ off a.windows[j] ∨ off a.windows[j] + len a.windows[j] ≤ off v ∨ len a.windows[j] = 0

/-- An instruction that changes the running actor (18_messages.md R296, R299, R300): fields, what it asks of its operands, the cause it raises
else with its value, what it does to the actor. -/
def selfRow : Instr → Option (XOp × (Regs → Actor → Prop) × Cause × Word × (Regs → Actor → Actor))
  | .maskc x => some (x, fun _ _ => True, .none, 0, fun _ a => { a with cmask := a.cmask ||| x.w2.setWidth 8 })
  | .unmc x => some (x, fun _ _ => True, .none, 0, fun _ a => { a with cmask := a.cmask &&& ~~~(x.w2.setWidth 8) })
  | .hset x => some (x, fun r _ => (r.rs x.a).toNat % 4 = 0 ∧ (r.rs x.a).toNat / 2 ^ 48 = 0 ∧ (r.rs x.b).toNat / 2 ^ 18 = 0 ∧ (r.rs x.b).getLsbD 10 = false,
      .hbad, (x.w2.setWidth 5).setWidth 64, fun r a => { a with handlers := a.handlers.set (Fin.ofNat 32 (x.w2f 0 5)) (r.rs x.b ++ r.rs x.a) })
  | .hclr x => some (x, fun _ _ => True, .none, 0, fun _ a =>
      { a with handlers := Vector.ofFn fun i => if x.w2.getLsbD i.val then a.handlers[i] &&& ~~~(1#128 <<< 81) else a.handlers[i] })
  | .wset x => some (x, fun r a => windowOk a (x.w2f 0 3) (r.rs x.a), .wbad, (x.w2.setWidth 3).setWidth 64,
      fun r a => { a with windows := a.windows.set (Fin.ofNat 8 (x.w2f 0 3)) (r.rs x.a) })
  | .wclr x => some (x, fun _ _ => True, .none, 0, fun _ a =>
      { a with windows := Vector.ofFn fun i => if x.w2.getLsbD i.val then a.windows[i] &&& 0x7FFFFFFFFFFFFFFF else a.windows[i] })
  | _ => none

/-- MBOX's value by its selector (18_messages.md R295). -/
def mailboxSays (sel : Nat) (a : Actor) (c : Core) (v : Word) : Prop :=
  (sel = 0 → v.toNat = a.head + a.tail * 2 ^ 16 + a.ringK * 2 ^ 32 + (a.tail + 2 ^ a.ringK - a.head) % 2 ^ a.ringK * 2 ^ 40)
  ∧ (sel = 1 → ∀ q < 8, (v >>> (8 * q)).setWidth 8 = BitVec.ofNat 8 (min 255 ((openRecs a a.recs []).countP fun r => r.filed.val == q)))
  ∧ (sel = 2 → v.setWidth 8 = a.cmask ∧ v.getLsbD 16 = decide (c.room ≠ [])
      ∧ ∀ q < 8, v.getLsbD (8 + q) = a.recs.any fun r => !r.pad && !r.dispatched && r.filed.val == q && (a.handlers[r.typ]).getLsbD 80)

/-- An actor's numbers fit their fields. -/
def Actor.fits (a : Actor) : Prop := a.head < 2 ^ 16 ∧ a.tail < 2 ^ a.ringK ∧ a.head < 2 ^ a.ringK ∧ a.ringK ≤ 16

/-- An answer of Phopol to what the core waits for: the destination is written, and the instruction completes. -/
def AnswersWith (e : Instr) (s : State) (len : Nat) (u : State) : Prop :=
  ∃ t, exec e s = .next t ∧ After len (u.mapCore fun c => { c with await := none }) t

/-- The first message record of an actor in the ring's order, landed and not yet dispatched, of a valid entry that its length and code bit keep. -/
def Starts (a : Actor) (r : MRec) : Prop :=
  let e := a.handlers[r.typ]
  entryV e = true ∧ (entryLchk e = 0x3FF ∨ entryLchk e = r.len) ∧ (hdrCC r.h0 = true → entryCP e = true)

/-! ### Near memory -/

/-- The head of a queue of the near-memory unit, in a core that nothing watches. -/
def NearHead (q : Queue) (k : Cmd) (sub : Nat) (s : State) : Prop :=
  s.ready q = some k ∧ k.cls = 18 ∧ k.sub = sub ∧ s.core.calm ∧ s.core.scratch.wf = true

/-- An arithmetic operation of the NMU on elements: float in the format with the instruction's rounding, or integers exactly and then narrowed. -/
def nmuArithOf (x : NaF) (fo : FFmt → RMode → FVal → FVal → FVal → FVal × Flags) (io : Int → Int → Int → Int) (a b d : Nat) : Nat × Flags :=
  let ty := nmuTy x.ty.val
  match fmtOf ty with
  | some f => let v := fo f (nmuMode x.rm.val) (f.unpack a) (f.unpack b) (f.unpack d); (f.pack v.1, v.2)
  | none => let rd (v : Nat) : Int := readInt true (tyBits ty) v; intToInt true (tyBits ty) x.sat (io (rd a) (rd b) (rd d))

/-- A comparison of NCMP by its condition. -/
def nmuHolds (x : NaF) (a b : Nat) : Bool :=
  match fmtOf (nmuTy x.ty.val) with
  | some f =>
    let p := f.unpack a
    let q := f.unpack b
    (match x.x.val with | 0 => veq p q | 1 => !veq p q | 2 => vlt p q | 3 => vlt p q || veq p q | 4 => vlt q p | _ => vlt q p || veq p q)
  | none =>
    let p : Int := readInt true (tyBits (nmuTy x.ty.val)) a
    let q : Int := readInt true (tyBits (nmuTy x.ty.val)) b
    (match x.x.val with | 0 => decide (p = q) | 1 => decide (p ≠ q) | 2 => decide (p < q) | 3 => decide (p ≤ q) | 4 => decide (q < p) | _ => decide (q ≤ p))

/-- The elementwise instructions of the NMU (20_nearmem.md R318): fields, and the element of d and its flags from those of a, b and d. -/
def nmuElemRow : Instr → Option (NaF × (Nat → Nat → Nat → Nat × Flags))
  | .nadd x => some (x, nmuArithOf x (fun f m a b _ => fadd f m 0 a b) fun a b _ => a + b)
  | .nsub x => some (x, nmuArithOf x (fun f m a b _ => fsub f m 0 a b) fun a b _ => a - b)
  | .nmul x => some (x, nmuArithOf x (fun f m a b _ => fmul f m 0 a b) fun a b _ => a * b)
  | .nfma x => some (x, nmuArithOf x (fun f m a b d => ffma f m 0 a b d) fun a b d => a * b + d)
  | .nmin x => some (x, nmuArithOf x (fun _ _ a b _ => (fminV a b, noFlags)) fun a b _ => min a b)
  | .nmax x => some (x, nmuArithOf x (fun _ _ a b _ => (fmaxV a b, noFlags)) fun a b _ => max a b)
  | .ncmp x => some (x, fun a b _ => (if nmuHolds x a b then 2 ^ tyBits (nmuTy x.ty.val) - 1 else 0, noFlags))
  | .nsel x => some (x, fun a b d => (if d ≠ 0 then a else b, noFlags))
  | .nand x => some (x, fun a b _ => (a &&& b, noFlags))
  | .nor x => some (x, fun a b _ => (a ||| b, noFlags))
  | .nxor x => some (x, fun a b _ => (a ^^^ b, noFlags))
  | .nshf x =>
    let w := tyBits (nmuTy x.ty.val)
    let c := x.b.val % w
    some (x, fun a _ _ => ((match x.x.val with
      | 0 => (BitVec.ofNat w a <<< c).toNat | 1 => (BitVec.ofNat w a >>> c).toNat | _ => ((BitVec.ofNat w a).sshiftRight c).toNat), noFlags))
  | _ => none

/-- Node j at height d of the fixed pairwise tree over elements: its value and the flags of all the operations below it. -/
def treeNode (f : Nat → Nat → Nat × Flags) (e : Nat → Nat) : Nat → Nat → Nat × Flags
  | 0, j => (e j, noFlags)
  | d + 1, j =>
    let a := treeNode f e d (2 * j)
    let b := treeNode f e d (2 * j + 1)
    ((f a.1 b.1).1, (a.2.or b.2).or (f a.1 b.1).2)

/-- The operation at the nodes of an NRED. -/
def nredNode (x : NaF) (a b : Nat) : Nat × Flags :=
  match x.x.val with
  | 0 => nmuArithOf x (fun f m a b _ => fadd f m 0 a b) (fun a b _ => a + b) a b 0
  | 1 => nmuArithOf x (fun _ _ a b _ => (fminV a b, noFlags)) (fun a b _ => min a b) a b 0
  | _ => nmuArithOf x (fun _ _ a b _ => (fmaxV a b, noFlags)) (fun a b _ => max a b) a b 0

/-- Element j of w bits of an NMU register. -/
def Nmu.elem (n : Nmu) (r : Fin 32) (w j : Nat) : Nat := (n.reg r) / 2 ^ (j * w) % 2 ^ w

/-- The run of the core's NMU stands at an instruction that it may execute. -/
def NmuAt (s : State) (r : NRun) : Prop := s.core.nmu.run = some r ∧ r.ended = false ∧ r.waiting = false

/-- The instruction executes: the NMU register d receives v, its flags accrue, and the run goes on. -/
def NmuWrites (i : Instr) (s : State) (r : NRun) (d : Fin 32) (v : Nat) (fl : Flags) : Prop :=
  exec i s = .next (s.mapNmu fun n => (n.put d v fl).goOn (r.entry + 1))

/-- The instruction stops the run before it, with a state of R322. -/
def NmuStops (i : Instr) (s : State) (r : NRun) (code : Nat) : Prop := exec i s = .next (s.mapNmu fun n => n.stop r code)

/-- The address of an NM instruction, and its place in the slice: 3 for one beyond, 4 for one misaligned (R317, R322). -/
def nmuAddr (x : NmF) (n : Nmu) : BitVec 32 := n.a[x.ai] + x.off.signExtend 32 * 32

/-- The address of an NM instruction lies in the slice. -/
def inSlice (ea : BitVec 32) : Prop := ea.toNat < 2 ^ 27 ∧ ea.toNat % 32 = 0 ∧ ea.toNat % 2 ^ 24 < 0xC00000

/-- A sum of an NMRED over elements of a type, in index-list order from +0: an FP32 or INT32 value, and its flags (R330). -/
def bagElem (ty : Nat) (l : List Nat) : Nat × Flags :=
  match fmtOf ty with
  | some f => l.foldl (fun a v =>
      let y := fadd .fp32 .rne 0 (FFmt.fp32.unpack a.1) (f.unpack v)
      (FFmt.fp32.pack y.1, a.2.or y.2)) (0, noFlags)
  | none => (l.sum % 2 ^ 32, noFlags)

/-- A sync word after n bytes counted in pieces of 32 bytes and what is left. -/
def SyncWord.pieces (w : SyncWord) (n : Nat) : SyncWord :=
  (List.replicate (n / 32) 32 ++ (if n % 32 = 0 then [] else [n % 32])).foldl SyncWord.arrive w

/-- A table's place, rows and entries (R307, R310). -/
def tableBytes (h : Nat) : Nat := if h.testBit 10 then 8192 else 512

/-! ### Debug, privilege, gangs -/

/-- A DEBUG instruction that needs SELF (24_debug.md R379): fields, what it asks of its operand, the fault else, what it does to the debug module. -/
def debugRow : Instr → Option (XOp × (State → Prop) × (State → Debug → Debug))
  | .dbset x => some (x, fun s => (s.core.regs.rs x.a).toNat % 4 = 0,
      fun s d => { d with bp := d.bp.set (Fin.ofNat 4 (x.w2f 0 2)) ((s.core.regs.rs x.a &&& 0xFFFFFFFFFFFC) ||| 0x8000000000000000) })
  | .dbclr x => some (x, fun _ => True, fun _ d => { d with bp := Vector.ofFn fun i => if x.w2.getLsbD i.val then 0 else d.bp[i] })
  | .dwset x => some (x, fun s => (s.core.regs.rs x.a).toNat < 2 ^ 60 ∧ (s.core.regs.rs x.a).toNat % 8 = 0 ∧ (s.core.regs.rs x.a).toNat + 8 ≤ s.core.span.2,
      fun s d =>
        let n : Fin 4 := Fin.ofNat 4 (x.w2f 0 2)
        { d with wp := d.wp.set n (BitVec.ofNat 64 (2 ^ 63 + (s.core.regs.rs x.b).toNat % 128 * 2 ^ 56 + (s.core.span.1 + (s.core.regs.rs x.a).toNat))), whit := d.whit.set n 0 })
  | .dwclr x => some (x, fun _ => True, fun _ d => { d with wp := Vector.ofFn fun i => if x.w2.getLsbD i.val then d.wp[i] &&& 0x7FFFFFFFFFFFFFFF else d.wp[i] })
  | .trctl x => some (x, fun _ => True, fun s d => { d with trcfg := s.core.regs.rs x.a &&& 0x7F0F0F03 })
  | _ => none

/-- A PRIV instruction on the grove's and the core's settings (22_scheduling_faults.md R359): fields, what it asks, what it does. -/
def privRow : Instr → Option (XOp × (State → Prop) × (State → State))
  | .tlbinv x => some (x, fun s => ∀ c ∈ s.cores, ∀ k ∈ c.cmds, k.abandoned = false,
      fun s =>
        let v := s.core.regs.rs x.a
        let hits (e : TlbEntry) : Bool := match x.w2f 0 2 with
          | 0 => true
          | 1 => e.tenant == v.setWidth 16
          | _ => e.tenant == s.core.tenant && (if e.big then e.vpage == v.toNat % 2 ^ 48 / 2 ^ 21 else e.vpage == v.toNat % 2 ^ 48 / 2 ^ 16)
        { s with grove := { s.grove with tlb := s.grove.tlb.filter fun e => !hits e } })
  | .clrset x => some (x, fun s => 256 ≤ (s.core.regs.rs x.a).toNat % 2 ^ 20 ∧ (s.core.regs.rs x.a).toNat % 2 ^ 20 < 2 ^ 19 ∧ 1 ≤ (s.core.regs.rs x.b).toNat % 2 ^ 10,
      fun s =>
        let cap : Nat := (s.core.regs.rs x.a).toNat % 2 ^ 20
        { s with grove := { s.grove with cap := cap, rate := (s.core.regs.rs x.b).toNat % 2 ^ 10, cnow := min s.grove.cnow (cap : Int) } })
  | .ltmode x => some (x, fun s => (x.w2f 0 2 = 1 → (s.core.regs.rs x.a).toNat % 2 ^ 16 ≠ 0) ∧ ∀ c ∈ s.cores, ∀ k ∈ c.cmds, ¬(k.cls = 14 ∧ k.sub = 6),
      fun s => { s with grove := { s.grove with lawMode := if x.w2f 0 2 = 1 then .divider ((s.core.regs.rs x.a).toNat % 2 ^ 16) else .ltickOnly } })
  | .crset x => some (x, fun _ => True, fun s =>
      let v := s.core.regs.rs x.a
      s.mapCore fun c => match x.w2f 0 2 with
        | 0 => { c with troot := v &&& 0xFFFFFFFFF000 }
        | 1 => { c with tenant := v.setWidth 16 }
        | _ => { c with launchSlot := v.setWidth 12 })
  | _ => none

/-- The PRIV instructions. -/
def privInstr : Instr → Option XOp
  | .ctxsv x | .ctxld x | .tlbinv x | .clrset x | .ltmode x | .crset x => some x
  | _ => none

/-- An instruction of the management path in a core that is no gang's: its guard holds, and nothing that it names awaits a result. -/
structure Managed (g : Guard) (wait : Nat) (s : State) : Prop where
  alone : s.core.ganged = false
  path : s.core.mgmt = true
  guard : s.core.regs.guard g = true
  free : ∀ rs, s.core.pending rs = false
  drained : s.core.waitHolds wait = false

/-- Every member of a gang whose neighbours are all its followers, each on its place, executes: the guard holds and nothing is awaited. -/
def GangIssues (g : Guard) (wait : Nat) (s : State) : Prop :=
  s.core.ganged = true ∧ s.core.mgmt = false ∧ s.core.regs.gangix = 0 ∧ (∀ c ∈ s.peers, s.core.mate c = true ∧ c.act.isSome = true)
    ∧ ∀ c ∈ s.core :: s.peers, c.regs.guard g = true ∧ (∀ rs, c.pending rs = false) ∧ c.waitHolds wait = false

/-! ### Events -/

/-- Phopol serves requests: the boot has passed and all is brought up (26_system.md R383, R384). -/
def State.serves (s : State) : Prop := s.pkg.started = true ∧ s.pkg.ready = true

/-- An event makes exactly this state, with an answer of Phopol. -/
def Answers (i : Instr) (s u : State) (a : Answer) : Prop := exec i s = .next { u with pkg := { u.pkg with answers := u.pkg.answers ++ [a] } }

/-- The requests of a host, and the debug requests. -/
def isRequest : Instr → Bool
  | .codeLoad _ _ | .allocate _ | .free _ _ | .writeRequest _ _ _ | .readRequest _ _ _ | .launchRequest _ | .waitRequest _ _ | .evictRequest _ _
  | .attestRequest _ _ | .setCapRequest _ | .destroyRequest _ _ | .debugStopRequest | .debugStepRequest | .debugRunRequest
  | .debugRegisterWrite _ _ | .whitWrite _ => true
  | _ => false

/-- The eight doublewords of a launch's completion record (18_messages.md R303). -/
def Launch.recordWords (l : Launch) : Vector Word 8 :=
  let r := l.report.getD { state := 1, tcause := 0, tpc := 0, tval := 0, wid := 0 }
  #v[BitVec.ofNat 64 (r.state % 4), BitVec.ofNat 64 (l.ign % 2 ^ 32), r.tcause, r.tpc, r.tval, r.wid, 0, 0]

/-- The registers at the start of an activation (02_execution.md R31, R32): what is not named is cleared. -/
def StartsWith (r : Regs) (pc s1 s2 s3 s4 s5 wid : Word) (aid : BitVec 24) (mode : Nat) (seed stream ctr : Word) : Prop :=
  r.pc = pc ∧ r.rs 1 = s1 ∧ r.rs 2 = s2 ∧ r.rs 3 = s3 ∧ r.rs 4 = s4 ∧ r.rs 5 = s5 ∧ (∀ i : SReg, 6 ≤ i.val → r.rs i = 0) ∧ r.wid = wid ∧ r.aid = aid
    ∧ r.fpctl = BitVec.ofNat 64 (mode % 8) ∧ r.srseed = seed ∧ r.srstream = stream ∧ r.srctr = ctr ∧ (∀ v : VReg, r.rv v = 0)
    ∧ (∀ m : MReg, m ≠ 0 → r.rm m = 0) ∧ (∀ p : PReg, p ≠ 0 → r.rp p = false) ∧ r.acc = Vector.replicate 4 {} ∧ r.lc = Vector.replicate 4 {} ∧ r.gangix = 0 ∧ r.tcause = 0 ∧ r.tpc = 0 ∧ r.tval = 0

/-- The core's retained record, of the source given, is due to run again by an event, for the n-th time after its first (02_execution.md R48, R50). -/
def Redispatched (s : State) (i : Instr) (n : Nat) (src : ActSrc) (more : Prop) : Prop :=
  (∃ a, s.core.retry = some a ∧ a.src = src ∧ n = a.retries) ∧ s.core.act = none ∧ s.core.stopped = false ∧ s.core.mgmt = false ∧ s.settled = true
    ∧ i = .retryDispatch ∧ more

/-! ### Reset, steps and decoding -/

/-- A guard of p0: always true. -/
def always : Guard := { neg := false, p := 0 }

/-- The word at byte a of a memory. -/
def Mem.iword (m : Mem) (a : Nat) : IWord := BitVec.ofNat 32 (leNat (m.readN a 4))

/-- The core's turn issues its next instruction: it runs an activation alone or leads its gang, nothing that comes from outside is due, nothing
that the boundary takes stands, and it waits for nothing. -/
structure AtIssue (s : State) : Prop where
  now : s.agenda = []
  turn : s.turn = .core
  activation : s.core.mgmtWord = none ∧ s.core.mgmt = false ∧ (∀ c ∈ s.together, c.stopped = false) ∧ s.core.halted = false ∧ s.core.act.isSome = true
  stays : s.core.toEvict = none
  leads : s.core.ganged = false ∨ s.core.regs.gangix = 0
  clear : boundary s = none
  waits : s.awaits = false ∧ s.core.arrived = false ∧ ∀ c ∈ s.together, c.pause = 0

/-! ### Completion -/

end Sys2Proof.Machine

open Sys2Proof Sys2Proof.Machine

/-! ### Scalar instructions -/

/-- 08_scalar.md R126 to R128, R132 and 04_formats.md R63: every scalar integer instruction, SEL and PGET that executes gives its
destination the value of the table, moves the program counter on, and leaves every other register, every flag, every special
register and every byte of memory as it was. -/
def Obligations.ScalarIntegerResults : Prop :=
  ∀ (i : Instr) (g : Guard) (d : SReg) (f : Regs → Word) (s : State),
    aluRow i = some (g, d, f) → i.wf = true → Ready g 0 i.bytes s → SetsRegs i s (s.core.regs.ws d (f s.core.regs))

/-- R53 and R126: a scalar integer instruction with destination s0 writes no register, and s0 reads 0 in every state. -/
def Obligations.RegisterZeroDiscardsWrites : Prop :=
  (∀ r : Regs, r.rs 0 = 0)
    ∧ ∀ (i : Instr) (g : Guard) (f : Regs → Word) (s : State),
        aluRow i = some (g, 0, f) → i.wf = true → Ready g 0 i.bytes s → SetsRegs i s s.core.regs

/-- R129 to R132: every compare and PLOG writes its condition to pd and the complement to pe (a write to p0 is discarded), and
PPUT writes p1 to p7. -/
def Obligations.CompareAndPredicateResults : Prop :=
  (∀ (i : Instr) (g : Guard) (pd pe : PReg) (f : Regs → Bool) (s : State),
    predRow i = some (g, pd, pe, f) → i.wf = true → Ready g 0 i.bytes s →
      SetsRegs i s ((s.core.regs.wp pd (f s.core.regs)).wp pe (!(f s.core.regs))))
    ∧ ∀ (x : PmF) (s : State), (Instr.pput x).wf = true → Ready x.h.g 0 (Instr.pput x).bytes s →
        SetsRegs (.pput x) s { s.core.regs with p := (s.core.regs.rs x.d).setWidth 8 ||| 1 }

/-- R121, R125, R133 to R135: every scalar floating-point instruction gives d the rounded result of its exact operation in its
format, accrues the flags in FPCTL and under SR advances SRCTR by one; FMIN, FMAX and FCPS round nothing and raise no flag. -/
def Obligations.ScalarFloatResults : Prop :=
  (∀ (i : Instr) (x : FA3) (f : FFmt) (op : RMode → Nat → FVal → FVal → FVal → FVal × Flags) (s : State),
    roundRow i = some (x, f, op) → i.wf = true → Ready x.h.g 0 i.bytes s →
      SetsRegs i s (rounded s.core.regs x.d x.rm.val fun c =>
        let v := op c.mode (c.draw 0) (f.ofWord (s.core.regs.rs x.d)) (f.ofWord (s.core.regs.rs x.a)) (f.ofWord (s.core.regs.rs x.b))
        (f.toWord v.1, v.2)))
    ∧ (∀ (i : Instr) (x : A3) (f : Word → Word → Word) (s : State),
        pickRow i = some (x, f) → i.wf = true → Ready x.h.g 0 i.bytes s →
          SetsRegs i s (s.core.regs.ws x.d (f (s.core.regs.rs x.a) (s.core.regs.rs x.b))))
    ∧ ∀ (x : CvF) (s : State), (Instr.fcvt x).wf = true → Ready x.h.g 0 (Instr.fcvt x).bytes s →
        SetsRegs (.fcvt x) s (rounded s.core.regs x.d x.rm.val fun c =>
          cvWrite x.dst.val c.mode (c.draw 0) x.sat (cvRead x.src.val (s.core.regs.rs x.a)))

/-! ### Guards, illegal encodings, waits for registers -/

/-- R64: a guarded instruction whose guard is false executes nothing: the program counter moves on, and every register, flag and
byte stands. It holds for every core instruction with an encoding that an activation may issue. -/
def Sys2Proof.Claims.FalseGuardDoesNothing : Prop :=
  ∀ (i : Instr) (g : Guard) (s : State), guardField i = some g → i.wf = true → forbidden i = false → withinJoint i s = true → s.core.ganged = false →
    s.core.mgmt = false → s.core.regs.guard g = false → runsOff s.core i.bytes = false → SetsRegs i s s.core.regs

/-- R76, R77: a core instruction that is not well formed takes the ILLOP trap, whatever its guard and whatever awaits, with its
first word in TVAL; an encoding that is no instruction does so too, and so does a PUTC of a register that an activation may only
read. The PRIV class takes PRIVOP in an activation in the same way (R75). -/
def Sys2Proof.Claims.IllegalEncodingsTrap : Prop :=
  (∀ (i : Instr) (s : State), ((guardField i).isSome ∧ i.wf = false ∨ ∃ w, i = .illegalEncoding w) → s.core.ganged = false →
    exec i s = .next (s.noted.trapNow .illop ((firstWord i).setWidth 64)))
    ∧ ∀ (i : Instr) (s : State), i.wf = true → forbidden i = true → s.core.ganged = false → s.core.mgmt = false →
        exec i s = .next (s.noted.trapNow (match i with | .putc _ => .illop | _ => .privop) ((firstWord i).setWidth 64))

/-- R123: an instruction that names a register which awaits a result holds: it stays unissued, with nothing changed. -/
def Sys2Proof.Claims.PendingRegisterHoldsIssue : Prop :=
  ∀ (i : Instr) (x : A3) (s : State), threeRegs i = some x → i.wf = true → s.core.ganged = false → s.core.regs.guard x.h.g = true →
    s.core.pending [x.d, x.a, x.b] = true →
      ∃ t, exec i s = .next t ∧ t.core.hold = true ∧ t.core.regs = s.core.regs ∧ t.beside = s.beside

/-! ### Taking a trap -/

/-- R64: a guarded instruction whose guard is false executes nothing: the program counter moves on, and every register, flag and
byte stands. It holds for every core instruction with an encoding that an activation may issue.
R76, R77: a core instruction that is not well formed takes the ILLOP trap, whatever its guard and whatever awaits, with its
first word in TVAL; an encoding that is no instruction does so too, and so does a PUTC of a register that an activation may only
read. The PRIV class takes PRIVOP in an activation in the same way (R75).
R123: an instruction that names a register which awaits a result holds: it stays unissued, with nothing changed. -/
def Obligations.IssueChecks : Prop := Sys2Proof.Claims.FalseGuardDoesNothing ∧ Sys2Proof.Claims.IllegalEncodingsTrap ∧ Sys2Proof.Claims.PendingRegisterHoldsIssue

/-- 22_scheduling_faults.md R347, R348: a trap in an activation writes TCAUSE, TPC and TVAL, and ends the activation; every other
register stands, but that the member leaves its gang. -/
def Sys2Proof.Claims.TrapSavesCauseAndPlace : Prop :=
  ∀ (c : Cause) (v pc : Word) (dfr : Bool) (q : Option Queue) (s : State), s.core.mgmt = false →
    (takeTrap c v pc dfr q s).core.act = none
      ∧ (takeTrap c v pc dfr q s).core.regs
          = { s.core.regs with
              tcause := causeWord c dfr q, tpc := pc, tval := v
              gangix := if s.core.ganged then 0 else s.core.regs.gangix }

/-- 22_scheduling_faults.md R358: a trap on the management path goes to Phopol and changes nothing in the core. -/
def Sys2Proof.Claims.ManagementTrapGoesToPhopol : Prop :=
  ∀ (c : Cause) (v pc : Word) (dfr : Bool) (q : Option Queue) (s : State), s.core.mgmt = true →
    takeTrap c v pc dfr q s = { s with pkg := { s.pkg with answers := s.pkg.answers ++ [.fault c v] } }

/-- 22_scheduling_faults.md R347, R348: a trap in an activation writes TCAUSE, TPC and TVAL, and ends the activation; every other
register stands, but that the member leaves its gang.
22_scheduling_faults.md R358: a trap on the management path goes to Phopol and changes nothing in the core. -/
def Obligations.TrapsSaveOrReport : Prop := Sys2Proof.Claims.TrapSavesCauseAndPlace ∧ Sys2Proof.Claims.ManagementTrapGoesToPhopol

/-- 02_execution.md R50, R51: containment by the policy of the launch at the activation's own level. Ignore ends the activation
and counts one ignored fault; retry of a retry-safe activation ends it and keeps its record for a re-run with one more retry made,
and its actor's saved SRCTR is the one that the activation started with (a task's re-run starts at 0); an activation that a kill has
reached is not re-run; a fault past level 0 leaves the launch its report.
An activation outside every launch is not spoken of (log entry 6). -/
def Obligations.ContainmentFollowsThePolicy : Prop :=
  ∀ (a : Activation) (l : Launch) (s : State), s.core.act = some a → s.pkg.launch a.slot = some l → 1 ≤ l.hdr.n →
    (ownPolicy l = 0 →
      contain s = { s.endActivation with pkg := s.endActivation.pkg.mapLaunch a.slot fun x => { x with ign := min (x.ign + 1) 0xFFFFFFFF } })
    ∧ (ownPolicy l = 1 → retrySafe a l.hdr = true → s.core.kills = [] →
        (contain s).core.retry = some { a with retries := a.retries + 1, arrived := none, rbar := [] } ∧ (contain s).core.act = none
        ∧ ∀ b, s.core.actor s.core.regs.aid = some b →
            (contain s).core.actor s.core.regs.aid = some { b with seed := s.core.regs.srseed, stream := s.core.regs.srstream, ctr := a.ctr0 })
    ∧ (ownPolicy l = 1 → retrySafe a l.hdr = true → s.core.kills ≠ [] → contain s = s.endActivation)
    ∧ (ownPolicy l = 2 → contain s = s.endActivation.kill { slot := a.slot.toNat, wid := s.core.regs.wid, low := l.hdr.low (l.hdr.n - 1) })
    ∧ ((∀ k < l.hdr.n, l.hdr.pol.getD k 0 = 3) → contain s = abortLaunch a.slot s)

/-- R347: of the traps reported to a core by its activation's accesses and commands, the earliest, and of those of one cycle one with the
lowest cause code, is taken at a boundary as a deferred trap, its TPC the instruction not yet issued. A MACC trap waits until the
activation's queued MRD and VSCALC have been performed (11_vector_matrix_notes.md R195). What an instruction of the management path submitted
is not the activation's (R358). -/
def Obligations.DeferredTrapIsTaken : Prop :=
  ∀ s : State, s.core.ganged = false → s.core.act.isSome = true → s.core.deferred.any (fun d => !d.mgmt) = true →
    s.core.stopped = false → s.core.halted = false → s.core.await = none →
      ((∀ d ∈ s.core.deferred, d.cause ≠ .macc)
        ∨ ∀ k ∈ s.core.cmds, k.cls = 8 → k.sub = 3 ∨ k.sub = 7 → k.aid ≠ s.core.regs.aid) →
      ∃ d ∈ s.core.deferred, d.mgmt = false
        ∧ (∀ e ∈ s.core.deferred, e.mgmt = false → d.at_ < e.at_ ∨ d.at_ = e.at_ ∧ d.cause.code ≤ e.cause.code)
        ∧ exec .deferredTrap s
            = .next (takeTrap d.cause d.tval s.core.regs.pc true d.q (s.mapCore fun c => { c with deferred := c.deferred.erase d }))

/-! ### System instructions -/

/-- 08_scalar.md R152: TRAP takes the trap UTRAP with its immediate in TVAL. -/
def Sys2Proof.Claims.TrapInstructionTraps : Prop :=
  ∀ (x : SysI) (s : State), (Instr.trap x).wf = true → Issues x.h.g 0 s →
    exec (.trap x) s = .next (s.noted.trapNow .utrap (x.imm.setWidth 64))

/-- 08_scalar.md R149, R152, R153: NOP changes nothing, PAUSE sets its count of turns, each of which counts it down and issues nothing,
FENCEI completes when both counts are zero, with the instruction cache empty, and holds until then, BRK does nothing while breakpoint halts are off, and ERET on the management path goes on at TPC and clears it, in the activation
that the core runs or in a new one (22_scheduling_faults.md R358; what a new one is made of is log entry 28). -/
def Sys2Proof.Claims.SystemInstructionResults : Prop :=
  (∀ (x : SysF) (s : State), (Instr.nop x).wf = true → Ready x.h.g 0 (Instr.nop x).bytes s → SetsRegs (.nop x) s s.core.regs)
    ∧ (∀ (x : SysI) (s : State), (Instr.pause x).wf = true → Ready x.h.g 0 (Instr.pause x).bytes s →
        ∃ t, exec (.pause x) s = .next t ∧ After (Instr.pause x).bytes (s.mapCore fun c => { c with pause := x.imm.toNat }) t)
    ∧ (∀ (n : Nat) (s : State), s.core.ganged = false → s.core.mgmt = false → s.core.mgmtWord = none → s.core.stopped = false →
        s.core.halted = false → s.core.toEvict = none → s.core.act.isSome = true → s.core.await = none → s.core.arrived = false →
          boundary s = none → s.core.pause = n + 1 → coreTurn s = .next (s.mapCore fun c => { c with pause := n }))
    ∧ (∀ (x : SysN) (s : State), Ready Guard.none 0 (Instr.fencei x).bytes s → s.core.posts true = 0 → s.core.posts false = 0 →
        ∃ t, exec (.fencei x) s = .next t ∧ After (Instr.fencei x).bytes (s.mapCore fun c => { c with icache := [] }) t)
    ∧ (∀ (x : SysN) (s : State), Issues Guard.none 0 s → s.core.posts true + s.core.posts false ≠ 0 →
        ∃ t, exec (.fencei x) s = .next t ∧ AfterStay s t ∧ t.core.hold = true)
    ∧ (∀ (x : SysI) (s : State), (Instr.brk x).wf = true → Ready x.h.g 0 (Instr.brk x).bytes s → s.core.dbg.ctl.getLsbD 2 = false →
        SetsRegs (.brk x) s s.core.regs)
    ∧ ∀ (x : SysN) (s : State), s.core.ganged = false → s.core.mgmt = true → (∀ rs, s.core.pending rs = false) → s.core.await = none →
        ∃ t, exec (.eret x) s = .next t
          ∧ t.core.regs = { s.core.regs with pc := s.core.regs.tpc, tcause := 0, tpc := 0, tval := 0 }
          ∧ t.core.act = some (s.core.act.getD s.core.eretActivation)
          ∧ t.core.mgmt = false ∧ t.core.halted = false ∧ t.core.stopped = false ∧ t.pkg = s.pkg

/-- R152, 24_debug.md R366, R367: BRK with breakpoint halts enabled stops the core before it executes: DBGSTAT has CAUSE 5 and SKID 0,
DPC the address of BRK, and Phopol has its immediate. -/
def Obligations.BreakpointInstructionHalts : Prop :=
  ∀ (x : SysI) (s : State), (Instr.brk x).wf = true → Issues x.h.g 0 s → s.core.dbg.ctl.getLsbD 2 = true →
    s.core.dbg.pass = false → s.core.dbg.stop = none →
      ∃ t, exec (.brk x) s = .next t ∧ t.core.stopped = true ∧ bitsOf t.core.dbg.stat.toNat 1 4 = 5 ∧ bitsOf t.core.dbg.stat.toNat 16 16 = 0
        ∧ t.core.dbg.dpc = s.core.regs.pc ∧ t.core.regs = s.core.regs
        ∧ t.pkg = { s.pkg with answers := s.pkg.answers ++ [.debug (x.imm.setWidth 64)] }

/-- 08_scalar.md R148; 04_formats.md R56, R57; 22_scheduling_faults.md R340; 06_numbers.md R118: GETC gives d the register of the index,
CLRSTAT field by field, and PUTC writes the read-write registers of the table. HISTCTL clears the contexts whose CLR bit is written as 1. -/
def Obligations.ControlRegistersReadAndWrite : Prop :=
  (∀ (x : CrF) (s : State), (Instr.getc x).wf = true → Ready x.h.g 0 (Instr.getc x).bytes s →
    ∃ v, SetsRegs (.getc x) s (s.core.regs.ws x.d v)
      ∧ (x.idx = 0x000 → v = s.core.regs.fpctl) ∧ (x.idx = 0x001 → v = s.core.regs.srseed) ∧ (x.idx = 0x002 → v = s.core.regs.srstream)
      ∧ (x.idx = 0x003 → v = s.core.regs.srctr) ∧ (x.idx = 0x010 → v = s.core.regs.wid)
      ∧ (x.idx = 0x011 → v = s.core.regs.aid.setWidth 64) ∧ (x.idx = 0x012 → v = BitVec.ofNat 64 s.core.regs.gangix)
      ∧ (x.idx = 0x020 → v = s.grove.lawnow.setWidth 64) ∧ (x.idx = 0x021 → v = s.core.regs.bartmo) ∧ (x.idx = 0x022 → v = 0x404020)
      ∧ (x.idx = 0x023 → v = BitVec.ofNat 64 (s.core.posts true)) ∧ (x.idx = 0x024 → v = BitVec.ofNat 64 (s.core.posts false))
      ∧ (x.idx = 0x025 → bitsOf v.toNat 0 20 = (s.grove.cnow % 2 ^ 20).toNat
          ∧ bitsOf v.toNat 20 20 = (if s.grove.reqs.any fun r => r.core == s.core.ix
              then min ((s.grove.reqs.takeWhile fun r => r.core != s.core.ix).map fun r => r.e).sum (2 ^ 20 - 1) else 0)
          ∧ bitsOf v.toNat 40 8 = min s.grove.reqs.length 255 ∧ v.getLsbD 48 = (s.core.nmu.run.isSome || s.core.adders) ∧ bitsOf v.toNat 49 15 = 0)
      ∧ (x.idx = 0x030 → v = s.core.regs.tcause) ∧ (x.idx = 0x031 → v = s.core.regs.tpc) ∧ (x.idx = 0x032 → v = s.core.regs.tval)
      ∧ (x.idx = 0x040 → v = s.core.stats.off.setWidth 64) ∧ (x.idx = 0x060 → v = s.core.stats.nanseen.setWidth 64)
      ∧ (∀ k : Fin 16, x.idx.val = 0x050 + k.val → v = (s.core.stats.maxmag[k]).setWidth 64)
      ∧ ∀ k : Fin 8, x.idx.val = 0x070 + k.val → v = s.core.stats.prov[k])
    ∧ ∀ (x : CrF) (s : State), (Instr.putc x).wf = true → Ready x.h.g 0 (Instr.putc x).bytes s →
        let v := s.core.regs.rs x.d
        (x.idx = 0x000 → v.toNat % 8 < 6 → SetsRegs (.putc x) s { s.core.regs with fpctl := v &&& 0x3F7 })
        ∧ (x.idx = 0x000 → 6 ≤ v.toNat % 8 → SetsRegs (.putc x) s { s.core.regs with fpctl := (v &&& 0x3F0) ||| (s.core.regs.fpctl &&& 7) })
        ∧ (x.idx = 0x001 → SetsRegs (.putc x) s { s.core.regs with srseed := v })
        ∧ (x.idx = 0x002 → SetsRegs (.putc x) s { s.core.regs with srstream := v })
        ∧ (x.idx = 0x003 → SetsRegs (.putc x) s { s.core.regs with srctr := v })
        ∧ (x.idx = 0x021 → SetsRegs (.putc x) s { s.core.regs with bartmo := v })
        ∧ (x.idx = 0x030 → SetsRegs (.putc x) s { s.core.regs with tcause := v &&& 0xF8FF })
        ∧ (x.idx = 0x031 → SetsRegs (.putc x) s { s.core.regs with tpc := v })
        ∧ (x.idx = 0x032 → SetsRegs (.putc x) s { s.core.regs with tval := v })
        ∧ (x.idx = 0x060 → ∃ t, exec (.putc x) s = .next t
            ∧ After (Instr.putc x).bytes (s.mapCore fun c => { c with stats := { c.stats with nanseen := v.setWidth 16 } }) t)
        ∧ (∀ k : Fin 16, x.idx.val = 0x050 + k.val → ∃ t, exec (.putc x) s = .next t
            ∧ After (Instr.putc x).bytes (s.mapCore fun c => { c with stats := { c.stats with maxmag := c.stats.maxmag.set k (v.setWidth 32) } }) t)
        ∧ (x.idx = 0x040 → ∃ (h : Stats) (t : State), exec (.putc x) s = .next t
            ∧ After (Instr.putc x).bytes (s.mapCore fun c => { c with stats := h }) t ∧ h.off = v.setWidth 16 ∧ h.prov = s.core.stats.prov
            ∧ ∀ k : Fin 16, let z := v.getLsbD (16 + k.val)
                h.bins[k] = (if z then Vector.replicate 64 0 else s.core.stats.bins[k]) ∧ h.maxmag[k] = (if z then 0 else s.core.stats.maxmag[k])
                  ∧ h.nanseen.getLsbD k.val = (s.core.stats.nanseen.getLsbD k.val && !z))

/-- 04_formats.md R57: PUTC of a register that an activation may only read takes the ILLOP trap; ERET in an activation takes
PRIVOP (08_scalar.md R153). -/
def Sys2Proof.Claims.PrivilegedSystemAccessTraps : Prop :=
  (∀ (x : CrF) (s : State), (Instr.putc x).wf = true → Issues x.h.g 0 s →
    x.idx.val ∈ [0x010, 0x011, 0x012, 0x020, 0x022, 0x023, 0x024, 0x025] ∨ 0x070 ≤ x.idx.val →
      exec (.putc x) s = .next (s.noted.trapNow .illop ((firstWord (.putc x)).setWidth 64)))
    ∧ ∀ (x : SysN) (s : State), Issues Guard.none 0 s →
        exec (.eret x) s = .next (s.noted.trapNow .privop ((firstWord (.eret x)).setWidth 64))

/-- 08_scalar.md R152: TRAP takes the trap UTRAP with its immediate in TVAL.
08_scalar.md R149, R152, R153: NOP changes nothing, PAUSE sets its count of turns, each of which counts it down and issues nothing,
FENCEI completes when both counts are zero, with the instruction cache empty, and holds until then, BRK does nothing while breakpoint halts are off, and ERET on the management path goes on at TPC and clears it, in the activation
that the core runs or in a new one (22_scheduling_faults.md R358; what a new one is made of is log entry 28).
04_formats.md R57: PUTC of a register that an activation may only read takes the ILLOP trap; ERET in an activation takes
PRIVOP (08_scalar.md R153). -/
def Obligations.SystemInstructionsAndPrivilege : Prop := Sys2Proof.Claims.TrapInstructionTraps ∧ Sys2Proof.Claims.SystemInstructionResults ∧ Sys2Proof.Claims.PrivilegedSystemAccessTraps

/-! ### Loads and stores -/

/-- R136, R137 and R63: a load of local bytes that are aligned and within the range writes the value, sign- or zero-extended, to
its destination; nothing else changes, and no byte of memory does. -/
def Obligations.LocalLoadResults : Prop :=
  ∀ (i : Instr) (g : Guard) (w n : Nat) (sg : Bool) (d : SReg) (ea : Regs → Word) (s : State),
    loadRow i = some (g, w, n, sg, d, ea) → i.wf = true → Ready g w i.bytes s → s.core.calm →
      localReady s (ea s.core.regs) n false →
        SetsRegs i s (s.core.regs.ws d
          (extended n sg ((List.range n).map fun j => s.core.scratch.read (s.core.span.1 + (ea s.core.regs).toNat + j))))

/-- R136 to R138: a load through the interleaved or the bank-linear view with nothing of its own outstanding writes the value at
the translated address; an answer of device memory is added to the core's profiling accumulator (24_debug.md R376). -/
def Sys2Proof.Claims.DeviceLoadResults : Prop :=
  ∀ (i : Instr) (g : Guard) (w n : Nat) (sg : Bool) (d : SReg) (ea : Regs → Word) (s u : State) (pl : Place) (pa : Nat),
    loadRow i = some (g, w, n, sg, d, ea) → i.wf = true → Ready g w i.bytes s → (ea s.core.regs).toNat % n = 0 →
      s.overtakes (ea s.core.regs) n = false → s.core.posted = [] → s.pkg.badUnits = [] → placeOf s (ea s.core.regs) = some pl →
        ((∃ va, pl = .inter va ∧ s.translate .read va = some (pa, u)) ∨ (pl = .linear pa ∧ u = s)) →
          ∃ t, exec i s = .next t
            ∧ After i.bytes (((u.activate pa n).respond pl (ea s.core.regs) pa).ws d
                (extended n sg ((List.range n).map fun j => s.devByte (pa + j)))) t

/-- R136, R138, 12_memory.md R199: a load of a resident actor's window writes the value that stands at the window's place in that
actor's region, and changes no byte. A load of an actor beyond the state holds issue for its answer. -/
def Sys2Proof.Claims.ActorLoadResults : Prop :=
  ∀ (i : Instr) (g : Guard) (w n : Nat) (sg : Bool) (d : SReg) (ea : Regs → Word) (s : State) (pk : Option Nat) (aid : BitVec 24)
    (off : Nat),
    loadRow i = some (g, w, n, sg, d, ea) → i.wf = true → Ready g w i.bytes s → (ea s.core.regs).toNat % n = 0 →
      s.overtakes (ea s.core.regs) n = false → s.core.posted = [] → s.queueing (ea s.core.regs) = false →
        placeOf s (ea s.core.regs) = some (.actor pk aid off) →
          (∀ k p, s.reach pk aid off n .load = .at_ k p → (focus k s).core.calm →
            ∃ t, exec i s = .next t
              ∧ After i.bytes ((s.respond (.actor pk aid off) (ea s.core.regs) 0).ws d
                  (extended n sg ((List.range n).map fun j => (focus k s).core.scratch.read (p + j)))) t)
          ∧ ∀ near, s.reach pk aid off n .load = .away near → s.addrHeld (ea s.core.regs) = false →
            ∃ t, exec i s = .next t
              ∧ AfterStay (s.mapCore fun c => { c with await := some { kind := .load n sg d, addr := ea s.core.regs, len := i.bytes } }) t

/-- R136, R137: a local store writes the low bytes of its data register, lowest byte first, at its effective address: every other
byte, and every register but the program counter, stands. -/
def Sys2Proof.Claims.LocalStoreResults : Prop :=
  ∀ (i : Instr) (g : Guard) (w n : Nat) (d : SReg) (ea : Regs → Word) (s : State),
    storeRow i = some (g, w, n, d, ea) → i.wf = true → Ready g w i.bytes s → s.core.calm → s.core.scratch.wf = true →
      localReady s (ea s.core.regs) n true →
        ∃ t, exec i s = .next t ∧ t.core.regs = s.core.regs.advance i.bytes
          ∧ ∃ m, t.beside = ({ s with core := { s.core with scratch := m } } : State).beside ∧ t.core.scratch = m
            ∧ Holds m s.core.scratch (s.core.span.1 + (ea s.core.regs).toNat) n (s.core.regs.rs d)

/-- R139: a store to any view but local is posted: it raises one of the two counts by one, and no byte of memory changes at its
issue. When it arrives at device memory its bytes, and no others, stand there; its acknowledgement lowers the count. -/
def Sys2Proof.Claims.PostedStoreResults : Prop :=
  (∀ (i : Instr) (g : Guard) (w n : Nat) (d : SReg) (ea : Regs → Word) (s u : State) (pl : Place) (pa : Nat),
    storeRow i = some (g, w, n, d, ea) → i.wf = true → Ready g w i.bytes s → (ea s.core.regs).toNat % n = 0 →
      placeOf s (ea s.core.regs) = some pl →
        ((∃ va, pl = .inter va ∧ s.translate .write va = some (pa, u)) ∨ (pl = .linear pa ∧ u = s)
          ∨ ((∃ pk aid off, pl = .actor pk aid off) ∧ pa = 0 ∧ u = s)) →
          ∃ t, exec i s = .next t
            ∧ After i.bytes (u.plusPost (postedStore s (s.near pl) (ea s.core.regs) (normal pl (ea s.core.regs)) pa n (s.core.regs.rs d))) t
            ∧ t.core.posts (s.near pl) = s.core.posts (s.near pl) + 1 ∧ t.core.posts (!s.near pl) = s.core.posts (!s.near pl)
            ∧ (∀ q, t.devByte q = s.devByte q) ∧ ∀ q, t.localByte q = s.localByte q)
    ∧ (∀ (p : Posted) (n : Nat) (w : Word) (s : State), s.core.posted.find? (fun x => x.id == p.id) = some p → mayArrive s p = true →
        p.kind = .store ((List.range n).map fun j => byteOf w j) → ((∃ va, placeOf s p.addr = some (.inter va)) ∨ placeOf s p.addr = some (.linear p.pa)) →
          s.pkg.dmem.wf = true →
            ∃ t, exec (.remoteStoreArrival (.own p.id)) s = .next t ∧ Holds t.pkg.dmem s.pkg.dmem p.pa n w
              ∧ t.core.posted = s.core.posted.map (fun x => if x.id = p.id then { x with stage := .performed {} } else x)
              ∧ t.core.regs = s.core.regs ∧ t.core.scratch = s.core.scratch)
    ∧ ∀ (p : Posted) (f : Flags) (s : State), s.core.posted.find? (fun x => x.id == p.id) = some p → p.stage = .performed f →
        ∃ t, exec (.ackReturn p.id) s = .next t ∧ t.core.posted = s.core.posted.filter (fun x => x.id != p.id)
          ∧ t.core.regs = { s.core.regs with fpctl := s.core.regs.fpctl ||| BitVec.ofNat 64 f.toNat }
          ∧ t.core.scratch = s.core.scratch ∧ t.pkg = s.pkg

/-- R136, R137: a local store writes the low bytes of its data register, lowest byte first, at its effective address: every other
byte, and every register but the program counter, stands.
R139: a store to any view but local is posted: it raises one of the two counts by one, and no byte of memory changes at its
issue. When it arrives at device memory its bytes, and no others, stand there; its acknowledgement lowers the count. -/
def Obligations.StoreResults : Prop := Sys2Proof.Claims.LocalStoreResults ∧ Sys2Proof.Claims.PostedStoreResults

/-- R140: the faults of loads and stores in their order: ASPACE, ALIGN, LRANGE, XFAULT, and for loads ADEAD, WNACK and MEMERR,
each a precise trap with the effective address in TVAL, every register and byte before it unchanged. A page table that cannot be
read is MEMERR (22_scheduling_faults.md R357); an answer that refuses is added to the profiling accumulator (24_debug.md R376). The rows that
the walk and the access read count their activations (20_nearmem.md R309, as log entry 3 reads it). -/
def Obligations.AccessFaultsInOrder : Prop :=
  (∀ (i : Instr) (g : Guard) (w n : Nat) (ea : Regs → Word) (s : State),
    ((∃ sg d, loadRow i = some (g, w, n, sg, d, ea)) ∨ ∃ d, storeRow i = some (g, w, n, d, ea)) → i.wf = true → Issues g w s →
      let a := ea s.core.regs
      let traps (c : Cause) : Prop := exec i s = .next (s.noted.trapNow c a)
      (placeOf s a = none → traps .aspace)
      ∧ ((placeOf s a).isSome → a.toNat % n ≠ 0 → traps .align)
      ∧ (a.toNat < 2 ^ 60 → a.toNat % n = 0 → s.core.span.2 < a.toNat + n → s.overtakes a n = false → traps .lrange))
    ∧ (∀ (i : Instr) (g : Guard) (w n : Nat) (sg : Bool) (d : SReg) (ea : Regs → Word) (s : State),
        loadRow i = some (g, w, n, sg, d, ea) → i.wf = true → Issues g w s → (ea s.core.regs).toNat % n = 0 →
          s.overtakes (ea s.core.regs) n = false → s.queueing (ea s.core.regs) = false → s.core.posted = [] →
            let a := ea s.core.regs
            let missed (va : Nat) (c : Cause) : Prop := exec i s = .next ((s.noted.missed va).trapNow c a)
            let answered (pl : Place) (pa : Nat) (c : Cause) : Prop := exec i s = .next ((s.noted.respond pl a pa).trapNow c a)
            (∀ va, placeOf s a = some (.inter va) → s.translate .read va = none → s.tableLost va = false → missed va .xfault)
            ∧ (∀ va, placeOf s a = some (.inter va) → s.translate .read va = none → tlbFind s.grove.tlb s.core.tenant va = none → s.tableLost va = true → missed va .memerr)
            ∧ (∀ pk aid off, placeOf s a = some (.actor pk aid off) → s.reach pk aid off n .load = .no .adead → answered (.actor pk aid off) 0 .adead)
            ∧ (∀ pk aid off, placeOf s a = some (.actor pk aid off) → s.reach pk aid off n .load = .no .wnack → answered (.actor pk aid off) 0 .wnack)
            ∧ (∀ va pa u, placeOf s a = some (.inter va) → s.translate .read va = some (pa, u) → s.pkg.memLost pa n = true →
                exec i s = .next (((s.noted.respond (.inter va) a pa).counting (u.activate pa n).pkg.acts).trapNow .memerr a))
            ∧ (∀ pa, placeOf s a = some (.linear pa) → s.pkg.memLost pa n = true →
                exec i s = .next (((s.noted.respond (.linear pa) a pa).counting (s.activate pa n).pkg.acts).trapNow .memerr a))
            ∧ (localReady s a n false → s.core.health.lostIn (s.core.span.1 + a.toNat) n = true →
                exec i s = .next ((s.noted.touchStore 0 (s.core.span.1 + a.toNat) n).trapNow .memerr a)))
    ∧ ∀ (i : Instr) (g : Guard) (w n : Nat) (d : SReg) (ea : Regs → Word) (s : State) (va : Nat),
        storeRow i = some (g, w, n, d, ea) → i.wf = true → Issues g w s → (ea s.core.regs).toNat % n = 0 →
          placeOf s (ea s.core.regs) = some (.inter va) → s.translate .write va = none →
            exec i s = .next ((s.noted.missed va).trapNow (if tlbFind s.grove.tlb s.core.tenant va = none ∧ s.tableLost va = true then .memerr else .xfault) (ea s.core.regs))

/-- 08_scalar.md R138: the data of a load that holds issue returns: the destination receives it, and the program counter moves on;
a refusal is a precise trap of the load. -/
def Sys2Proof.Claims.LoadDataReturns : Prop :=
  ∀ (n : Nat) (sg : Bool) (d : SReg) (a : Word) (len : Nat) (near : Bool) (pk : Option Nat) (aid : BitVec 24) (off : Nat) (s : State),
    s.core.ganged = false → s.core.mgmt = false → s.core.await = some { kind := .load n sg d, addr := a, len := len } →
      placeOf s a = some (.actor pk aid off) → s.place pk aid = .away near → runsOff s.core len = false →
        (∀ v : Word, v.toNat < 256 ^ n →
          ∃ t, exec (.loadDataReturn (.value v)) s = .next t
            ∧ After len (((s.respond (.actor pk aid off) a 0).ws d
                (if sg then (BitVec.ofNat (8 * n) v.toNat).signExtend 64 else v)).mapCore fun c => { c with await := none }) t)
        ∧ exec (.loadDataReturn (.refuse .wnack)) s
            = .next (((s.respond (.actor pk aid off) a 0).mapCore fun c => { c with await := none }).trapNow .wnack a)

/-- R136 to R138: a load through the interleaved or the bank-linear view with nothing of its own outstanding writes the value at
the translated address; an answer of device memory is added to the core's profiling accumulator (24_debug.md R376).
R136, R138, 12_memory.md R199: a load of a resident actor's window writes the value that stands at the window's place in that
actor's region, and changes no byte. A load of an actor beyond the state holds issue for its answer.
08_scalar.md R138: the data of a load that holds issue returns: the destination receives it, and the program counter moves on;
a refusal is a precise trap of the load.
The place of a bank in device memory is the model's choice (log entry 5). -/
def Obligations.LoadsBeyondLocal : Prop := Sys2Proof.Claims.DeviceLoadResults ∧ Sys2Proof.Claims.ActorLoadResults ∧ Sys2Proof.Claims.LoadDataReturns

/-! ### Branches, loops, tasks -/

/-- R141, R144: a branch that is taken and whose target passes the checks writes its link, sets the program counter to its target,
and deactivates the loops whose body does not hold the target; nothing else changes. -/
def Sys2Proof.Claims.TakenBranches : Prop :=
  (∀ (i : Instr) (g : Guard) (target : Regs → Word) (link : Regs → Regs) (s : State),
    branchRow i = some (g, target, link) → i.wf = true → Issues g 0 s → targetFault s.core (target s.core.regs) = none →
      ∃ t, exec i s = .next t
        ∧ AfterJump (target s.core.regs) (s.mapRegs link) t)
    ∧ ∀ (r : Regs) (a : Word), r.transfer a = { r with
        pc := a
        lc := r.lc.map fun l => if l.active && !(decide (l.start ≤ a) && decide (a < l.exit)) then { l with active := false } else l }

/-- 04_formats.md R82, R83, 18_messages.md R289: a taken branch to a target that is not aligned raises IALIGN; else one out of a
block of carried code raises CCODE, and elsewhere one that is no canonical interleaved address raises ASPACE, with the target in
TVAL. An instruction of carried code whose sequential successor stands at the block's end raises CCODE with that address, said for the
scalar integer instructions, and FORK, JOIN and YIELD raise it with their own. -/
def Sys2Proof.Claims.BranchTargetFaults : Prop :=
  (∀ (i : Instr) (g : Guard) (target : Regs → Word) (link : Regs → Regs) (s : State),
    branchRow i = some (g, target, link) → i.wf = true → Issues g 0 s → s.core.regs.gangix = 0 →
      let a := target s.core.regs
      let traps (c : Cause) : Prop := exec i s = .next (s.noted.trapNow c a)
      (a.toNat % 4 ≠ 0 → traps .ialign)
      ∧ (a.toNat % 4 = 0 → ∀ b, s.core.block = some b → ¬(b.lo ≤ a.toNat ∧ a.toNat < b.hi) → traps .ccode)
      ∧ (a.toNat % 4 = 0 → s.core.block = none → a.toNat / 2 ^ 48 ≠ 0x1000 → traps .aspace))
    ∧ ∀ (b : Range) (s : State), s.core.block = some b →
        let traps (i : Instr) : Prop := exec i s = .next (s.noted.trapNow .ccode s.core.regs.pc)
        (∀ (i : Instr) (g : Guard) (d : SReg) (f : Regs → Word), aluRow i = some (g, d, f) → i.wf = true → Issues g 0 s →
          let a : Word := s.core.regs.pc + BitVec.ofNat 64 i.bytes
          b.hi ≤ a.toNat → exec i s = .next (s.noted.trapNow .ccode a))
        ∧ (∀ x : FkF, (Instr.fork x).wf = true → Issues x.h.g 0 s → traps (.fork x))
        ∧ (∀ x : JnF, (Instr.join x).wf = true → Issues Guard.none 0 s → traps (.join x))
        ∧ ∀ (x : SysF) (a : Activation) (aid : BitVec 24) (off : Nat), (Instr.yield x).wf = true → Issues x.h.g 0 s → s.core.act = some a →
            a.src = .message aid off → traps (.yield x)

/-- R141, R144: a branch that is taken and whose target passes the checks writes its link, sets the program counter to its target,
and deactivates the loops whose body does not hold the target; nothing else changes.
04_formats.md R82, R83, 18_messages.md R289: a taken branch to a target that is not aligned raises IALIGN; else one out of a
block of carried code raises CCODE, and elsewhere one that is no canonical interleaved address raises ASPACE, with the target in
TVAL. An instruction of carried code whose sequential successor stands at the block's end raises CCODE with that address, said for the
scalar integer instructions, and FORK, JOIN and YIELD raise it with their own.
The link of a form with an ignored literal and TVAL of CCODE are the model's reading (log entries 41, 10). -/
def Obligations.BranchesAndTheirFaults : Prop := Sys2Proof.Claims.TakenBranches ∧ Sys2Proof.Claims.BranchTargetFaults

/-- 08_scalar.md R142: LOOP starts a loop on its counter with the body from PC + 4 to PC + 4 × off10, or passes over it when the
count is 0; a loop that would end past an active loop around it raises ILLOP, and one of carried code that would end past its block's
last word CCODE (18_messages.md R289). -/
def Sys2Proof.Claims.LoopStarts : Prop :=
  ∀ (x : LpF) (s : State), (Instr.loop x).wf = true → Issues Guard.none 0 s →
    let r := s.core.regs
    let exit : Word := r.pc + x.off.signExtend 64 * 4
    let nested : Prop := ∀ k : Fin 4, r.lc[k].active = true → r.lc[k].start ≤ r.pc → r.pc < r.lc[k].exit → ¬(r.lc[k].exit < exit)
    let inBlock : Prop := ∀ b, s.core.block = some b → exit.toNat + 4 ≤ b.hi
    (nested → inBlock → (r.rs x.a).setWidth 32 ≠ 0 →
      ∃ t, exec (.loop x) s = .next t
        ∧ t.core.regs = { r with
            pc := r.pc + 4
            lc := r.lc.set x.lc { cnt := (r.rs x.a).setWidth 32, start := r.pc + 4, exit := exit, active := true, ord := s.core.loopOrd } }
        ∧ t.beside = (s.mapCore fun c => { c with loopOrd := c.loopOrd + 1 }).beside)
    ∧ (nested → inBlock → (r.rs x.a).setWidth 32 = 0 →
        ∃ t, exec (.loop x) s = .next t
          ∧ t.core.regs = { r with pc := exit, lc := r.lc.set x.lc { r.lc[x.lc] with active := false } } ∧ t.beside = s.beside)
    ∧ (nested → ¬inBlock → exec (.loop x) s = .next (s.noted.trapNow .ccode exit))
    ∧ (¬nested → exec (.loop x) s = .next (s.noted.trapNow .illop ((firstWord (.loop x)).setWidth 64)))

/-- 08_scalar.md R143: the exit test at the successor of an instruction of len bytes. With no active loop that exits there the
successor runs; else the loop most recently made active counts down, and repeats, or is deactivated and the test goes on. -/
def Sys2Proof.Claims.LoopExitTest : Prop :=
  ∀ (r : Regs) (len : Nat),
    let succ : Word := r.pc + BitVec.ofNat 64 len
    ((∀ k : Fin 4, r.lc[k].active = true → r.lc[k].exit ≠ succ) → r.advance len = { r with pc := succ })
    ∧ ∀ k : Fin 4, r.lc[k].active = true → r.lc[k].exit = succ →
        (∀ j : Fin 4, j ≠ k → r.lc[j].active = true → r.lc[j].exit = succ → r.lc[j].ord < r.lc[k].ord) →
          (r.lc[k].cnt ≠ 1 → r.advance len = { r with pc := r.lc[k].start, lc := r.lc.set k { r.lc[k] with cnt := r.lc[k].cnt - 1 } })
          ∧ (r.lc[k].cnt = 1 →
              r.advance len = ({ r with lc := r.lc.set k { r.lc[k] with cnt := 0, active := false } } : Regs).advance len)

/-- 08_scalar.md R142: LOOP starts a loop on its counter with the body from PC + 4 to PC + 4 × off10, or passes over it when the
count is 0; a loop that would end past an active loop around it raises ILLOP, and one of carried code that would end past its block's
last word CCODE (18_messages.md R289).
08_scalar.md R143: the exit test at the successor of an instruction of len bytes. With no active loop that exits there the
successor runs; else the loop most recently made active counts down, and repeats, or is deactivated and the test goes on.
That the body of a LOOP with a literal starts at PC + 4 is the model's reading (log entry 41). -/
def Obligations.HardwareLoops : Prop := Sys2Proof.Claims.LoopStarts ∧ Sys2Proof.Claims.LoopExitTest

/-- 08_scalar.md R150, R151: END ends the activation once every command has committed and the counts are drained, and holds until
then; YIELD of a task pushes a record that goes on at PC + 4 and ends the activation in the same way, or raises DQFULL where the deque
and the overflow ring are full; YIELD of a message activation does nothing. -/
def Obligations.EndAndYield : Prop :=
  (∀ (x : SysF) (s : State), (Instr.endAct x).wf = true → Issues x.h.g 0 s →
    (s.core.cmds = [] → s.core.drained = true → ∃ t, exec (.endAct x) s = .next t ∧ AfterStay s.endActivation t)
    ∧ (¬(s.core.cmds = [] ∧ s.core.drained = true) → ∃ t, exec (.endAct x) s = .next t ∧ AfterStay s t ∧ t.core.hold = true))
    ∧ (∀ (s : State) (a : Activation), s.core.act = some a → s.endActivation.core.act = none ∧ s.endActivation.core.regs = s.core.regs
        ∧ s.endActivation.core.scratch = s.core.scratch ∧ s.endActivation.pkg.dmem = s.pkg.dmem)
    ∧ (∀ (x : SysF) (s : State) (a : Activation) (r : TaskRec), (Instr.yield x).wf = true → Issues x.h.g 0 s → s.core.act = some a →
        a.src = .task r →
          let u := s.pushedRec (newRecord s a (s.core.regs.pc + 4) r.join)
          (s.recRoom → s.core.cmds = [] → s.core.drained = true → ∃ t, exec (.yield x) s = .next t ∧ AfterStay u.endActivation t)
          ∧ (s.recRoom → a.carried = none → ¬(s.core.cmds = [] ∧ s.core.drained = true) →
              ∃ t, exec (.yield x) s = .next t
                ∧ AfterStay (u.mapCore fun c => { c with await := some { kind := .ending, addr := 0, len := (Instr.yield x).bytes } }) t)
          ∧ (¬s.recRoom → exec (.yield x) s = .next (s.noted.trapNow .dqfull 0)))
    ∧ (∀ (w : Await) (s : State), s.core.ganged = false → s.core.await = some w → w.kind = .ending → s.core.cmds = [] → s.core.drained = true →
        ∃ t, waitTurn s = .next t ∧ AfterStay s.endActivation t)
    ∧ ∀ (x : SysF) (s : State) (a : Activation) (aid : BitVec 24) (off : Nat), (Instr.yield x).wf = true →
        Ready x.h.g 0 (Instr.yield x).bytes s → s.core.act = some a → a.src = .message aid off → a.carried = none →
          SetsRegs (.yield x) s s.core.regs

/-- 02_execution.md R42, R44, 08_scalar.md R145: FORK pushes the record of the other arm on the core's own deque, or where that is full
on the overflow ring, adds one to the join word by a posted atomic, and goes on; a join word in another view raises JADDR, a full deque
and overflow ring DQFULL, and a join word out of reach the cause of the access (where R145 has no step for it, log entry 59). -/
def Sys2Proof.Claims.ForkPushesARecord : Prop :=
  ∀ (x : FkF) (s : State) (a : Activation), (Instr.fork x).wf = true → Ready x.h.g 0 (Instr.fork x).bytes s → s.core.act = some a →
    a.carried = none →
      let j := s.core.regs.rs x.a
      let arm : Word := s.core.regs.pc + x.off.signExtend 64 * 4
      (s.recRoom → j = 0 →
        ∃ t, exec (.fork x) s = .next t ∧ After (Instr.fork x).bytes (s.pushedRec (newRecord s a arm 0)) t)
      ∧ (s.recRoom → j ≠ 0 → joinWordOk j → ∀ pl pa u,
          (((∃ va, placeOf s j = some (.inter va) ∧ pl = .inter va ∧ s.translate .write va = some (pa, u)))
            ∨ ((∃ pk aid off, placeOf s j = some (.actor pk aid off) ∧ pl = .actor pk aid off) ∧ pa = 0 ∧ u = s)) →
            let v := u.plusPost (forkAdd s (u.near pl) j (normal pl j) pa)
            ∃ t, exec (.fork x) s = .next t ∧ After (Instr.fork x).bytes (v.pushedRec (newRecord v a arm j)) t)
      ∧ (j ≠ 0 → ¬joinWordOk j → exec (.fork x) s = .next (s.noted.trapNow .jaddr j))
      ∧ (j = 0 ∨ joinWordOk j → ¬s.recRoom → exec (.fork x) s = .next (s.noted.trapNow .dqfull 0))
      ∧ (s.recRoom → j ≠ 0 → joinWordOk j → placeOf s j = none → exec (.fork x) s = .next (s.noted.trapNow .aspace j))
      ∧ (s.recRoom → j ≠ 0 → joinWordOk j → ∀ va, placeOf s j = some (.inter va) → s.translate .write va = none → s.tableLost va = false →
          exec (.fork x) s = .next ((s.noted.missed va).trapNow .xfault j))

/-- 08_scalar.md R146: JOIN takes one from its word, in device memory or in a resident actor's window; on zero the activation goes on at
PC + 4 × off15, else it ends. A word of an actor beyond the state is waited for. Until the counts are drained JOIN holds. A join word
in no admitted view raises JADDR. -/
def Sys2Proof.Claims.JoinContinuesOrEnds : Prop :=
  ∀ (x : JnF) (s : State) (a : Activation) (j : Word), (Instr.join x).wf = true → Issues Guard.none 0 s → s.core.act = some a →
    a.carried = none → (x.a ≠ 0 → j = s.core.regs.rs x.a) → (x.a = 0 → ∀ r, a.src = .task r → j = r.join) →
      (x.a = 0 → (∃ aid off, a.src = .message aid off) → j = 0) →
        (¬joinWordOk j → exec (.join x) s = .next (s.noted.trapNow .jaddr j))
        ∧ (joinWordOk j → s.core.drained = false → ∃ t, exec (.join x) s = .next t ∧ AfterStay s t ∧ t.core.hold = true)
        ∧ (∀ (pk : Option Nat) (aid : BitVec 24) (off : Nat), joinWordOk j → s.core.posted = [] → s.core.cmds = [] →
            placeOf s j = some (.actor pk aid off) → s.queueing j = false →
              (∀ k p, s.reach pk aid off 8 .atomic = .at_ k p → (focus k s).core.calm → (focus k s).core.scratch.wf = true →
                let old : Word := (focus k s).core.word p
                ∃ t, exec (.join x) s = .next t ∧ Holds (focus k t).core.scratch (focus k s).core.scratch p 8 (old - 1)
                  ∧ t.pkg.dmem = s.pkg.dmem
                  ∧ (old = 1 → t.core.act = some a ∧ t.core.regs = s.core.regs.transfer (s.core.regs.pc + x.off.signExtend 64 * 4))
                  ∧ (old ≠ 1 → t.core.act = none ∧ t.core.regs = s.core.regs))
              ∧ ∀ near, s.reach pk aid off 8 .atomic = .away near → s.addrHeld j = false →
                  ∃ t, exec (.join x) s = .next t
                    ∧ AfterStay (s.mapCore fun c => { c with await := some { kind := .join (s.core.regs.pc + x.off.signExtend 64 * 4), addr := j, len := (Instr.join x).bytes } }) t)
        ∧ ∀ (va pa : Nat) (u : State), joinWordOk j → s.core.posted = [] → s.core.cmds = [] → placeOf s j = some (.inter va) →
            s.translate .write va = some (pa, u) → s.pkg.dmem.wf = true → s.pkg.badUnits = [] →
              let old : Word := BitVec.ofNat 64 (leNat (s.pkg.dmem.readN pa 8))
              ∃ t, exec (.join x) s = .next t ∧ Holds t.pkg.dmem s.pkg.dmem pa 8 (old - 1) ∧ t.core.scratch = s.core.scratch
                ∧ (old = 1 → t.core.act = some a ∧ t.core.regs = s.core.regs.transfer (s.core.regs.pc + x.off.signExtend 64 * 4))
                ∧ (old ≠ 1 → t.core.act = none ∧ t.core.regs = s.core.regs)

/-- 02_execution.md R42, R44, 08_scalar.md R145: FORK pushes the record of the other arm on the core's own deque, or where that is full
on the overflow ring, adds one to the join word by a posted atomic, and goes on; a join word in another view raises JADDR, a full deque
and overflow ring DQFULL, and a join word out of reach the cause of the access (where R145 has no step for it, log entry 59).
08_scalar.md R146: JOIN takes one from its word, in device memory or in a resident actor's window; on zero the activation goes on at
PC + 4 × off15, else it ends. A word of an actor beyond the state is waited for. Until the counts are drained JOIN holds. A join word
in no admitted view raises JADDR. -/
def Obligations.ForkAndJoin : Prop := Sys2Proof.Claims.ForkPushesARecord ∧ Sys2Proof.Claims.JoinContinuesOrEnds

/-! ### The V engine -/

/-- 04_formats.md R58, R79, 06_numbers.md R111: a command captures at issue the resolved rounding mode, SRSEED, SRSTREAM and SRCTR,
its scalar operands, its work identifier, actor and launch slot, and its activation's local range; under SR, and only then, SRCTR
advances by its lanes (times the gang's size in the V queue). No later register write reaches it. -/
def Obligations.CommandsCaptureAtIssue : Prop :=
  ∀ (u : Req) (s : State),
    let k := u.cmd s
    k.rc.mode = s.core.regs.mode u.x.rm.val ∧ k.rc.seed = s.core.regs.srseed ∧ k.rc.stream = s.core.regs.srstream ∧ k.rc.ctr = s.core.regs.srctr
      ∧ k.sa = s.core.regs.rs u.x.a ∧ k.sb = s.core.regs.rs u.x.b ∧ k.sc = s.core.regs.rs u.x.c ∧ k.aid = s.core.regs.aid
      ∧ k.wid = s.core.regs.wid ∧ (k.base, k.size) = s.core.span ∧ (∀ a, s.core.act = some a → k.slot = a.slot)
      ∧ k.x = u.x ∧ k.q = u.q ∧ k.reads = u.reads ∧ k.writes = u.writes ∧ k.lrec = u.lrec
      ∧ ((s.taken u).core.regs = if k.rc.mode = .sr
          then { s.core.regs with srctr := s.core.regs.srctr + BitVec.ofNat 64 (u.lanes * (if u.q = .v then s.gangSize else 1)) }
          else s.core.regs)
      ∧ ((s.taken u).core.queue u.q).length = (s.core.queue u.q).length + 1
      ∧ ∀ f : Regs → Regs, ((s.taken u).mapRegs f).core.cmds = (s.taken u).core.cmds

/-- 12_memory.md R224: an instruction that finds its queue full holds, or raises QDEAD with the queue's number when every command of
the queue is blocked on an external condition. It is said for one instruction of each queue; the numbers are those of R214. -/
def Obligations.FullQueueHoldsOrRaisesQdead : Prop :=
  ∀ (i : Instr) (x : XOp) (q : Queue) (ok : Prop) (s : State), queueRow s i = some (x, q, ok) → ok → i.wf = true → Issues x.h.g x.wait.val s →
    16 ≤ (s.core.queue q).length →
      (s.queueDead q = false → ∃ t, exec i s = .next t ∧ AfterStay s t ∧ t.core.hold = true)
      ∧ (s.queueDead q = true → exec i s = .next (s.noted.trapNow .qdead
          (match q with | .v => 0 | .m => 1 | .s => 2 | .e => 3 | .g => 4 | .l => 5 | .q => 6 | .n => 7)))

/-- 10_vector_matrix.md R160 to R162: every VARITH instruction issues one command with a lane for each element, and its commit gives
each active element of vd the result of the table, with the flags of the active elements accrued. -/
def Sys2Proof.Claims.VectorArithmeticResults : Prop :=
  ∀ (i : Instr) (x : XOp) (fo : Option (FFmt → RMode → Nat → Int → FVal → FVal → FVal → FVal × Flags))
    (io : Option (Nat → Int → Int → Int → Int)),
    varithRow i = some (x, fo, io) → VCommand i x (512 / tyBits x.ty.val) [] (varithRel fo io)

/-- 10_vector_matrix.md R163: every VLOGIC instruction's commit gives each active element of vd the bitwise result of the table, and
raises no flag. -/
def Sys2Proof.Claims.VectorLogicResults : Prop :=
  ∀ (i : Instr) (x : XOp) (op : (w : Nat) → BitVec w → BitVec w → Nat → BitVec w),
    vlogicRow i = some (x, op) → VCommand i x (512 / tyBits x.ty.val) [] (vlogicRel op)

/-- 10_vector_matrix.md R164 to R167: the vector compares and VCLASS write the mask bits of the active elements, VSEL selects
elements by its mask, and the mask instructions work on all 64 bits; m0 discards its write. -/
def Sys2Proof.Claims.VectorCompareAndMaskResults : Prop :=
  (∀ (i : Instr) (x : XOp) (fo : FVal → FVal → Bool) (io : Option (Int → Int → Bool)),
    vcompareRow i = some (x, fo, io) → VCommand i x 0 [] (vcompareRel fo io))
    ∧ (∀ x : XOp, VCommand (.vclass x) x 0 [] fun k s u =>
        ∀ f, fmtOf k.x.ty.val = some f → 8 ≤ tyBits k.x.ty.val →
          MaskBecomes (tyBits k.x.ty.val) (fun j => k.x.w2.getLsbD (classBit f (f.unpack (elemsOf k s j).1))) k s u)
    ∧ (∀ x : XOp, VCommand (.vsel x) x 0 [] fun k s u =>
        ElemsBecome (tyBits k.x.ty.val) (fun j =>
          (if (s.core.regs.rm (maskReg k.x.c)).getLsbD (j * tyBits k.x.ty.val / 8) then (elemsOf k s j).1 else (elemsOf k s j).2.1, noFlags)) k s u)
    ∧ (∀ (i : Instr) (x : XOp) (dst : List SReg) (f : Cmd → Regs → Regs), vmaskRow i = some (x, dst, f) →
        VCommand i x 0 dst fun k s u => u = s.mapRegs (f k))
    ∧ ∀ (r : Regs) (v : Word), r.wm 0 v = r ∧ r.rm 0 = 0xFFFFFFFFFFFFFFFF

/-- 10_vector_matrix.md R160 to R162: every VARITH instruction issues one command with a lane for each element, and its commit gives
each active element of vd the result of the table, with the flags of the active elements accrued.
10_vector_matrix.md R163: every VLOGIC instruction's commit gives each active element of vd the bitwise result of the table, and
raises no flag.
10_vector_matrix.md R164 to R167: the vector compares and VCLASS write the mask bits of the active elements, VSEL selects
elements by its mask, and the mask instructions work on all 64 bits; m0 discards its write. -/
def Obligations.VectorLaneResults : Prop := Sys2Proof.Claims.VectorArithmeticResults ∧ Sys2Proof.Claims.VectorLogicResults ∧ Sys2Proof.Claims.VectorCompareAndMaskResults

/-- 10_vector_matrix.md R168 to R173: VCVT, VALIGN with its probe, VPKE2, VUNPE2 and VHIST issue one command each, and their commits
leave in vd what their rules say, with the flags and, for VCVT with X = 1, the counts of its context. -/
def Obligations.VectorConversionResults : Prop :=
  (∀ x : XOp, VCommand (.vcvt x) x (512 / max (tyBits (x.w2f 0 4)) (tyBits x.ty.val)) [] vcvtRel)
    ∧ (∀ x : XOp, VCommand (.valign x) x 32 [] fun k s u => k.x.w2f 5 1 = 0 → valignRel k s u)
    ∧ (∀ x : XOp, VCommand (.valignp x) x 32 [x.d] fun k s u =>
        k.x.w2f 5 1 = 1 → u = s.mapRegs fun r => r.ws k.x.d (BitVec.ofInt 64 (blockEb k s)))
    ∧ (∀ x : XOp, VCommand (.vpke2 x) x 32 [] vpke2Rel)
    ∧ (∀ x : XOp, VCommand (.vunpe2 x) x 0 [] vunpe2Rel)
    ∧ ∀ x : XOp, VCommand (.vhist x) x 0 [] vhistRel

/-- 10_vector_matrix.md R155, R157, R174: VBCAST writes sa to the active elements of vd; the permutations take active elements of vd
from the elements of va and vb that the table names; VINS writes one element, VEXTR one scalar, VCOMP packs the active elements to
the front, VEXPD spreads them. In a lone core the elements are its own; in a gang they are those of the joint vector, the commands
of all members commit together, and each member receives its part. -/
def Obligations.VectorPermutationResults : Prop :=
  (∀ x : XOp, VCommand (.vbcast x) x 0 [] fun k s u => ElemsBecome (tyBits k.x.ty.val) (fun _ => (k.sa.toNat, noFlags)) k s u)
    ∧ (∀ (i : Instr) (x : XOp) (f : Nat → (Nat → Nat) → (Nat → Nat) → Nat → Nat → Nat), vpermRow i = some (x, f) →
        VJoint i x 0 [] (vpermRel f) (vpermJoint f))
    ∧ (∀ x : XOp, VJoint (.vins x) x 0 []
        (fun k s u =>
          ElemsBecome (tyBits k.x.ty.val) (fun j => (if j = k.x.w2.toNat then k.sa.toNat else s.core.regs.elem k.x.d (tyBits k.x.ty.val) j, noFlags)) k s u)
        fun k _ m r q => PartBecomes k m r q fun p j =>
          if p = k.x.w2.toNat ∧ activeAt (r.rm k.x.mask) (tyBits k.x.ty.val) j then k.sa.toNat else r.elem k.x.d (tyBits k.x.ty.val) j)
    ∧ (∀ x : XOp, VJoint (.vextr x) x 0 [x.d]
        (fun k s u => k.x.w2.toNat < 512 / tyBits k.x.ty.val →
          u = s.mapRegs fun r => r.ws k.x.d (extractedWord k.x.ty.val (elemsOf k s k.x.w2.toNat).1))
        fun k cs _ r q => k.x.w2.toNat < jointSize k →
          q = r.ws k.x.d (extractedWord k.x.ty.val (jointElem cs k.x.a (tyBits k.x.ty.val) k.x.w2.toNat)))
    ∧ (∀ x : XOp, VJoint (.vcomp x) x 0 []
        (fun k s u => ∃ v : VWord,
          IsElems v (tyBits k.x.ty.val) (fun j => match (activeList k s)[j]? with | some p => (elemsOf k s p).1 | none => 0)
          ∧ u = s.mapRegs fun r => r.wv k.x.d v)
        fun k cs m r q =>
          let w := tyBits k.x.ty.val
          PartBecomes k m r q fun p _ =>
            match (jointOnes cs k.x.mask w (jointSize k))[p]? with | some h => jointElem cs k.x.a w h | none => 0)
    ∧ ∀ x : XOp, VJoint (.vexpd x) x 0 []
        (fun k s u => ElemsBecome (tyBits k.x.ty.val) (fun j =>
          ((elemsOf k s ((List.range j).countP fun i => activeAt (s.core.regs.rm k.x.mask) (tyBits k.x.ty.val) i)).1, noFlags)) k s u)
        fun k cs m r q =>
          let w := tyBits k.x.ty.val
          let ones := jointOnes cs k.x.mask w (jointSize k)
          PartBecomes k m r q fun p j =>
            if p ∈ ones then jointElem cs k.x.a w (ones.countP fun h => decide (h < p)) else r.elem k.x.d w j

/-- 10_vector_matrix.md R155, R157, R175: an integer reduction writes the exact sum, dot product, least or greatest of the active
elements to the low bytes of vd and clears the rest; a float reduction writes the value of the fixed tree. In a gang the elements
are those of the joint vector, and every member's vd receives the result. -/
def Obligations.VectorReductionResults : Prop :=
  ∀ (i : Instr) (x : XOp) (n : Nat) (f : Bool → Nat → List (Int × Int) → Nat × Flags), vredRow i = some (x, n, f) →
    VJoint i x (n * (512 / tyBits x.ty.val)) [] (vredRel f) (vredJoint f)

/-- 10_vector_matrix.md R176, 12_memory.md R197: VLDR, VSTR and VLDBC of local bytes declare them and issue one command; its commit
loads or stores the active elements, and no other byte. In another view they raise ASPACE, misaligned ALIGN, past the range
LRANGE. -/
def Sys2Proof.Claims.VectorRowMemory : Prop :=
  (∀ (i : Instr) (x : XOp) (wr : Bool) (n : Nat) (s : State), vrowRow i = some (x, wr, n) → i.wf = true →
    let ea : Word := s.core.regs.rs x.a + x.w2.signExtend 64
    let al := max 1 (tyBits x.ty.val / 8)
    let traps (c : Cause) : Prop := exec i s = .next (s.noted.trapNow c ea)
    (Ready x.h.g x.wait.val i.bytes s → (s.core.queue .v).length < 16 → ea.toNat < 2 ^ 60 → ea.toNat % al = 0 →
      ea.toNat + n ≤ s.core.span.2 → ∃ sub, ∃ rg : Range, rg = { lo := s.core.span.1 + ea.toNat, hi := s.core.span.1 + ea.toNat + n } ∧
        Enqueues i s { q := .v, cls := 7, sub := sub, x := x, reads := if wr then [] else [rg], writes := if wr then [rg] else [] })
    ∧ (Issues x.h.g x.wait.val s → ¬(ea.toNat < 2 ^ 60) → traps .aspace)
    ∧ (Issues x.h.g x.wait.val s → ea.toNat < 2 ^ 60 → ea.toNat % al ≠ 0 → traps .align)
    ∧ (Issues x.h.g x.wait.val s → ea.toNat < 2 ^ 60 → ea.toNat % al = 0 → s.core.span.2 < ea.toNat + n → traps .lrange))
    ∧ ∀ (s : State) (k : Cmd) (rg : Range), s.ready .v = some k → k.cls = 7 → s.core.calm →
        (k.sub = 2 → k.reads = [rg] → CommitsAs .v k s fun s u =>
          ElemsBecome (tyBits k.x.ty.val) (fun j => (s.core.readElem rg.lo (tyBits k.x.ty.val) j, noFlags)) k s u)
        ∧ (k.sub = 4 → k.reads = [rg] → CommitsAs .v k s fun s u =>
            ElemsBecome (tyBits k.x.ty.val) (fun _ => (s.core.readElem rg.lo (tyBits k.x.ty.val) 0, noFlags)) k s u)
        ∧ (k.sub = 3 → k.writes = [rg] → s.core.scratch.wf = true → 
            ∃ t, exec (.commandCommit .v) s = .next t ∧ t.core.regs = s.core.regs ∧ t.pkg = s.pkg
              ∧ ∀ q, t.core.scratch.read q
                = if rg.lo ≤ q ∧ q < rg.lo + 64 ∧ activeAt (s.core.regs.rm k.x.mask) (tyBits k.x.ty.val) ((q - rg.lo) * 8 / tyBits k.x.ty.val)
                  then BitVec.ofNat 8 ((s.core.regs.rv k.x.d).toNat / 256 ^ (q - rg.lo)) else s.core.scratch.read q)

/-- 10_vector_matrix.md R177, 04_formats.md R78: VLD and VST of a legal record issue one command with the record captured; a record
that breaks a rule raises ILLOP. VLD's commit loads each register's active elements below e0 from its row and clears the active ones
above; VST's commit stores the active elements of its rows, and changes no byte outside them and no register. -/
def Sys2Proof.Claims.VectorTileMemory : Prop :=
  (∀ (i : Instr) (x : XOp) (wr : Bool) (s : State), tileRow i = some (x, wr) → i.wf = true →
    let r := s.core.regs.lrec x.l.val
    let legal : Prop := r.ty = x.ty.val ∧ r.flagI = false ∧ r.flagS = false ∧ r.rsv = 0 ∧ r.e0 ≤ 512 / tyBits x.ty.val ∧ 1 ≤ r.e1
      ∧ r.e1 ≤ 8 ∧ r.e2 = 1 ∧ x.d.val + r.e1 ≤ 32
    (Ready x.h.g x.wait.val i.bytes s → (s.core.queue .v).length < 16 → legal → ∀ g : Option Range,
      localRec s r x.ty.val 0 = .ok g → ∃ sub,
        Enqueues i s { q := .v, cls := 7, sub := sub, x := x, lrec := some r, reads := if wr then [] else g.toList, writes := if wr then g.toList else [] })
    ∧ (Issues x.h.g x.wait.val s → ¬legal → exec i s = .next (s.noted.trapNow .illop ((firstWord i).setWidth 64)))
    ∧ (Issues x.h.g x.wait.val s → legal → ∀ c, localRec s r x.ty.val 0 = .error c → exec i s = .next (s.noted.trapNow c r.base)))
    ∧ ∀ (s : State) (k : Cmd) (r : LRec), s.ready .v = some k → k.cls = 7 → k.lrec = some r → s.core.calm → k.x.d.val + r.e1 ≤ 32 →
        r.e0 ≤ 512 / tyBits k.x.ty.val →
        (k.sub = 0 → ∃ t, exec (.commandCommit .v) s = .next t ∧ t.core.scratch = s.core.scratch
          ∧ (∀ v : VReg, (∀ i < r.e1, v.val ≠ k.x.d.val + i) → t.core.regs.rv v = s.core.regs.rv v)
          ∧ ∀ i < r.e1, ∀ v : VReg, v.val = k.x.d.val + i → IsElems (t.core.regs.rv v) (tyBits k.x.ty.val) fun j =>
              if activeAt (s.core.regs.rm k.x.mask) (tyBits k.x.ty.val) j then
                (if j < r.e0 then s.core.readElem (tileRowAt k r i) (tyBits k.x.ty.val) j else 0)
              else s.core.regs.elem v (tyBits k.x.ty.val) j)
        ∧ (k.sub = 1 → s.core.scratch.wf = true → ∃ t, exec (.commandCommit .v) s = .next t ∧ t.core.regs = s.core.regs
            ∧ (∀ q, (∀ i < r.e1, ¬inRow k r i q) → t.core.scratch.read q = s.core.scratch.read q)
            ∧ ∀ i < r.e1, (∀ h < r.e1, i < h → ∀ q, ¬(inRow k r i q ∧ inRow k r h q)) → ∀ v : VReg, v.val = k.x.d.val + i → ∀ j < r.e0,
                activeAt (s.core.regs.rm k.x.mask) (tyBits k.x.ty.val) j →
                  t.core.readElem (tileRowAt k r i) (tyBits k.x.ty.val) j = s.core.regs.elem v (tyBits k.x.ty.val) j)

/-- 10_vector_matrix.md R176, 12_memory.md R197: VLDR, VSTR and VLDBC of local bytes declare them and issue one command; its commit
loads or stores the active elements, and no other byte. In another view they raise ASPACE, misaligned ALIGN, past the range
LRANGE.
10_vector_matrix.md R177, 04_formats.md R78: VLD and VST of a legal record issue one command with the record captured; a record
that breaks a rule raises ILLOP. VLD's commit loads each register's active elements below e0 from its row and clears the active ones
above; VST's commit stores the active elements of its rows, and changes no byte outside them and no register. -/
def Obligations.VectorMemory : Prop := Sys2Proof.Claims.VectorRowMemory ∧ Sys2Proof.Claims.VectorTileMemory

/-- 06_numbers.md R116 to R119, 04_formats.md R58: at commit the flags are OR-ed into FPCTL, and the values seen are counted in the
bins of their context, its greatest magnitude and its NaN bit merged, unless the context is off. That a NaN pattern which software has
left in MAXMAG stands, as a magnitude above all others, is the model's choice (DESIGN CHOICE, log entry 51); R117 does not speak of it. -/
def Obligations.CommitMergesFlagsAndStatistics : Prop :=
  (∀ (c : Core) (e : Effect), (c.merge e).regs = { c.regs with fpctl := c.regs.fpctl ||| BitVec.ofNat 64 e.flags.toNat })
    ∧ (∀ (c : Core) (e : Effect), c.stats.off.getLsbD e.hist = true → (c.merge e).stats.bins = c.stats.bins
        ∧ (c.merge e).stats.maxmag = c.stats.maxmag ∧ (c.merge e).stats.nanseen = c.stats.nanseen)
    ∧ ∀ (c : Core) (e : Effect), c.stats.off.getLsbD e.hist = false → e.prov = none →
        (∀ b : Fin 64, ((c.merge e).stats.bins[e.hist][b]).toNat
          = min (2 ^ 32 - 1) ((c.stats.bins[e.hist][b]).toNat + (e.seen.countP fun x => binOf x.fmt x.val == b.val)))
        ∧ (∀ (h : Fin 16) (b : Fin 64), h ≠ e.hist → (c.merge e).stats.bins[h][b] = c.stats.bins[h][b])
        ∧ ((c.merge e).stats.nanseen.getLsbD e.hist = (c.stats.nanseen.getLsbD e.hist || e.seen.any fun x => x.val.isNan))
        ∧ ((∀ x ∈ e.seen, x.val.isNan = false → magUp x.val ≤ 0x7F800000) →
            c.stats.maxmag[e.hist].getLsbD 31 = false →
              ((c.merge e).stats.maxmag[e.hist]).toNat
                = (e.seen.filter fun x => !x.val.isNan).foldl (fun m x => max m (magUp x.val)) (c.stats.maxmag[e.hist]).toNat)

/-! ### The matrix macro -/

/-- 10_vector_matrix.md R179 to R183, R186, R189 to R191: the MATRIX instructions with a legal record and the right to the macro
issue one command into the M queue with their record, their declared bytes, their lanes and their clearing request; an MLDB of an
actor that finds the macro unowned owns it from its issue. MCLR, MSHR and MREL take no record. -/
def Sys2Proof.Claims.MatrixInstructionsIssue : Prop :=
  (∀ (x : XOp) (s : State) (g : Option Range), (Instr.mldb x).wf = true → Ready x.h.g x.wait.val (Instr.mldb x).bytes s →
    (s.core.queue .m).length < 16 → matrixLegal x (s.core.regs.lrec x.l.val) 0 128 → mayUse s.core →
      matrixRange s x (s.core.regs.lrec x.l.val) = .ok g →
        let r := s.core.regs.lrec x.l.val
        let bytes := match g with | some b => b.hi - b.lo | none => 0
        let claims : Bool := decide (s.core.mac.owner = none ∧ s.core.regs.aid ≠ 0)
        ∃ t, exec (.mldb x) s = .next t
          ∧ After (Instr.mldb x).bytes
              ((s.taken { q := .m, cls := 8, sub := 0, x := x, lrec := some r, reads := g.toList
                          grant := .toAsk (8 + max ((bytes + 511) / 512) r.e0) }).mapCore fun c =>
                { c with mac := { c.mac with
                    planes := c.mac.planes.set (planeIx x) { c.mac.planes[planeIx x] with issuedTy := x.ty.val, issuedAw := x.aw.val }
                    owner := if claims then some c.regs.aid else c.mac.owner, shared := if claims then false else c.mac.shared } }) t)
    ∧ (∀ (i : Instr) (x : XOp) (sub : Nat) (s : State) (g : Option Range), (i = .mmul x ∧ sub = 1) ∨ (i = .mmac x ∧ sub = 2) → i.wf = true →
        Ready x.h.g x.wait.val i.bytes s → (s.core.queue .m).length < 16 → matrixLegal x (s.core.regs.lrec x.l.val) 1 4 →
          mayUse s.core → matrixRange s x (s.core.regs.lrec x.l.val) = .ok g →
            let r := s.core.regs.lrec x.l.val
            let p := s.core.mac.planes[planeIx x]
            ¬(p.issuedTy = 14 ∧ 8 < (if x.ty = 15 then 4 + 4 * x.aw.val else tyBits x.ty.val)) →
              Enqueues i s { q := .m, cls := 8, sub := sub, x := x, lrec := some r, reads := g.toList, grant := .toAsk (passUnits p x r.e1) })
    ∧ (∀ (x : XOp) (s : State) (g : Option Range), (Instr.mrd x).wf = true → Ready x.h.g x.wait.val (Instr.mrd x).bytes s →
        (s.core.queue .m).length < 16 → matrixLegal x (s.core.regs.lrec x.l.val) 1 1 → matrixRange s x (s.core.regs.lrec x.l.val) = .ok g →
          Enqueues (.mrd x) s { q := .m, cls := 8, sub := 3, x := x, lrec := some (s.core.regs.lrec x.l.val), writes := g.toList
                                lanes := (s.core.regs.lrec x.l.val).e0 })
    ∧ (∀ (x : XOp) (s : State) (g : Option Range), (Instr.vscalc x).wf = true → Ready x.h.g x.wait.val (Instr.vscalc x).bytes s →
        (s.core.queue .m).length < 16 →
        let r := s.core.regs.lrec x.l.val
        matrixLegal x { r with e1 := max 1 r.e1, e2 := max 1 r.e2 } 1 1 → matrixRange s x r = .ok g →
          Enqueues (.vscalc x) s { q := .m, cls := 8, sub := 7, x := x, lrec := some (s.core.regs.lrec x.l.val), reads := g.toList
                                   writes := g.toList, lanes := (s.core.regs.lrec x.l.val).e0 * (x.w2.toNat % 4 + 1) })
    ∧ (∀ (x : XOp) (s : State), (Instr.mclr x).wf = true → Ready x.h.g x.wait.val (Instr.mclr x).bytes s → (s.core.queue .m).length < 16 →
        Enqueues (.mclr x) s { q := .m, cls := 8, sub := 4, x := x })
    ∧ ∀ (i : Instr) (x : XOp) (sub : Nat) (f : Macro → Macro) (s : State),
        (i = .mshr x ∧ sub = 5 ∧ f = fun m => { m with shared := x.w2.getLsbD 0 })
          ∨ (i = .mrel x ∧ sub = 6 ∧ f = fun m => { m with owner := none, shared := false }) → i.wf = true →
          Ready x.h.g x.wait.val i.bytes s → (s.core.queue .m).length < 16 → s.core.mac.owner = none ∨ s.core.mac.owner = some s.core.regs.aid →
            ∃ t, exec i s = .next t
              ∧ After i.bytes ((s.taken { q := .m, cls := 8, sub := sub, x := x }).mapCore fun c =>
                  if c.mac.owner = none then c else { c with mac := f c.mac }) t

/-- R179: an MLDB, MMUL or MMAC of an activation that is not the owner of an unshared macro, and an MSHR or MREL of any but the
owner, raises MOWN with the owner in TVAL; a record that breaks a rule raises ILLOP first. -/
def Sys2Proof.Claims.MatrixOwnership : Prop :=
  ∀ (i : Instr) (x : XOp) (o : BitVec 24) (s : State), i.wf = true → Issues x.h.g x.wait.val s → s.core.mac.owner = some o → o ≠ s.core.regs.aid →
    let traps (c : Cause) (v : Word) : Prop := exec i s = .next (s.noted.trapNow c v)
    (i = .mldb x → s.core.mac.shared = false → matrixLegal x (s.core.regs.lrec x.l.val) 0 128 → traps .mown (o.setWidth 64))
    ∧ (i = .mldb x → ¬matrixLegal x (s.core.regs.lrec x.l.val) 0 128 → traps .illop ((firstWord i).setWidth 64))
    ∧ (i = .mmul x ∨ i = .mmac x → s.core.mac.shared = false → matrixLegal x (s.core.regs.lrec x.l.val) 1 4 →
        (s.core.mac.planes[planeIx x]).issuedTy ≠ 14 → traps .mown (o.setWidth 64))
    ∧ (i = .mmul x ∨ i = .mmac x → ¬matrixLegal x (s.core.regs.lrec x.l.val) 1 4 → traps .illop ((firstWord i).setWidth 64))
    ∧ (i = .mshr x ∨ i = .mrel x → traps .mown (o.setWidth 64))

/-- 10_vector_matrix.md R179 to R183, R186, R189 to R191: the MATRIX instructions with a legal record and the right to the macro
issue one command into the M queue with their record, their declared bytes, their lanes and their clearing request; an MLDB of an
actor that finds the macro unowned owns it from its issue. MCLR, MSHR and MREL take no record.
R179: an MLDB, MMUL or MMAC of an activation that is not the owner of an unshared macro, and an MSHR or MREL of any but the
owner, raises MOWN with the owner in TVAL; a record that breaks a rule raises ILLOP first.
The order of the checks is the model's reading (log entry 18). -/
def Obligations.MatrixIssueAndOwnership : Prop := Sys2Proof.Claims.MatrixInstructionsIssue ∧ Sys2Proof.Claims.MatrixOwnership

/-- 10_vector_matrix.md R181: the commit of an MLDB of plain rows loads column i of its plane from row i: the values, the
block's exponent (one less for E2M1 data, whose scale is kept) and the format; the other plane, memory and every register stand. -/
def Obligations.MatrixLoadResults : Prop :=
  ∀ (k : Cmd) (r : LRec) (s : State), MatrixHead k r s → k.sub = 0 → (∀ i < r.e1, (srcOf k r s i).plain ∧ (srcOf k r s i).nv = false) →
    ∃ t, exec (.commandCommit .m) s = .next t ∧ t.core.regs = s.core.regs ∧ t.core.scratch = s.core.scratch
      ∧ t.core.mac.planes[1 - planeIx k.x] = s.core.mac.planes[1 - planeIx k.x]
      ∧ (t.core.mac.planes[planeIx k.x]).ty = k.x.ty.val ∧ (t.core.mac.planes[planeIx k.x]).aw = k.x.aw.val
      ∧ (t.core.mac.planes[planeIx k.x]).cols.length = r.e1
      ∧ ∀ i < r.e1,
          let row := srcOf k r s i
          ((t.core.mac.planes[planeIx k.x]).col i).cells = row.cells.map (fun c => { v := BitVec.ofInt 16 c.1, mark := .none })
          ∧ (k.x.ty ≠ 13 → ((t.core.mac.planes[planeIx k.x]).col i).eb = BitVec.ofInt 16 (row.exps.headD 0)
              ∧ ((t.core.mac.planes[planeIx k.x]).col i).sc = 0x7F)
          ∧ (k.x.ty = 13 → ∀ e l, row.exps = e :: l → ((t.core.mac.planes[planeIx k.x]).col i).eb = BitVec.ofInt 16 (-1)
              ∧ ((t.core.mac.planes[planeIx k.x]).col i).sc = BitVec.ofInt 8 e)

/-- 10_vector_matrix.md R183 to R185, R188: the commit of an MMUL or MMAC of plain rows against plain columns forms, for row i and
column n, the exact sum of the products. MMUL, and MMAC into an empty accumulator, write it modulo 2^48; MMAC into a full one of the
same exponents adds it, modulo 2^48 or under sat to the nearer bound with SAT. The other accumulators, memory and planes stand. -/
def Obligations.MatrixPassResults : Prop :=
  ∀ (k : Cmd) (r : LRec) (s : State), MatrixHead k r s → k.sub = 1 ∨ k.sub = 2 → r.e0 ≠ 0 → r.e2 ≠ 0 → r.e0 ≤ 128 → 1 ≤ r.e1 → r.e1 ≤ 4 →
    (∀ i < r.e1, (srcOf k r s i).plain ∧ (srcOf k r s i).cells.length ≤ 128) →
      (∀ n < 128, (((s.core.mac.planes[planeIx k.x]).col n).cells.length ≤ 128 ∧ ∀ c ∈ ((s.core.mac.planes[planeIx k.x]).col n).cells, c.mark = .none)) →
        ∃ t, exec (.commandCommit .m) s = .next t ∧ t.core.scratch = s.core.scratch ∧ t.core.mac = s.core.mac ∧ t.core.regs.v = s.core.regs.v
          ∧ t.core.regs.s = s.core.regs.s
          ∧ (∀ q : Fin 4, (∀ i < r.e1, q ≠ Fin.ofNat 4 (k.x.d.val + i)) → t.core.regs.acc[q] = s.core.regs.acc[q])
          ∧ ∀ i < r.e1,
              let q : Fin 4 := Fin.ofNat 4 (k.x.d.val + i)
              let old := s.core.regs.acc[q]
              let ea : BitVec 16 := BitVec.ofInt 16 ((srcOf k r s i).exps.headD 0)
              (t.core.regs.acc[q]).full = true ∧ (t.core.regs.acc[q]).ea = ea
              ∧ ∀ n : Fin 128,
                  let col := (s.core.mac.planes[planeIx k.x]).col n.val
                  let l := (t.core.regs.acc[q]).lanes[n]
                  let o := old.lanes[n]
                  l.ebl = col.eb ∧ l.scl = col.sc
                  ∧ (k.sub = 1 → l.v = BitVec.ofInt 48 (passSum k r s i n) ∧ l.mark = .none ∧ l.poison = false)
                  ∧ (k.sub = 2 → old.full = false → l.v = BitVec.ofInt 48 (passSum k r s i n) ∧ l.mark = .none ∧ l.poison = o.poison)
                  ∧ (k.sub = 2 → old.full = true → old.ea = ea → o.ebl = col.eb → o.scl = col.sc →
                      let v := o.v.toInt + passSum k r s i n
                      l.mark = o.mark ∧ l.poison = o.poison
                      ∧ l.v = (if k.x.sat ∧ 2 ^ 47 - 1 < v then BitVec.ofInt 48 (2 ^ 47 - 1) else if k.x.sat ∧ v < -2 ^ 47 then BitVec.ofInt 48 (-2 ^ 47)
                          else BitVec.ofInt 48 v))

/-- 10_vector_matrix.md R189, R190: the commit of an MRD writes lane n of its accumulator to element n of its row: rounded to FP32, or
to an integer of the type; a poisoned lane gives 0x7FA00001 and NV. A VSCALC (of FP32, sat off) adds the scaled lanes of its accumulators to the elements of
its row, one rounding each. MCLR's commit clears the accumulators it names; those of MSHR and MREL change nothing more. Of the read-outs no byte outside
the row, and no register but FPCTL, changes.
That MSHR and MREL change the ownership at issue is the model's reading (log entry 18). -/
def Obligations.MatrixReadOutResults : Prop :=
  (∀ (k : Cmd) (r : LRec) (s : State), MatrixHead k r s → r.e0 ≤ 128 → r.e1 = 1 → r.e2 = 1 → s.core.scratch.wf = true →
    let ty := k.x.ty.val
    let w := tyBits ty
    let at_ := tileRowAt k r 0
    let lane (n : Nat) : AccLane := (s.core.regs.acc[(Fin.ofNat 4 k.x.a.val : Fin 4)]).lanes[(Fin.ofNat 128 n : Fin 128)]
    let sh : Int := (k.x.w2.setWidth 8).toInt
    (k.sub = 3 → ty = 8 ∨ ty = 4 ∨ ty = 6 →
      ∃ t, exec (.commandCommit .m) s = .next t
        ∧ (∃ fl : BitVec 64, t.core.regs = { s.core.regs with fpctl := s.core.regs.fpctl ||| fl })
        ∧ (∀ q, ¬(at_ ≤ q ∧ q < at_ + r.e0 * (w / 8)) → t.core.scratch.read q = s.core.scratch.read q)
        ∧ ∀ n < r.e0,
            (ty = 8 → (lane n).poison = false → (lane n).mark = .none →
              t.core.readElem at_ w n
                = FFmt.fp32.pack (roundF .fp32 k.rc.mode (k.rc.draw n) ((FVal.ofInt (lane n).v.toInt).scale sh)).1 % 2 ^ 32)
            ∧ (ty = 8 → (lane n).poison = true → t.core.readElem at_ w n = 0x7FA00001)
            ∧ (ty ≠ 8 → (lane n).poison = false → (lane n).mark = .none →
                t.core.readElem at_ w n
                  = (intToInt true w k.x.sat (roundInt k.rc.mode (k.rc.draw n) (decide ((lane n).v.toInt < 0)) (lane n).v.toInt.natAbs sh).1).1))
    ∧ (k.sub = 7 → ty = 8 → k.x.sat = false →
        ∃ t, exec (.commandCommit .m) s = .next t
          ∧ (∃ fl : BitVec 64, t.core.regs = { s.core.regs with fpctl := s.core.regs.fpctl ||| fl })
          ∧ (∀ q, ¬(at_ ≤ q ∧ q < at_ + r.e0 * 4) → t.core.scratch.read q = s.core.scratch.read q)
          ∧ ∀ n < r.e0,
              let j := k.x.w2.toNat % 4 + 1
              let acc (q : Nat) : Acc := s.core.regs.acc[(Fin.ofNat 4 (k.x.a.val + q) : Fin 4)]
              let ln (q : Nat) : AccLane := (acc q).lanes[(Fin.ofNat 128 n : Fin 128)]
              let scaled := k.x.w2.getLsbD 2
              let term (q : Nat) : FVal := (FVal.ofInt (ln q).v.toInt).scale
                ((acc q).ea.toInt + (ln q).ebl.toInt + (if scaled then ((ln q).scl.toNat : Int) - 127 else 0))
              (∀ q < j, (ln q).poison = false ∧ (ln q).mark = .none ∧ (scaled = true → (ln q).scl ≠ 0xFF)) →
                t.core.readElem at_ 32 n
                  = FFmt.fp32.pack ((List.range j).foldl (fun y q => (fadd .fp32 k.rc.mode (k.rc.draw (n * j + q)) y (term q)).1)
                      (FFmt.fp32.unpack (s.core.readElem at_ 32 n))) % 2 ^ 32))
    ∧ (∀ (k : Cmd) (s : State), s.ready .m = some k → k.cls = 8 → k.sub = 4 → CommitsAs .m k s fun s u =>
        ∃ a : Vector Acc 4, (∀ i : Fin 4, a[i] = if k.x.w2.getLsbD i then {} else s.core.regs.acc[i]) ∧ u = s.mapRegs fun r => { r with acc := a })
    ∧ ∀ (k : Cmd) (s : State), s.ready .m = some k → k.cls = 8 → k.sub = 5 ∨ k.sub = 6 → CommitsAs .m k s fun s u => u = s

/-! ### Atomics, sync words, barriers -/

/-- 12_memory.md R215, R216: an integer atomic of a local word reads it and writes the new value in one step at issue; the returning
form gives d the old value. No other byte and no other register changes. -/
def Sys2Proof.Claims.LocalAtomicResults : Prop :=
  ∀ (i : Instr) (x : XOp) (sub : Nat) (ret : Bool) (s : State), atomRow i = some (x, sub, ret) → i.wf = true →
    Ready x.h.g x.wait.val i.bytes s → s.core.calm → s.core.scratch.wf = true →
      let ea := wordAddr x s.core.regs
      let n := tyBits x.ty.val / 8
      let p := s.core.span.1 + ea.toNat
      localReady s ea n true →
        ∃ t m, exec i s = .next t
          ∧ t.core.regs = (if ret then s.core.regs.ws x.d (atomReturns x s.core.scratch p) else s.core.regs).advance i.bytes
          ∧ t.beside = (s.withScratch m).beside ∧ t.core.scratch = m
          ∧ Holds m s.core.scratch p n (atomWrites (atomFn sub) x s.core.regs s.core.scratch p)

/-- R215, R216: a returning integer atomic of device memory, or of a resident actor's window, that nothing holds (no posted access of the
core on its way to its endpoint, no queued command that touches its bytes, no holding queue) reads and writes the word, and its old value returns to d; the row of device memory that it activates is counted (20_nearmem.md R309), and its answer is added to the
accumulator of its bank. One of an actor beyond the state holds issue for its answer. -/
def Sys2Proof.Claims.DeviceAtomicResults : Prop :=
  (∀ (i : Instr) (x : XOp) (sub : Nat) (s u : State) (pl : Place) (pa q : Nat), atomRow i = some (x, sub, true) → i.wf = true →
    Ready x.h.g x.wait.val i.bytes s → s.core.posted = [] → s.pkg.badUnits = [] → s.pkg.dmem.wf = true →
      let ea := wordAddr x s.core.regs
      let n := tyBits x.ty.val / 8
      ea.toNat % n = 0 → s.atomicHeld (normal pl ea) pa n = false → placeOf s ea = some pl →
        ((∃ va, pl = .inter va ∧ s.translate .write va = some (pa, u) ∧ q = pa) ∨ (pl = .linear q ∧ u = s ∧ pa = 0)) →
          ∃ t m, exec i s = .next t
            ∧ After i.bytes ((((u.activate q n).withDmem m).respond pl ea pa).ws x.d (atomReturns x s.pkg.dmem q)) t
            ∧ Holds m s.pkg.dmem q n (atomWrites (atomFn sub) x s.core.regs s.pkg.dmem q))
    ∧ ∀ (i : Instr) (x : XOp) (sub : Nat) (s : State) (pk : Option Nat) (aid : BitVec 24) (off : Nat), atomRow i = some (x, sub, true) →
        i.wf = true → Ready x.h.g x.wait.val i.bytes s → s.core.posted = [] →
          let ea := wordAddr x s.core.regs
          let n := tyBits x.ty.val / 8
          ea.toNat % n = 0 → placeOf s ea = some (.actor pk aid off) → s.atomicHeld (normal (.actor pk aid off) ea) 0 n = false →
            (∀ k p, s.reach pk aid off n .atomic = .at_ k p → (focus k s).core.calm → (focus k s).core.scratch.wf = true →
              let m := (focus k s).core.scratch
              ∃ t m', exec i s = .next t
                ∧ After i.bytes (((focus k ((focus k s).withScratch m')).respond (.actor pk aid off) ea 0).ws x.d (atomReturns x m p)) t
                ∧ Holds m' m p n (atomWrites (atomFn sub) x s.core.regs m p))
            ∧ ∀ near, s.reach pk aid off n .atomic = .away near → s.addrHeld ea = false →
                ∃ t, exec i s = .next t ∧ AfterStay (s.mapCore fun c =>
                  { c with await := some { kind := .atomic (atomicArgs sub x s.core.regs) x.d, addr := ea, len := i.bytes } }) t

/-- R214 to R217: a posted atomic beyond the local view is a command of the E queue; its commit posts one flit with the operands it
captured, and the flit's arrival at device memory performs it there. -/
def Sys2Proof.Claims.PostedAtomicResults : Prop :=
  (∀ (i : Instr) (x : XOp) (sub : Nat) (s u : State) (pl : Place) (pa : Nat),
    atomRow i = some (x, sub, false) ∨ i = .afaddp x ∧ sub = 10 →
      i.wf = true → Ready x.h.g x.wait.val i.bytes s → (s.core.queue .e).length < 16 →
        let ea := wordAddr x s.core.regs
        ea.toNat % (tyBits x.ty.val / 8) = 0 → placeOf s ea = some pl →
          ((∃ va, pl = .inter va ∧ s.translate .write va = some (pa, u)) ∨ (∃ q, pl = .linear q ∧ u = s)
            ∨ ((∃ pk aid off, pl = .actor pk aid off) ∧ u = s)) →
            ∃ t, exec i s = .next t
              ∧ After i.bytes (u.taken { q := .e, cls := 10, sub := sub, x := x, lanes := if sub = 10 then 1 else 0 }) t)
    ∧ (∀ (k : Cmd) (s u : State) (va pa : Nat), s.ready .e = some k → k.cls = 10 →
        let ea : Word := k.sa + k.x.w2.signExtend 64
        placeOf s ea = some (.inter va) → s.lookup k.pages .write va = .hit pa u →
          ∃ t, exec (.commandCommit .e) s = .next t
            ∧ AfterStay ((u.plusPost { id := s.core.postId, near := false, n := 1, addr := ea, pa := pa
                                       kind := .atomic k.atomicArgs (sizeOfTy k.x.ty.val), stage := .inFlight, q := some .e
                                       ser := k.serial, raw := ea, said := k.aid, mgmt := k.mgmt }).without k) t)
    ∧ ∀ (p : Posted) (a : AtomicArgs) (n : Nat) (s : State), s.core.posted.find? (fun e => e.id == p.id) = some p → mayArrive s p = true →
        p.kind = .atomic a n → ((∃ va, placeOf s p.addr = some (.inter va)) ∨ placeOf s p.addr = some (.linear p.pa)) →
          s.pkg.badUnits = [] → s.pkg.dmem.wf = true → a.ty = 4 ∨ a.ty = 5 ∨ a.ty = 6 → a.op.val ≤ 9 →
            ∃ t, exec (.atomicArrival (.own p.id)) s = .next t ∧ t.core.regs = s.core.regs
              ∧ Holds t.pkg.dmem s.pkg.dmem p.pa (tyBits a.ty.val / 8)
                  ((atomFn a.op.val (tyBits a.ty.val) (atomFound s.pkg.dmem p.pa (tyBits a.ty.val)) (a.b.setWidth (tyBits a.ty.val))
                    (a.c.setWidth (tyBits a.ty.val))).setWidth 64)

/-- R215, R216: a returning integer atomic of device memory, or of a resident actor's window, that nothing holds (no posted access of the
core on its way to its endpoint, no queued command that touches its bytes, no holding queue) reads and writes the word, and its old value returns to d; the row of device memory that it activates is counted (20_nearmem.md R309), and its answer is added to the
accumulator of its bank. One of an actor beyond the state holds issue for its answer.
R214 to R217: a posted atomic beyond the local view is a command of the E queue; its commit posts one flit with the operands it
captured, and the flit's arrival at device memory performs it there. -/
def Obligations.DistantAtomics : Prop := Sys2Proof.Claims.DeviceAtomicResults ∧ Sys2Proof.Claims.PostedAtomicResults

/-- R217: AFADD of a local word adds in its format with one rounding, accrues the flags and under SR takes one lane; d receives the old
bits. AFADDP does so without d. -/
def Sys2Proof.Claims.FloatAtomicResults : Prop :=
  ∀ (i : Instr) (x : XOp) (s : State), i = .afadd x ∨ i = .afaddp x → i.wf = true → Ready x.h.g x.wait.val i.bytes s → s.core.calm →
    s.core.scratch.wf = true →
      let ea := wordAddr x s.core.regs
      let n := tyBits x.ty.val / 8
      let p := s.core.span.1 + ea.toNat
      let v := afaddOf x s.core.regs s.core.scratch p
      localReady s ea n true →
        ∃ t, exec i s = .next t
          ∧ (let r := (afaddRegs x s.core.regs).accrue v.2
             t.core.regs = (if i = .afadd x then r.ws x.d (atomReturns x s.core.scratch p) else r).advance i.bytes)
          ∧ Holds t.core.scratch s.core.scratch p n (BitVec.ofNat 64 (((fmtOf x.ty.val).getD .fp32).pack v.1)) ∧ t.pkg = s.pkg

/-- 12_memory.md R215, R216: an integer atomic of a local word reads it and writes the new value in one step at issue; the returning
form gives d the old value. No other byte and no other register changes.
R217: AFADD of a local word adds in its format with one rounding, accrues the flags and under SR takes one lane; d receives the old
bits. AFADDP does so without d. -/
def Obligations.LocalAtomics : Prop := Sys2Proof.Claims.LocalAtomicResults ∧ Sys2Proof.Claims.FloatAtomicResults

/-- R206 to R209: EXPECT sets the target of a sync word, or completes at once when the count suffices, and returns the generation
before; SWBUSY for a count of 0 or a target that stands. SWINIT sets the word anew. WAITG returns the generation once it has passed, and
holds issue until then. -/
def Sys2Proof.Claims.SyncWordInstructions : Prop :=
  ∀ (x : XOp) (s : State),
    let ea := wordAddr x s.core.regs
    let p := s.core.span.1 + ea.toNat
    let w := s.core.sync p
    let b := ((s.core.regs.rs x.b).setWidth 32).toNat
    (syncReady s ea true → (Instr.expect x).wf = true → s.core.calm → s.core.scratch.wf = true →
      (Ready x.h.g x.wait.val (Instr.expect x).bytes s → b ≠ 0 → w.target = 0 →
        ∃ t, exec (.expect x) s = .next t ∧ t.core.regs = (s.core.regs.ws x.d (BitVec.ofNat 64 w.gen)).advance (Instr.expect x).bytes
          ∧ SyncHolds t.core s.core p
              (if b ≤ w.count then { w with count := w.count - b, gen := (w.gen + 1) % 2 ^ 32 } else { w with target := b }))
      ∧ (Issues x.h.g x.wait.val s → b = 0 ∨ w.target ≠ 0 → exec (.expect x) s = .next (s.noted.trapNow .swbusy ea)))
    ∧ (syncReady s ea true → (Instr.swinit x).wf = true → s.core.calm → s.core.scratch.wf = true →
        Ready x.h.g x.wait.val (Instr.swinit x).bytes s →
          ∃ t, exec (.swinit x) s = .next t ∧ t.core.regs = s.core.regs.advance (Instr.swinit x).bytes
            ∧ SyncHolds t.core s.core p { count := 0, target := 0, gen := b, ovf := false })
    ∧ (syncReady s ea false → (Instr.waitg x).wf = true → s.core.calm → Ready x.h.g x.wait.val (Instr.waitg x).bytes s →
        let ahead := (BitVec.ofNat 32 w.gen - BitVec.ofNat 32 b).toNat
        (1 ≤ ahead ∧ ahead < 2 ^ 31 → SetsRegs (.waitg x) s (s.core.regs.ws x.d (BitVec.ofNat 64 w.gen)))
        ∧ (¬(1 ≤ ahead ∧ ahead < 2 ^ 31) → ∃ t, exec (.waitg x) s = .next t
            ∧ AfterStay (s.mapCore fun c => { c with await := some { kind := .gen p b x.d, addr := ea, len := (Instr.waitg x).bytes } }) t))
    ∧ ∀ i : Instr, i = .expect x ∨ i = .swinit x ∨ i = .waitg x → i.wf = true → Issues x.h.g x.wait.val s →
        (¬(ea.toNat < 2 ^ 60) → exec i s = .next (s.noted.trapNow .aspace ea))
        ∧ (ea.toNat < 2 ^ 60 → ea.toNat % 16 ≠ 0 → exec i s = .next (s.noted.trapNow .align ea))
        ∧ (ea.toNat < 2 ^ 60 → ea.toNat % 16 = 0 → s.core.span.2 < ea.toNat + 16 → exec i s = .next (s.noted.trapNow .lrange ea))

/-- 12_memory.md R207: bytes that are counted into a sync word that can be read raise its count, which saturates with OVF, and when the count reaches a
target that stands, the target is taken from it and the generation advances. -/
def Sys2Proof.Claims.SyncWordCounts : Prop :=
  ∀ (c : Core) (p b : Nat), c.scratch.wf = true → c.health.lostIn p 16 = false →
    let w := c.sync p
    let n := min (w.count + b) (2 ^ 32 - 1)
    let o := w.ovf || decide (2 ^ 32 - 1 < w.count + b)
    SyncHolds (c.arriveSync p b) c p
      (if w.target ≠ 0 ∧ w.target ≤ n then { count := n - w.target, target := 0, gen := (w.gen + 1) % 2 ^ 32, ovf := o }
        else { count := n, target := w.target, gen := w.gen, ovf := o })

/-- R206 to R209: EXPECT sets the target of a sync word, or completes at once when the count suffices, and returns the generation
before; SWBUSY for a count of 0 or a target that stands. SWINIT sets the word anew. WAITG returns the generation once it has passed, and
holds issue until then.
12_memory.md R207: bytes that are counted into a sync word that can be read raise its count, which saturates with OVF, and when the count reaches a
target that stands, the target is taken from it and the generation advances. -/
def Obligations.SyncWords : Prop := Sys2Proof.Claims.SyncWordInstructions ∧ Sys2Proof.Claims.SyncWordCounts

/-- 12_memory.md R212 to R214: BARARR of a declared barrier, with the counts drained and the member's previous phase released, arrives; BARWT
completes once the phase of the latest arrival is released and holds until then; BAR arrives and waits. An undeclared index raises
NODECL, a broken instance BARTO. QFENCE completes once its queues are empty. -/
def Obligations.BarriersAndFences : Prop :=
  (∀ (x : XOp) (s : State) (b : BarInst),
    let ix := x.w2.toNat % 16
    let n := s.core.arrivals ix
    s.barOf ix = some b → b.broken = false →
      ((Instr.bararr x).wf = true → Ready x.h.g x.wait.val (Instr.bararr x).bytes s → s.core.drained = true → n ≤ b.phase →
        ∃ t, exec (.bararr x) s = .next t ∧ t.core.arrivals ix = n + 1
          ∧ After (Instr.bararr x).bytes (s.mapCore fun c => c.mapActor c.regs.aid fun a => a.arrive ix) t)
      ∧ ((Instr.barwt x).wf = true → Ready x.h.g x.wait.val (Instr.barwt x).bytes s →
          (n ≤ b.phase → ∃ t, exec (.barwt x) s = .next t ∧ After (Instr.barwt x).bytes (s.mapCore fun c => c.setBarHold 0) t)
          ∧ (b.phase < n → ∃ t, exec (.barwt x) s = .next t
              ∧ AfterStay (s.mapCore fun c => { c with await := some { kind := .bar ix, addr := 0, len := (Instr.barwt x).bytes } }) t))
      ∧ ((Instr.bar x).wf = true → Ready x.h.g x.wait.val (Instr.bar x).bytes s → s.core.drained = true → n = b.phase →
          (∀ a, s.core.act = some a → a.barHold ≠ ix + 1) →
            ∃ t, exec (.bar x) s = .next t ∧ t.core.arrivals ix = n + 1 ∧ t.core.regs = s.core.regs
              ∧ t.core.await = some { kind := .bar ix, addr := 0, len := (Instr.bar x).bytes }))
    ∧ (∀ (i : Instr) (x : XOp) (s : State), i = .bar x ∨ i = .bararr x ∨ i = .barwt x → i.wf = true → Issues x.h.g x.wait.val s →
        (s.barOf (x.w2.toNat % 16) = none →
          exec i s = .next (s.noted.trapNow .nodecl (BitVec.ofNat 64 (x.w2.toNat % 16))))
        ∧ ∀ b, s.barOf (x.w2.toNat % 16) = some b → b.broken = true →
            exec i s = .next (s.noted.trapNow .barto (BitVec.ofNat 64 (x.w2.toNat % 16))))
    ∧ (∀ (ix : Nat) (b : BarInst) (s : State), s.barDue ix = some b →
        exec (.barrierRelease ix) s
          = .next { s with pkg := { s.pkg with bars := s.pkg.bars.map fun e => if e = b then { e with phase := e.phase + 1 } else e } })
    ∧ ∀ (x : XOp) (s : State), (Instr.qfence x).wf = true → Ready x.h.g x.wait.val (Instr.qfence x).bytes s →
        ((∀ q : Queue, x.w2.getLsbD (queueNum q) = true → s.core.queue q = []) → SetsRegs (.qfence x) s s.core.regs)
        ∧ ((∃ q : Queue, x.w2.getLsbD (queueNum q) = true ∧ s.core.queue q ≠ []) →
            ∃ t, exec (.qfence x) s = .next t ∧ t.core.hold = true ∧ AfterStay s t)

/-- 12_memory.md R218 to R220, R222: a push, a gather or a scatter with legal records and its ranges in reach issues one command with
its records, its declared bytes and its gate; with no elements it declares nothing. A TREDUCE of a declared tree issues its
contribution; of an undeclared one it raises NODECL. -/
def Obligations.EngineCommandsIssue : Prop :=
  (∀ (i : Instr) (x : XOp) (sub : Nat) (r d : LRec) (o : Option LRec) (s : State), pushRow i s = some (x, sub, r, d, o) → i.wf = true →
    Ready x.h.g x.wait.val i.bytes s → (s.core.queue .e).length < 16 → pushLegal x sub r d → gateFound x s →
      let k : Req := { q := .e, cls := 12, sub := sub, x := x, lrec := some r, rec2 := o, gate := x.x }
      (r.empty = true → Enqueues i s k)
      ∧ (r.empty = false → (d.flagS = true → syncPlaced s d.base d.aux1 = true) → ∀ src dst y, localRec s r r.ty 0 = .ok src →
          destRange s d = .ok dst → (if d.flagS then syncRange s d.aux1 else .ok none) = .ok y →
            (∀ g h, dst = some g → y = some h → g.meets h = false) → Enqueues i s { k with reads := src.toList, writes := dst.toList }))
    ∧ (∀ (i : Instr) (x : XOp) (sub : Nat) (s : State), tableInstr i = some (x, sub) → i.wf = true → Ready x.h.g x.wait.val i.bytes s →
        (s.core.queue .g).length < 16 →
          let r := s.core.regs.lrec x.l.val
          let k : Req := { q := .g, cls := 12, sub := sub, x := x, lrec := some r, gate := x.x }
          r.ty = x.ty.val → r.rsv = 0 → (r.flagI = false → r.e2 ≤ 1) → ¬(r.ty = 7 ∧ r.e0 % 2 = 1) → gateFound x s →
            (r.empty = true → Enqueues i s k)
            ∧ (r.empty = false → ∀ ix g,
                let b := LRec.bounds { r with e1 := if r.flagI then r.e2 else r.e1, e2 := 1 } r.ty 0
                ((∃ va, placeOf s r.base = some (.inter va)) ∨ ∃ pa, placeOf s r.base = some (.linear pa)) →
                  spanFault s r.base b.1 b.2 (baseAlign r.ty 0) = none → (r.flagI = true → localSpan s r.aux0 (4 * r.e1) 4 = .ok ix) →
                    localSpan s (if r.flagI then s.core.regs.rs x.b else r.aux0) (r.rowLen * r.e1) (baseAlign r.ty 0) = .ok g →
                      (r.flagS = true → ∃ y, localSpan s r.aux1 16 16 = .ok y) →
                        let rd := if r.flagI then [ix] else []
                        Enqueues i s { k with reads := if sub = 2 then rd else rd ++ [g], writes := if sub = 2 then [g] else [] }))
    ∧ ∀ (x : XOp) (s : State) (a : Activation) (me : Actor), (Instr.treduce x).wf = true → s.core.act = some a →
        (∃ aid off, a.src = .message aid off) → s.core.self = some me → gateFound x s →
          (∀ t d, Ready x.h.g x.wait.val (Instr.treduce x).bytes s → (s.core.queue .e).length < 16 →
            s.treeOf a.slot me.wid (x.w2f 0 4) = some (t, d) → d.ty = x.ty.val →
              Enqueues (.treduce x) s { q := .e, cls := 12, sub := 4, x := x, gate := x.x })
          ∧ (Issues x.h.g x.wait.val s → s.treeOf a.slot me.wid (x.w2f 0 4) = none →
              exec (.treduce x) s = .next (s.noted.trapNow .nodecl (BitVec.ofNat 64 (x.w2f 0 4))))

/-- 12_memory.md R204, R219 to R222: a push of one row copies it to a local destination, or posts it as flits that cross no boundary
of their size, into device memory or an actor; a gather copies its table's rows to the dense side, a row landing does so for one; a scatter posts each dense row to its table row, the tables
in the bank-linear view or, with an entry of the cache for their page, in the interleaved one; an index
beyond the table raises IDXR. A contribution is posted to the root, and the total of a round is written at the root and counted. -/
def Obligations.EngineCommandResults : Prop :=
  (∀ (k : Cmd) (r : LRec) (s : State), EngineHead .e k r s → k.sub ≤ 1 → r.e1 = 1 → r.e2 = 1 →
    let d := k.dest r
    let S := k.base + r.base.toNat
    d.e1 = 1 → d.e2 = 1 →
      ((∃ off, placeOf s d.base = some (.loc off)) → d.flagS = false →
        ∃ t, exec (.commandCommit .e) s = .next t ∧ t.core.regs = s.core.regs ∧ t.pkg = s.pkg
          ∧ Copied t.core.scratch s.core.scratch S (k.base + d.base.toNat) r.rowLen)
      ∧ (∀ near size addr pa, pushTo s d.base r.rowLen near size addr pa →
          ∃ t l, exec (.commandCommit .e) s = .next t ∧ t.core.regs = s.core.regs ∧ t.core.scratch = s.core.scratch ∧ t.pkg = s.pkg
            ∧ t.core.posted = s.core.posted ++ l ∧ l.flatMap Posted.flitBytes = s.core.readScratch S r.rowLen
            ∧ ∀ j p, l[j]? = some p →
                let o := ((l.take j).flatMap Posted.flitBytes).length
                (∃ bs, p.kind = .flit bs (k.syncAt d) ∧ bs ≠ []) ∧ p.n = 1 ∧ p.q = some .e ∧ p.stage = .inFlight ∧ p.near = near
                  ∧ p.addr = addr o ∧ p.pa = pa o ∧ (d.base.toNat + o) % size + p.flitBytes.length ≤ size))
    ∧ (∀ (k : Cmd) (r : LRec) (s : State) (pa : Nat → Nat), EngineHead .g k r s → k.counted = [] → r.flagS = false →
        (∀ i < r.e1, placeOf s (tableAddr k r s.core i) = some (.linear (pa i))) → (r.flagI = true → ∀ i < r.e1, tableRow k r s.core i < r.e2) →
          (k.sub = 2 →
            (∃ t, exec (.commandCommit .g) s = .next t ∧ t.core.regs = s.core.regs ∧ t.pkg.dmem = s.pkg.dmem
              ∧ (∀ i < r.e1, ∀ j < r.rowLen, t.core.scratch.read (k.denseAt r + i * r.rowLen + j) = s.pkg.dmem.read (pa i + j))
              ∧ ∀ q, ¬(k.denseAt r ≤ q ∧ q < k.denseAt r + r.e1 * r.rowLen) → t.core.scratch.read q = s.core.scratch.read q)
            ∧ ∀ i < r.e1, (s.core.queue .g).head? = some k → s.core.startable k = true → gateOpen s.core k = true →
                ∃ t, exec (.gatherRowLanding i) s = .next t
                  ∧ t.core.cmds = s.core.cmds.map (fun e => if e.serial = k.serial then { e with counted := e.counted ++ [i] } else e)
                  ∧ ∀ q, t.core.scratch.read q = if k.denseAt r + i * r.rowLen ≤ q ∧ q < k.denseAt r + (i + 1) * r.rowLen
                      then s.pkg.dmem.read (pa i + (q - (k.denseAt r + i * r.rowLen))) else s.core.scratch.read q)
          ∧ (k.sub = 3 → (∃ q, placeOf s r.base = some (.linear q)) →
              (∀ i < r.e1, (tableAddr k r s.core i).toNat % 2 ^ 24 + r.rowLen ≤ 0xC00000) →
                ∃ t l, exec (.commandCommit .g) s = .next t ∧ t.core.regs = s.core.regs ∧ t.core.scratch = s.core.scratch
                  ∧ t.core.posted = s.core.posted ++ l
                  ∧ l.flatMap Posted.flitBytes = s.core.readScratch (k.denseAt r) (r.rowLen * r.e1)
                  ∧ ∀ p ∈ l, p.addr.toNat % 32 + p.flitBytes.length ≤ 32 ∧ ∃ i < r.e1, ∃ o, p.addr = tableAddr k r s.core i + BitVec.ofNat 64 o
                      ∧ o + p.flitBytes.length ≤ r.rowLen
                      ∧ p.flitBytes = s.core.readScratch (k.denseAt r + i * r.rowLen + o) p.flitBytes.length))
    ∧ (∀ (k : Cmd) (r : LRec) (s : State) (va : Nat → Nat) (e : TlbEntry), EngineHead .g k r s → k.counted = [] → r.flagS = false → tableIn k r s va e →
        (r.flagI = true → ∀ i < r.e1, tableRow k r s.core i < r.e2) →
          (k.sub = 2 →
            ∃ t, exec (.commandCommit .g) s = .next t ∧ t.core.regs = s.core.regs ∧ t.pkg.dmem = s.pkg.dmem
              ∧ (∀ i < r.e1, ∀ j < r.rowLen, t.core.scratch.read (k.denseAt r + i * r.rowLen + j) = s.pkg.dmem.read (s.pkg.cell (e.pa (va i + j))))
              ∧ ∀ q, ¬(k.denseAt r ≤ q ∧ q < k.denseAt r + r.e1 * r.rowLen) → t.core.scratch.read q = s.core.scratch.read q)
          ∧ (k.sub = 3 → e.w = true → (∃ v, placeOf s r.base = some (.inter v)) →
              ∃ t l, exec (.commandCommit .g) s = .next t ∧ t.core.regs = s.core.regs ∧ t.core.scratch = s.core.scratch
                ∧ t.core.posted = s.core.posted ++ l
                ∧ l.flatMap Posted.flitBytes = s.core.readScratch (k.denseAt r) (r.rowLen * r.e1)
                ∧ ∀ p ∈ l, p.addr.toNat % 64 + p.flitBytes.length ≤ 64 ∧ ∃ i < r.e1, ∃ o, p.addr = tableAddr k r s.core i + BitVec.ofNat 64 o
                    ∧ p.pa = s.pkg.cell (e.pa (va i + o)) ∧ o + p.flitBytes.length ≤ r.rowLen
                    ∧ p.flitBytes = s.core.readScratch (k.denseAt r + i * r.rowLen + o) p.flitBytes.length))
    ∧ (∀ (k : Cmd) (r : LRec) (s : State) (i : Nat), EngineHead .g k r s → k.sub = 2 ∨ k.sub = 3 → r.flagI = true → i < r.e1 →
        r.e2 ≤ tableRow k r s.core i → (∀ j < i, tableRow k r s.core j < r.e2) →
          ∃ t, exec (.commandCommit .g) s = .next t ∧ t.core.regs = s.core.regs ∧ t.core.scratch = s.core.scratch ∧ t.core.posted = s.core.posted
            ∧ t.core.deferred = s.core.deferred ++ [{ cause := .idxr, tval := BitVec.ofNat 64 i, q := some .g, at_ := s.grove.cycle, mgmt := k.mgmt }])
    ∧ (∀ (k : Cmd) (s : State) (t : TreeInst) (d : TreeDecl), s.ready .e = some k → k.cls = 12 → k.sub = 4 → s.core.calm → vPending s.core k k.x.a = false →
        s.treeOf k.slot k.wid (k.x.w2f 0 4) = some (t, d) → CommitsAs .e k s fun s u =>
          let addr := (rootAddr s t d).getD 0
          let near := match placeOf s addr with | some pl => s.near pl | none => false
          u = s.mapCore fun c => c.postBy k near 1 addr addr 0 (.contribution k.slot (k.x.w2f 0 4) k.wid (c.regs.rv k.x.a)))
    ∧ ∀ (i : Nat) (l : List VWord) (s : State) (tr : TreeInst) (n : Launch) (d : TreeDecl) (root : DirEnt) (a : Actor),
        s.pkg.trees.find? (fun t => t.idx == i && !s.itemsDue t.slot t.low t.share && (t.parts.any fun p => p.1 == t.rounds) && partsAgree s t (s.treeMembers t) l) = some tr →
          s.pkg.launch tr.slot = some n → n.trees[i]? = some d → (s.treeMembers tr).head? = some root →
            residentAt root.aid s.cores 0 = some (0, a) → s.core.calm → s.core.scratch.wf = true → d.result + 64 ≤ d.sync ∨ d.sync + 16 ≤ d.result →
              ∃ t, exec (.treeRoundTotal i l) s = .next t
                ∧ t.pkg.trees = s.pkg.trees.map (fun x => if x = tr then { tr with parts := tr.parts.filter fun p => p.1 != tr.rounds, rounds := tr.rounds + 1 } else x)
                ∧ (∀ j < 64, t.core.scratch.read (a.base + d.result + j) = BitVec.ofNat 8 ((treeTotal d l.length l).toNat / 256 ^ j))
                ∧ t.core.sync (a.base + d.sync) = (s.core.sync (a.base + d.sync)).arrive 64
                ∧ ∀ q, ¬(a.base + d.result ≤ q ∧ q < a.base + d.result + 64) → ¬(a.base + d.sync ≤ q ∧ q < a.base + d.sync + 16) →
                    t.core.scratch.read q = s.core.scratch.read q

/-- 16_scan.md R259, R262 to R264, R267 to R269, R272, R273, R275: SCOP's forms write their slot. SCAN, and SCANC of a chain's member, with a
legal record, a well-formed operator and its ranges in reach issue one command with its lanes and, past 64 steps, its clearing request; a
slot that is not well formed raises SCSLOT, a chain of which the actor is no member NODECL. RIDE makes a member once, RBAR arrives and waits for its
phase, SCWAIT returns the rounds once no scan is queued.
That NODECL precedes the record's checks is the model's reading (log entry 19). -/
def Obligations.ScanInstructionsIssue : Prop :=
  (∀ (i : Instr) (x : XOp) (f : Regs → OpSlot → OpSlot) (s : State), scopRow i = some (x, f) → i.wf = true → Ready x.h.g x.wait.val i.bytes s →
    let n : Fin 8 := Fin.ofNat 8 (x.w2f 0 3)
    ∃ t, exec i s = .next t ∧ After i.bytes (s.mapCore fun c => { c with slots := c.slots.set n (f c.regs c.slots[n]) }) t)
    ∧ (∀ (i : Instr) (x : XOp) (sub : Nat) (s : State), scanRow i = some (x, sub) → i.wf = true →
        let r := s.core.regs.lrec x.l.val
        let o := s.core.slots[(Fin.ofNat 8 (x.w2f 0 3) : Fin 8)]
        (sub = 2 → (s.core.myRide (x.w2f 5 1)).isSome = true) → scanLegal r →
          (r.empty = true → Ready x.h.g x.wait.val i.bytes s → (s.core.queue .s).length < 16 → o.ok = true → r.e2 = o.nin →
            Enqueues i s { q := .s, cls := 13, sub := sub, x := x, lrec := some r, op := some o, lanes := 16 * (r.e1 + 1) * (2 * o.rounds) })
          ∧ (∀ rd wr, r.empty = false → Ready x.h.g x.wait.val i.bytes s → (s.core.queue .s).length < 16 → o.ok = true → r.e2 = o.nin →
            scanOverlap r { r with base := r.aux0, e2 := o.outs.length } = false →
              scanRanges x r { r with base := r.aux0, e2 := o.outs.length } s = .ok (rd, wr) →
                Enqueues i s { q := .s, cls := 13, sub := sub, x := x, lrec := some r, op := some o, reads := rd, writes := wr
                               lanes := 16 * (r.e1 + 1) * (2 * o.rounds)
                               grant := if 64 < r.e1 then .toAsk (r.e1 * o.cost * (if sub = 1 ∧ x.w2f 3 1 = 0 ∧ o.exact = true then 1 else 2)) else .notNeeded })
          ∧ (Issues x.h.g x.wait.val s → o.ok = false → exec i s = .next (s.noted.trapNow .scslot (BitVec.ofNat 64 (x.w2f 0 3)))))
    ∧ (∀ (i : Instr) (x : XOp) (ch : Nat) (s : State), (i = .scanc x ∧ ch = x.w2f 5 1) ∨ (i = .rbar x ∧ ch = x.w2f 0 1) → i.wf = true →
        Issues x.h.g x.wait.val s → s.core.myRide ch = none → exec i s = .next (s.noted.trapNow .nodecl (BitVec.ofNat 64 ch)))
    ∧ (∀ (x : XOp) (s : State) (act : Activation) (me : Actor) (h : Header) (lv : Nat), (Instr.ride x).wf = true →
        Ready x.h.g x.wait.val (Instr.ride x).bytes s → s.core.act = some act → (∃ aid off, act.src = .message aid off) → s.core.self = some me →
          s.rideLevel me.slot (x.w2f 0 1) = some (h, lv) → h.item me.wid (s.core.regs.gangix == 0) = true →
            ∃ t, exec (.ride x) s = .next t
              ∧ After (Instr.ride x).bytes (if (me.ride (x.w2f 0 1)).isSome then s else s.mapCore fun c => c.mapActor me.aid fun a =>
                  { a with
                    rides := a.rides.set (Fin.ofNat 2 (x.w2f 0 1)) (some
                      { pos := h.field a.wid lv / (if lv + 1 = h.n then h.gang else 1), len := h.cnt.getD lv 0 / (if lv + 1 = h.n then h.gang else 1)
                        rounds := 0, arrived := 0, released := 0, hop := a.hopOf (x.w2f 0 1) })
                    early := a.early.filter fun p => p.1 != x.w2f 0 1 }) t)
    ∧ (∀ (x : XOp) (s : State) (r : Ride), (Instr.rbar x).wf = true → Ready x.h.g x.wait.val (Instr.rbar x).bytes s →
        let ch := x.w2f 0 1
        s.core.myRide ch = some r →
          let arrives (u : State) : State := u.mapCore fun c =>
            (c.mapActor c.regs.aid fun a => a.mapRide ch fun q => { q with arrived := q.arrived + 1 }).setRbar ch (some (r.arrived + 1))
          (s.core.rbarPhase ch = none → s.core.queue .s = [] → r.released ≤ r.arrived →
            ∃ t, exec (.rbar x) s = .next t ∧ AfterStay ((arrives s).mapCore fun c => { c with await := some { kind := .rbar ch, addr := 0, len := (Instr.rbar x).bytes } }) t)
          ∧ (∀ p, s.core.rbarPhase ch = some p → p ≤ r.released →
              ∃ t, exec (.rbar x) s = .next t ∧ After (Instr.rbar x).bytes (s.mapCore fun c => c.setRbar ch none) t))
    ∧ ∀ (x : XOp) (s : State), (Instr.scwait x).wf = true → Ready x.h.g x.wait.val (Instr.scwait x).bytes s →
        (s.core.queue .s = [] → SetsRegs (.scwait x) s (s.core.regs.ws x.d
          (BitVec.ofNat 64 ((match s.core.myRide (x.w2f 0 1) with | some r => r.rounds | none => 0) % 2 ^ 32))))
        ∧ (s.core.queue .s ≠ [] → ∃ t, exec (.scwait x) s = .next t ∧ t.core.hold = true ∧ AfterStay s t)

/-- 16_scan.md R260, R265 to R267, R269, R270 to R272: a SCAN's commit writes, for each lane and step, the carry in combined with the lane's
prefix since the last reset, and with C = 1 its carries. A SCANC goes through its phases: pass 1 forms the prefixes of its lanes; then it takes its
carry in from the hop and hands its carries to the successor; then pass 2 writes as a SCAN does and counts a round. A carry that arrives stands in the
hop buffer, before RIDE too; a phase is released to every member that the state holds once all of them have arrived with empty hop buffers.
That an item which is never made is passed over as a destroyed member is, and that the first member left of a chain begins with the identity, is the
model's reading of R269, R271 and R272 (DEDUCED, log entry 56); the times of the phases, and that a carry is taken when cout is handed on, are
log entry 19. -/
def Obligations.ScanResults : Prop :=
  (∀ (k : Cmd) (r : LRec) (o : OpSlot) (s : State), s.ready .s = some k → k.cls = 13 → k.lrec = some r → k.op = some o → scanLegal r → r.e2 ≤ o.nst →
    o.nst ≤ 4 → s.core.calm → s.core.scratch.wf = true →
      let c1 := k.x.w2f 3 1 == 1
      scanApart k r o c1 →
        (k.sub = 1 → r.empty = false → ∃ t fl, exec (.commandCommit .s) s = .next t ∧ t.core.regs = s.core.regs.accrue fl ∧ t.pkg = s.pkg
          ∧ ScanWrites k r o (fun l => if c1 then carryLane k r o s.core l else o.ident) c1 s t)
        ∧ (k.sub = 1 → r.empty = true → ∃ t, exec (.commandCommit .s) s = .next t ∧ t.core.regs = s.core.regs ∧ t.core.scratch = s.core.scratch)
        ∧ (k.sub = 2 → ∀ a rd, s.core.actor k.aid = some a → a.ride (k.x.w2f 5 1) = some rd →
            (k.scan = none → ∃ t w, exec (.commandCommit .s) s = .next t ∧ t.core.regs = s.core.regs ∧ t.core.scratch = s.core.scratch
              ∧ t.core.cmds = s.withScan k w ∧ w.cin = none ∧ (r.empty = true → w.lanes = [] ∧ w.record = [])
              ∧ (r.empty = false → ScanPrefixes k r o s w.lanes
                  ∧ w.record = if rd.pos = 0 ∧ c1 = true then (List.range 16).map (carryLane k r o s.core) else []))
            ∧ (∀ w, k.scan = some w → w.cin = none → rideWaits s k = false →
                let cin (l : Nat) : List Nat := if rd.pos = 0 then w.record.getD l o.ident else o.adapt ((rd.hop.headD []).getD l [])
                ∃ t v fl cs, exec (.commandCommit .s) s = .next t ∧ t.core.regs = s.core.regs ∧ t.core.scratch = s.core.scratch
                  ∧ t.core.cmds = s.withScan k { w with cin := some v, fl := fl } ∧ v = (List.range 16).map cin ∧ cs.length = 16
                  ∧ (∀ l < 16, cs.getD l [] = List.map (BitVec.ofNat 32) (match w.lanes[l]? with
                      | some p => if p.1 < p.2.length then p.2.getLastD [] else (combine o k.rc (k.drawAt o.rounds l p.2.length) (cin l) (p.2.getLastD [])).1
                      | none => cin l))
                  ∧ (let u := (s.mapCore fun c => c.mapActor k.aid fun b => b.mapRide (k.x.w2f 5 1) fun q =>
                        { q with hop := if rd.pos = 0 then q.hop else q.hop.drop 1, sent := q.sent + 1 }).sendCarry a (k.x.w2f 5 1) cs
                     t.core.actors = u.core.actors ∧ t.peers = u.peers ∧ t.pkg = u.pkg))
            ∧ (∀ w cin, k.scan = some w → w.cin = some cin → r.empty = false → ScanPrefixes k r o s w.lanes →
                ∃ t fl b, exec (.commandCommit .s) s = .next t ∧ t.core.regs = s.core.regs.accrue fl
                  ∧ ScanWrites k r o (fun l => cin.getD l []) c1 s t
                  ∧ t.core.actor k.aid = some b ∧ b.ride (k.x.w2f 5 1) = some { rd with rounds := rd.rounds + 1 })))
    ∧ (∀ (o : OpSlot) (rc : RCtx) (base : Nat) (e l : List Nat) (s : Comb) (m : MicroOp),
        let g (n : Nat) : FVal := FFmt.fp32.unpack (if n < 4 then e.getD n 0 else if n < 8 then l.getD (n - 4) 0 else s.t.getD (n - 8) 0)
        let t := microStep rc base e l s m
        (m.op.val = 2 → t.t = s.t.set m.t.val (FFmt.fp32.pack (fadd .fp32 rc.mode (rc.draw (base + s.q)) (g m.a.val) (g m.b.val)).1) ∧ t.q = s.q + 1)
        ∧ (m.op.val = 4 → t.t = s.t.set m.t.val (FFmt.fp32.pack (fmul .fp32 rc.mode (rc.draw (base + s.q)) (g m.a.val) (g m.b.val)).1) ∧ t.q = s.q + 1)
        ∧ (m.op.val = 6 → t.t = s.t.set m.t.val (FFmt.fp32.pack (fmaxV (g m.a.val) (g m.b.val))) ∧ t.q = s.q)
        ∧ (o.body = [m] → (combine o rc base e l).1 = (microStep rc base e l { t := List.replicate 8 0, q := 0, fl := noFlags } m).t.take o.nst))
    ∧ (∀ (aid : Nat) (ch : Fin 2) (carry : List (List (BitVec 32))) (s : State) (a : Actor) (h : Header) (lv : Nat),
        s.heldActors.find? (fun b => b.aid == BitVec.ofNat 24 aid) = some a → s.rideLevel a.slot ch = some (h, lv) → h.item a.wid false = true →
          h.chainPos lv a.wid ≠ 0 → carry.length = 16 → (a.hopOf ch).length < 4 → s.holdsPredecessor a ch = false → s.headless a ch = false →
            exec (.rideCarryArrival aid ch carry) s
              = .next (s.mapAnyActor a.aid fun b =>
                  if (b.ride ch).isSome then b.mapRide ch fun q => { q with hop := q.hop ++ [carry] }
                  else { b with early := b.early ++ [(ch.val, carry)] }))
    ∧ ∀ (aid : Nat) (ch : Fin 2) (s : State) (a : Actor) (r : Ride) (h : Header) (lv : Nat), s.rider (BitVec.ofNat 24 aid) ch = some (a, r) →
        s.rideLevel a.slot ch = some (h, lv) →
          (∀ w ∈ h.chainWids lv a.wid, s.passes a.slot w = true ∨ ∃ e, s.actorOfWid a.slot w = some e
            ∧ ∀ b, s.heldActors.find? (fun c => c.aid == e.aid) = some b →
                b.hopOf ch = [] ∧ (w % h.gang = 0 → ∃ q, b.ride ch = some q ∧ r.released < q.arrived)) →
            exec (.rbarRelease aid ch) s = .next ((s.chainMembers a ch).foldl
              (fun s p => s.mapAnyActor p.1.aid fun b => b.mapRide ch fun q => { q with released := r.released + 1 }) s)

/-- 14_lawstate.md R235, R245 to R252: a law instruction whose bytes are local and aligned issues one command with its declared bytes,
lanes and destinations; other bytes raise ASPACE, ALIGN or LRANGE. LREG checks its range, LTICK, LNOW and LREGF take none. -/
def Obligations.LawInstructionsIssue : Prop :=
  (∀ (i : Instr) (x : XOp) (sub n : Nat) (wr : Bool) (lanes : Nat) (dst : List SReg) (s : State), lawRow i = some (x, sub, n, wr, lanes, dst) →
    i.wf = true →
      let ea : Word := s.core.regs.rs x.a + (x.w2.extractLsb' 16 16).signExtend 64
      let rg : Range := { lo := s.core.span.1 + ea.toNat, hi := s.core.span.1 + ea.toNat + n }
      let traps (c : Cause) : Prop := exec i s = .next (s.noted.trapNow c ea)
      (Ready x.h.g x.wait.val i.bytes s → (s.core.queue .l).length < 16 → ea.toNat < 2 ^ 60 → ea.toNat % n = 0 → ea.toNat + n ≤ s.core.span.2 →
        Enqueues i s { q := .l, cls := 14, sub := sub, x := x, reads := if wr then [] else [rg], writes := if wr then [rg] else []
                       dst := dst, lanes := lanes })
      ∧ (Issues x.h.g x.wait.val s → ¬(ea.toNat < 2 ^ 60) → traps .aspace)
      ∧ (Issues x.h.g x.wait.val s → ea.toNat < 2 ^ 60 → ea.toNat % n ≠ 0 → traps .align)
      ∧ (Issues x.h.g x.wait.val s → ea.toNat < 2 ^ 60 → ea.toNat % n = 0 → s.core.span.2 < ea.toNat + n → traps .lrange))
    ∧ (∀ (i : Instr) (x : XOp) (sub : Nat) (dst : List SReg) (s : State), lawPlain i = some (x, sub, dst) → i.wf = true →
        Ready x.h.g x.wait.val i.bytes s → (s.core.queue .l).length < 16 → Enqueues i s { q := .l, cls := 14, sub := sub, x := x, dst := dst })
    ∧ ∀ (x : XOp) (s : State), (Instr.lreg x).wf = true →
        let base := s.core.regs.rs x.a
        let len := s.core.regs.rs x.b
        let traps (c : Cause) : Prop := exec (.lreg x) s = .next (s.noted.trapNow c base)
        let aligned : Prop := base.toNat % 8 = 0 ∧ len.toNat % 8 = 0
        let inside : Prop := len ≠ 0 ∧ base.toNat + len.toNat ≤ s.core.span.2
        (Ready x.h.g x.wait.val (Instr.lreg x).bytes s → (s.core.queue .l).length < 16 → base.toNat < 2 ^ 60 → aligned → inside →
          Enqueues (.lreg x) s { q := .l, cls := 14, sub := 8, x := x, dst := [x.d] })
        ∧ (Issues x.h.g x.wait.val s → ¬(base.toNat < 2 ^ 60) → traps .aspace)
        ∧ (Issues x.h.g x.wait.val s → base.toNat < 2 ^ 60 → ¬aligned → traps .align)
        ∧ (Issues x.h.g x.wait.val s → base.toNat < 2 ^ 60 → aligned → ¬inside → traps .lrange)

/-- 14_lawstate.md R235, R237 to R239, R246 to R248: LLD, LADD and LREB of a word of their width evaluate it at its age with one rounding
to FP32 and return it; LADD adds its operand before the rounding, LADD and LREB write the value back based now; a crossing that the evaluation finds is handed over
and sets FIRED; a word of the other width raises LKIND. LST writes a word based now.
That a value at age 0 keeps the sign of a stored zero, and that LREB adds +0 to it, is the model's reading (log entry 20). -/
def Obligations.LawWordResults : Prop :=
  (∀ (k : Cmd) (s : State), LawHead k k.sub s → k.sub = 0 ∨ k.sub = 2 ∨ k.sub = 3 →
    let ea : Word := k.sa + (k.x.w2.extractLsb' 16 16).signExtend 64
    let p := k.base + ea.toNat
    let lo := s.core.word p
    let hi := s.core.word (p + 8)
    let entry := s.grove.lawTab[(Fin.ofNat 256 lo.toNat : Fin 256)]
    let l := lawOf entry
    let d := (s.grove.lawnow.setWidth 23 - (lo >>> 9).setWidth 23).toNat
    let cr := lawCrosses l lo hi d
    (l.wide = true ∧ k.x.w2.getLsbD 0 = false ∨ l.wide = false ∧ k.x.w2.getLsbD 0 = true →
      ∃ t, exec (.commandCommit .l) s = .next t ∧ t.core.regs = s.core.regs ∧ t.core.scratch = s.core.scratch ∧ t.grove.crossings = s.grove.crossings
        ∧ t.core.deferred = s.core.deferred ++ [{ cause := .lkind, tval := ea, q := some .l, at_ := s.grove.cycle, mgmt := k.mgmt }])
    ∧ (l.wide = false → k.x.w2.getLsbD 0 = false → (cr = true → s.grove.crossings.length < 16) →
        let y := lawExact l k.rc.mode (lwValue lo) d
        let z : FVal := if k.sub = 2 then FFmt.ofWord .fp32 k.sb else .pzero
        let v := FFmt.fp32.pack (roundF .fp32 k.rc.mode (k.rc.draw 0) (if k.sub = 0 then y else (addV k.rc.mode y z).1)).1
        ∃ t fl, exec (.commandCommit .l) s = .next t ∧ t.core.regs = (s.core.regs.ws k.x.d (BitVec.ofNat 64 v)).accrue fl
          ∧ Holds t.core.scratch s.core.scratch p 8
              (if k.sub = 0 then (if cr then lo ||| 0x100 else lo) else lawWord (BitVec.ofNat 32 v) s.grove.lawnow (lo.getLsbD 8 || cr) (lo.setWidth 8))
          ∧ t.grove.crossings = s.grove.crossings ++ (if cr then [{ lo := lo, hi := hi, entry := entry, age := d, lawnow := s.grove.lawnow, offset := ea.setWidth 32, owner := k.aid, slot := k.slot, sweep := false }] else []))
    ∧ (l.wide = true → k.x.w2.getLsbD 0 = true → (cr = true → s.grove.crossings.length < 16) →
        let a := lawAdvance l k.rc.mode lo hi d
        let add (w : Word) : Option FVal := if k.sub = 0 then none else some (if k.sub = 2 then FFmt.ofWord .fp32 w else .pzero)
        let re := (lawRound k.rc.mode (k.rc.draw 0) (add k.sb) a.1).1
        let im := (lawRound k.rc.mode (k.rc.draw 1) (add k.sc) a.2).1
        ∃ t fl, exec (.commandCommit .l) s = .next t
          ∧ t.core.regs = (if k.x.d = 0 then s.core.regs else (s.core.regs.ws k.x.d (BitVec.ofNat 64 re)).ws (k.x.d + 1) (BitVec.ofNat 64 im)).accrue fl
          ∧ t.core.word p = (if k.sub = 0 then (if cr then lo ||| 0x100 else lo) else lawWord (BitVec.ofNat 32 re) s.grove.lawnow (lo.getLsbD 8 || cr) (lo.setWidth 8))
          ∧ t.core.word (p + 8) = (if k.sub = 0 then hi else BitVec.ofNat 32 im ++ hi.setWidth 32)
          ∧ ∀ q, ¬(p ≤ q ∧ q < p + 16) → t.core.scratch.read q = s.core.scratch.read q))
    ∧ ∀ (k : Cmd) (s : State), LawHead k 1 s →
        let ea : Word := k.sa + (k.x.w2.extractLsb' 16 16).signExtend 64
        let p := k.base + ea.toNat
        let idx : BitVec 8 := k.x.w2.extractLsb' 8 8
        let l := lawOf s.grove.lawTab[(Fin.ofNat 256 idx.toNat : Fin 256)]
        (l.wide = k.x.w2.getLsbD 0 →
          ∃ t, exec (.commandCommit .l) s = .next t ∧ t.core.regs = s.core.regs ∧ t.core.word p = lawWord (k.sb.setWidth 32) s.grove.lawnow false idx
            ∧ (l.wide = true → t.core.word (p + 8) = k.sc.setWidth 32 ++ (0 : BitVec 32))
            ∧ ∀ q, ¬(p ≤ q ∧ q < p + (if l.wide then 16 else 8)) → t.core.scratch.read q = s.core.scratch.read q)
        ∧ (l.wide = !k.x.w2.getLsbD 0 →
            ∃ t, exec (.commandCommit .l) s = .next t ∧ t.core.scratch = s.core.scratch
              ∧ t.core.deferred = s.core.deferred ++ [{ cause := .lkind, tval := ea, q := some .l, at_ := s.grove.cycle, mgmt := k.mgmt }])

/-- 14_lawstate.md R228, R234, R239 to R243, R249 to R252: LSET writes a table entry that R234 accepts, and raises LTAB for any other; LGET
stores an entry; LTICK advances LAWNOW by 1 to 65,536 in LTICK-only mode and raises LCLOCK otherwise; LNOW reads it; LREG and LREGF take and free a sweep region. In
divider mode LAWNOW advances by 1; the sweeper rebases old words; a search that ends sends its message.
The index that LREG takes is the model's choice (log entry 20), an LTICK of 0 its reading (log entry 46). -/
def Obligations.LawTableAndTime : Prop :=
  (∀ (k : Cmd) (s : State), LawHead k 4 s →
    let ea : Word := k.sa + (k.x.w2.extractLsb' 16 16).signExtend 64
    let e := BitVec.ofNat 256 (leNat (s.core.readScratch (k.base + ea.toNat) 32))
    (lawOk e = true → CommitsAs .l k s fun s u =>
      u = { s with grove := { s.grove with lawTab := s.grove.lawTab.set (Fin.ofNat 256 (k.x.w2f 8 8)) e } })
    ∧ (lawOk e = false → ∃ t, exec (.commandCommit .l) s = .next t ∧ t.grove.lawTab = s.grove.lawTab
        ∧ t.core.deferred = s.core.deferred ++ [{ cause := .ltab, tval := ea, q := some .l, at_ := s.grove.cycle, mgmt := k.mgmt }]))
    ∧ (∀ (k : Cmd) (s : State), LawHead k 5 s →
        let p := k.base + (k.sa + (k.x.w2.extractLsb' 16 16).signExtend 64 : Word).toNat
        ∃ t, exec (.commandCommit .l) s = .next t ∧ t.core.regs = s.core.regs ∧ t.grove.lawTab = s.grove.lawTab
          ∧ BitVec.ofNat 256 (leNat (t.core.readScratch p 32)) = s.grove.lawTab[(Fin.ofNat 256 (k.x.w2f 8 8) : Fin 256)]
          ∧ ∀ q, ¬(p ≤ q ∧ q < p + 32) → t.core.scratch.read q = s.core.scratch.read q)
    ∧ (∀ (k : Cmd) (s : State), LawHead k 6 s →
        (k.sa = 0 → CommitsAs .l k s fun s u => u = s)
        ∧ (1 ≤ k.sa.toNat → k.sa.toNat ≤ 65536 → s.grove.lawMode = .ltickOnly → s.tickFree k.sa.toNat = true → CommitsAs .l k s fun s u =>
            u = { s with grove := { s.grove with lawnow := s.grove.lawnow + k.sa.setWidth 48 } })
        ∧ (65536 < k.sa.toNat ∨ k.sa ≠ 0 ∧ s.grove.lawMode ≠ .ltickOnly → ∃ t, exec (.commandCommit .l) s = .next t ∧ t.grove.lawnow = s.grove.lawnow
            ∧ t.core.deferred = s.core.deferred ++ [{ cause := .lclock, tval := k.sa, q := some .l, at_ := s.grove.cycle, mgmt := k.mgmt }]))
    ∧ (∀ (k : Cmd) (s : State), LawHead k 7 s → CommitsAs .l k s fun s u => u = s.ws k.x.d (s.grove.lawnow.setWidth 64))
    ∧ (∀ (k : Cmd) (s : State), LawHead k 8 s →
        (k.x.w2.getLsbD 1 = false → ∀ i : Fin 16, s.grove.sweeps[i] = none → (∀ j < i, s.grove.sweeps[j] ≠ none) → k.aid ≠ 0 → (s.core.actor k.aid).isSome = true →
          CommitsAs .l k s fun s u =>
            u = ({ s with grove := { s.grove with sweeps := s.grove.sweeps.set i (some { core := s.core.ix, aid := k.aid, base := k.base, bytes := { lo := k.base + k.sa.toNat, hi := k.base + k.sa.toNat + k.sb.toNat } }) } } : State).ws k.x.d (BitVec.ofNat 64 i.val))
        ∧ (k.x.w2.getLsbD 1 = false → (∀ j : Fin 16, s.grove.sweeps[j] ≠ none) → CommitsAs .l k s fun s u => u = s.ws k.x.d (BitVec.allOnes 64))
        ∧ (k.x.w2.getLsbD 1 = true → ∀ i : Fin 16, i = Fin.ofNat 16 k.sa.toNat → (∃ w, s.grove.sweeps[i] = some w ∧ w.aid = k.aid ∧ k.aid ≠ 0) →
            CommitsAs .l k s fun s u => u = { s with grove := { s.grove with sweeps := s.grove.sweeps.set i none } })
        ∧ (k.x.w2.getLsbD 1 = true → s.grove.sweeps[(Fin.ofNat 16 k.sa.toNat : Fin 16)] = none → ∃ t, exec (.commandCommit .l) s = .next t
            ∧ t.grove.sweeps = s.grove.sweeps
            ∧ t.core.deferred = s.core.deferred ++ [{ cause := .ltab, tval := k.sa + (k.x.w2.extractLsb' 16 16).signExtend 64, q := some .l, at_ := s.grove.cycle, mgmt := k.mgmt }]))
    ∧ (∀ (s : State) (d : Nat), s.grove.lawMode = .divider d →
        exec .lawnowAdvance s = .next { s with grove := { s.grove with lawnow := s.grove.lawnow + 1 } })
    ∧ (∀ (off : Nat) (s : State) (w : Sweep), off < 2 ^ 18 → s.core.ix = 0 → s.core.scratch.wf = true → w.core = 0 → w.bytes.lo ≤ off → off < w.bytes.hi →
        off % 16 = 0 → s.grove.sweeps[(0 : Fin 16)] = some w → w.parked = none → s.core.calm →
          let lo := s.core.word off
          let l := lawOf s.grove.lawTab[(Fin.ofNat 256 lo.toNat : Fin 256)]
          let d := (s.grove.lawnow.setWidth 23 - (lo >>> 9).setWidth 23).toNat
          let v := FFmt.fp32.pack (roundF .fp32 .rne 0 (lawExact l .rne (lwValue lo) d)).1
          l.wide = false → l.dir = 0 →
            ∃ t, exec (.sweeperVisit off) s = .next t ∧ t.core.regs = s.core.regs
              ∧ (d < 2 ^ 21 → t.core.scratch = s.core.scratch)
              ∧ (2 ^ 21 ≤ d → Holds t.core.scratch s.core.scratch off 8 (lawWord (BitVec.ofNat 32 v) s.grove.lawnow (lo.getLsbD 8) (lo.setWidth 8))))
    ∧ ∀ (x : Crossing) (l : List Crossing) (s : State), s.grove.crossings = x :: l →
        let w := lawOf x.entry
        let m : MsgArgs := { h0 := header0 0xFF 0 32 w.cls false false w.typ, h1 := s.grove.crossSeq.setWidth 64, payload := x.payload }
        exec .crossingSearchEnd s = .next ((sendCross { tgt := w.tgt, slot := x.slot, msg := m }
          { s with grove := { s.grove with crossings := l, crossSeq := s.grove.crossSeq + 1 } }))

/-- 18_messages.md R295 to R302, 02_execution.md R35: MASKC, UNMC, HSET, HCLR, WSET and WCLR change the running actor, or raise HBAD or
WBAD; MBOX returns what its selector names; in a task each raises NOACT. WIDF returns a field or prefix. ADEST issues a command.
SPAWN and LAUNCH of a legal header wait for the placer, and return −2 else; its answer completes them.
The faults of SPAWN's and LAUNCH's operands are the model's reading (log entry 25). -/
def Obligations.ActorInstructionResults : Prop :=
  (∀ (i : Instr) (x : XOp) (ok : Regs → Actor → Prop) (c : Cause) (v : Word) (f : Regs → Actor → Actor) (s : State),
    selfRow i = some (x, ok, c, v, f) → i.wf = true →
      (∀ a, Ready x.h.g x.wait.val i.bytes s → s.core.self = some a → ok s.core.regs a →
        ∃ t, exec i s = .next t ∧ After i.bytes (s.mapCore fun c => c.mapActor c.regs.aid (f c.regs)) t)
      ∧ (∀ a, Issues x.h.g x.wait.val s → s.core.self = some a → ¬ok s.core.regs a → exec i s = .next (s.noted.trapNow c v))
      ∧ (Issues x.h.g x.wait.val s → s.core.self = none → exec i s = .next (s.noted.trapNow .noact ((firstWord i).setWidth 64))))
    ∧ (∀ (x : XOp) (s : State), (Instr.mbox x).wf = true →
        (∀ a, Ready x.h.g x.wait.val (Instr.mbox x).bytes s → s.core.self = some a → a.fits →
          ∃ v, SetsRegs (.mbox x) s (s.core.regs.ws x.d v) ∧ mailboxSays (x.w2f 0 2) a s.core v)
        ∧ (Issues x.h.g x.wait.val s → s.core.self = none → exec (.mbox x) s = .next (s.noted.trapNow .noact ((firstWord (.mbox x)).setWidth 64))))
    ∧ (∀ (x : XOp) (s : State), (Instr.widf x).wf = true → Ready x.h.g x.wait.val (Instr.widf x).bytes s →
        let k := x.w2f 0 3
        let w := s.core.regs.rs x.a
        let v (h : Header) : Word :=
          if h.n ≤ k then 0 else if x.w2.getLsbD 3 then (w >>> h.low k) <<< h.low k else BitVec.ofNat 64 (w.toNat / 2 ^ h.low k % 2 ^ h.w.getD k 0)
        (∀ l, s.myLaunch = some l → SetsRegs (.widf x) s (s.core.regs.ws x.d (v l.hdr)))
        ∧ (s.myLaunch = none → SetsRegs (.widf x) s (s.core.regs.ws x.d 0)))
    ∧ (∀ (x : XOp) (s : State), (Instr.adest x).wf = true →
        let a := s.core.regs.rs x.a
        (Ready x.h.g x.wait.val (Instr.adest x).bytes s → (s.core.queue .e).length < 16 → (∃ pk aid off, placeOf s a = some (.actor pk aid off)) →
          Enqueues (.adest x) s { q := .e, cls := 16, sub := 5, x := x })
        ∧ (Issues x.h.g x.wait.val s → (∀ pk aid off, placeOf s a ≠ some (.actor pk aid off)) →
            exec (.adest x) s = .next (s.noted.trapNow .aspace a)))
    ∧ (∀ (x : XOp) (s t : State) (raw : List Byte) (act : Activation), (Instr.spawn x).wf = true → Ready x.h.g x.wait.val (Instr.spawn x).bytes s →
        s.core.act = some act → readHeader (s.core.regs.rs x.a) s = .ok (some raw, t) →
          ((parseSpawn raw).isSome = true → s.widHeld act.slot (s.core.regs.rs x.b) = false →
            ∃ u, exec (.spawn x) s = .next u
              ∧ AfterStay (t.mapCore fun c => { c with await := some { kind := .spawn x.d raw (c.regs.rs x.b), addr := c.regs.rs x.a, len := (Instr.spawn x).bytes } }) u)
          ∧ ((parseSpawn raw).isSome = false ∨ s.widHeld act.slot (s.core.regs.rs x.b) = true →
              ∃ u, exec (.spawn x) s = .next u ∧ After (Instr.spawn x).bytes (t.ws x.d (-2)) u))
    ∧ (∀ (x : XOp) (s t : State) (raw : List Byte), (Instr.launch x).wf = true → Ready x.h.g x.wait.val (Instr.launch x).bytes s →
        launchFault s (s.core.regs.rs x.b) (s.core.regs.rs x.c) = none → readHeader (s.core.regs.rs x.a) s = .ok (some raw, t) →
          (∀ h tr br v, parseLaunch raw = some h → declsOf h t = some (tr, br, v) →
            ∃ u, exec (.launch x) s = .next u
              ∧ AfterStay (v.mapCore fun c => { c with await := some { kind := .launch x.d raw (c.regs.rs x.b) (c.regs.rs x.c) (x.w2f 0 5), addr := c.regs.rs x.a, len := (Instr.launch x).bytes } }) u)
          ∧ (parseLaunch raw = none → ∃ u, exec (.launch x) s = .next u ∧ After (Instr.launch x).bytes (t.ws x.d (-2)) u))
    ∧ ∀ (s : State) (w : Await), s.core.await = some w → s.core.ganged = false → s.core.mgmt = false → runsOff s.core w.len = false →
        (∀ d raw wid c, w.kind = .spawn d raw wid → c = 1 ∨ c = 3 → AnswersWith (.placerAnswer (.refuse c)) s w.len (s.ws d (BitVec.ofInt 64 (-c))))
        ∧ (∀ d raw wid aid near h l, w.kind = .spawn d raw wid → parseSpawn raw = some h → s.myLaunch = some l → s.widHeld l.slot wid = false →
            s.newAid aid = true → s.gangAway l wid near = true → (near = true → s.nearTakes l = true) →
              ∀ u, (makeAway h l.slot wid (BitVec.ofNat 24 aid) near (if near then joinGrove l s else s)).seated l wid near = some u →
                AnswersWith (.placerAnswer (.away aid near)) s w.len (u.ws d (actorAddr (BitVec.ofNat 24 aid) 0))
              ∧ u.core = s.core ∧ u.pkg.entry (BitVec.ofNat 24 aid) = some { aid := BitVec.ofNat 24 aid, wid := wid, slot := l.slot, at_ := .away near, ringK := h.ringK })
        ∧ (∀ d raw comp notify ntype n h tr br v, w.kind = .launch d raw comp notify ntype → parseLaunch raw = some h → declsOf h s = some (tr, br, v) →
            v.pkg.slotFree n = true →
              let l := newLaunch n s.core.tenant h tr br true comp notify ntype s.core.sliceBase none
              ({ v.pkg with launches := v.pkg.launches ++ [l] } : Pkg).unitsFit = true → ∃ u : State, AnswersWith (.placerAnswer (.slot n)) s w.len (u.ws d (BitVec.ofNat 64 n))
              ∧ u.pkg.launch (BitVec.ofNat 12 n) = some l)

/-- 18_messages.md R279 to R284, R294: SENDM of a payload in reach to an actor whose ring can hold it issues one command; another view raises ASPACE, an actor that is
gone ADEAD, a message too long MSGBIG. Its commit posts the message with its header; at the actor it takes ring space or is held and its sender listed;
its last flit lands it and counts into the sync word it names; a notice or the unlisted time sends held messages again.
The cache of ring sizes is the model's (log entry 21). -/
def Obligations.MessageResults : Prop :=
  (∀ (x : XOp) (s : State) (pk : Option Nat) (aid : BitVec 24) (off : Nat) (g : Range), (Instr.sendm x).wf = true →
    let a := s.core.regs.rs x.a
    let n := x.w2f 16 10
    let size := 16 + (n + 15) / 16 * 16
    let traps (c : Cause) (v : Word) : Prop := exec (.sendm x) s = .next (s.noted.trapNow c v)
    (placeOf s a = some (.actor pk aid off) → (n ≠ 0 → localSpan s (s.core.regs.rs x.b) n 16 = .ok g) →
      (∀ k t, s.ringSize pk aid (ringKey (.actor pk aid off) a) = .is k t → size + 16 ≤ 2 ^ k → Ready x.h.g x.wait.val (Instr.sendm x).bytes s →
        (s.core.queue .e).length < 16 → ∃ u, exec (.sendm x) s = .next u
          ∧ After (Instr.sendm x).bytes (t.taken { q := .e, cls := 15, sub := 0, x := x, reads := if n = 0 then [] else [g] }) u)
      ∧ (∀ k t, s.ringSize pk aid (ringKey (.actor pk aid off) a) = .is k t → 2 ^ k < size + 16 → Issues x.h.g x.wait.val s →
          exec (.sendm x) s = .next (s.noted.trapNow .msgbig (BitVec.ofNat 64 size)))
      ∧ (s.ringSize pk aid (ringKey (.actor pk aid off) a) = .gone → Issues x.h.g x.wait.val s → traps .adead a))
    ∧ (Issues x.h.g x.wait.val s → (∀ pk aid off, placeOf s a ≠ some (.actor pk aid off)) → traps .aspace a))
    ∧ (∀ (k : Cmd) (s : State) (pk : Option Nat) (aid : BitVec 24) (off : Nat), s.ready .e = some k → s.core.calm →
        placeOf s k.sa = some (.actor pk aid off) →
          let x := k.x
          let n := x.w2f 16 10
          let pl : Place := .actor pk aid 0
          let h0 : Word := BitVec.ofNat 64 (0xFF * 2 ^ 56 + k.aid.toNat * 2 ^ 32 + n * 2 ^ 16 + x.w2f 8 3 * 2 ^ 8 + x.w2f 6 1 * 64 + x.w2f 5 1 * 32 + x.w2f 0 5)
          (k.cls = 15 → k.sub = 0 → CommitsAs .e k s fun s u =>
            u = s.mapCore fun c => c.postBy k (s.near pl) ((16 + (n + 15) / 16 * 16 + flitSize s pl - 1) / flitSize s pl)
              k.sa (normal pl (BitVec.ofNat 64 (k.sa.toNat / 2 ^ 20 * 2 ^ 20))) 0
              (.msg { h0 := h0, h1 := (k.sc.setWidth 37).setWidth 64, payload := if n = 0 then [] else c.readScratch (k.base + k.sb.toNat) n }))
          ∧ (k.cls = 16 → CommitsAs .e k s fun s u =>
              u = s.mapCore fun c => c.postBy k (s.near (.actor pk aid off)) 1 k.sa (normal (.actor pk aid off) k.sa) 0 (.destroy k.slot)))
    ∧ (∀ (p : Posted) (m : MsgArgs) (s : State) (pk : Option Nat) (aid : BitVec 24) (a : Actor) (off : Nat),
        s.core.posted.find? (fun e => e.id == p.id) = some p → p.kind = .msg m → mayArrive s p = true → placeOf s p.addr = some (.actor pk aid off) →
          s.place pk aid = .at_ 0 0 → s.core.actor aid = some a → m.h1.getLsbD 36 = false →
            (∀ b o, reserve a m (some (s.core.pkgIx, p.id)) = some (b, o, none) →
              ∃ t, exec (.messageHeaderArrival (.own p.id)) s = .next t ∧ t.core.actor aid = some (b.sentBy o (s.core.sourceOf p)) ∧ t.core.scratch = s.core.scratch
                ∧ t.core.regs = s.core.regs ∧ t.core.posted = s.core.posted.map fun e => if e.id = p.id then { e with stage := .landing, ring := some (a.base + o) } else e)
            ∧ (reserve a m (some (s.core.pkgIx, p.id)) = none → s.core.room = [] →
                ∃ t, exec (.messageHeaderArrival (.own p.id)) s = .next t ∧ t.core.actor aid = some a ∧ t.core.scratch = s.core.scratch
                  ∧ t.core.room = [{ src := s.core.sourceOf p, aid := aid }]
                  ∧ t.core.posted = s.core.posted.map fun e => if e.id = p.id then { e with stage := .held true } else e))
    ∧ (∀ (a : Actor) (m : MsgArgs) (own : Option (Nat × Nat)),
        let n := 16 + (hdrLen m.h0 + 15) / 16 * 16
        let used := (a.tail + 2 ^ a.ringK - a.head) % 2 ^ a.ringK
        a.recs ≠ [] → a.tail < 2 ^ a.ringK →
          (a.tail + n ≤ 2 ^ a.ringK → used + n + 16 ≤ 2 ^ a.ringK → ∃ b, reserve a m own = some (b, a.tail, none) ∧ b.tail = (a.tail + n) % 2 ^ a.ringK ∧ b.head = a.head)
          ∧ (2 ^ a.ringK < used + n + 16 → reserve a m own = none)
          ∧ (2 ^ a.ringK < a.tail + n → used + (2 ^ a.ringK - a.tail) + n + 16 ≤ 2 ^ a.ringK →
              ∃ b r, reserve a m own = some (b, 0, some r) ∧ b.tail = n ∧ r.off = a.tail ∧ r.size = 2 ^ a.ringK - a.tail ∧ r.pad = true))
    ∧ (∀ (aid : BitVec 24) (a : Actor) (r : MRec) (s : State), residentAt aid s.cores 0 = some (0, a) → a.landing r.off = some r → r.own = none →
        s.core.calm → s.core.scratch.wf = true →
          (∀ o p, hdrSync r.h1 = some o → a.reach o 16 .store = some p → p + 16 ≤ r.off ∨ r.off + 16 + r.payload.length ≤ p →
            ∃ t, exec (.messageLastFlit aid.toNat r.off) s = .next t ∧ t.core.sync (a.base + p) = (s.core.sync (a.base + p)).arrive r.size)
          ∧ (hdrSync r.h1 = none → ∃ t, exec (.messageLastFlit aid.toNat r.off) s = .next t ∧ t.core.regs = s.core.regs
            ∧ t.core.actor aid = some { a with recs := a.recs.map fun e => if e.off = r.off ∧ e.pad = false then { e with landed := true, payload := [] } else e }
            ∧ t.core.word (a.base + r.off) = r.h0 ∧ t.core.word (a.base + r.off + 8) = r.h1
            ∧ ∀ j < r.payload.length, t.core.scratch.read (a.base + r.off + 16 + j) = r.payload.getD j 0))
    ∧ ∀ (v : Nat) (s : State), (v < 2 ^ 24 → s.queueing (actorAddr (BitVec.ofNat 24 v) 0) = false) →
        (s.noticed v = true → exec (.roomNotice v) s
          = .next (retryMessages v (if v < 2 ^ 24 then s.mapCore fun c => { c with notices := c.notices.erase (BitVec.ofNat 24 v) } else s)))
        ∧ ((s.core.posted.any fun p => p.heldFor (noticeKey v) false) = true → exec (.unlistedRetry v) s = .next (retryMessages v s))

/-- 20_nearmem.md R310 to R312, R324 to R327, R329: NMLD, NMRUN, NMWAIT, NMFENCE, NMRED, TLD and TQ with their ranges in reach issue one command with
their declared bytes, their destination, the outstanding accesses a fence waits for, and their clearing request; NMRUN of a sync word beyond the range raises LRANGE.
NMRED's checks of its strides and sync word are the model's reading (log entry 26). -/
def Obligations.NearCommandsIssue : Prop :=
  ∀ (x : XOp) (s : State),
    (∀ g, (Instr.nmld x).wf = true → Ready x.h.g x.wait.val (Instr.nmld x).bytes s → (s.core.queue .n).length < 16 →
      localSpan s (s.core.regs.rs x.a) (4 * x.w2f 0 7) 4 = .ok g → Enqueues (.nmld x) s { q := .n, cls := 18, sub := 0, x := x, reads := [g] })
    ∧ ((Instr.nmrun x).wf = true → Ready x.h.g x.wait.val (Instr.nmrun x).bytes s → (s.core.queue .n).length < 16 →
        (x.w2.getLsbD 11 = true → x.w2f 12 20 + 16 ≤ s.core.span.2) → Enqueues (.nmrun x) s { q := .n, cls := 18, sub := 1, x := x, grant := .toAsk 128 })
    ∧ ((Instr.nmrun x).wf = true → Issues x.h.g x.wait.val s → x.w2.getLsbD 11 = true → s.core.span.2 < x.w2f 12 20 + 16 →
        exec (.nmrun x) s = .next (s.noted.trapNow .lrange (BitVec.ofNat 64 (x.w2f 12 20))))
    ∧ ((Instr.nmwait x).wf = true → Ready x.h.g x.wait.val (Instr.nmwait x).bytes s → (s.core.queue .n).length < 16 →
        Enqueues (.nmwait x) s { q := .n, cls := 18, sub := 2, x := x, dst := [x.d] })
    ∧ ((Instr.nmfence x).wf = true → Ready x.h.g x.wait.val (Instr.nmfence x).bytes s → (s.core.queue .n).length < 16 →
        Enqueues (.nmfence x) s { q := .n, cls := 18, sub := 3, x := x, fence := (s.core.posted.map fun p => p.id).filter s.core.outstanding })
    ∧ (∀ (p : Nat) (dst y : Option Range), (Instr.nmred x).wf = true → Ready x.h.g x.wait.val (Instr.nmred x).bytes s → (s.core.queue .n).length < 16 →
        let r := s.core.regs.lrec x.l.val
        let w := (tyBits r.ty + 7) / 8
        r.ty = x.ty.val → r.flagI = false → r.rsv = 0 → 1 ≤ r.e0 → r.e0 ≤ 32 → 1 ≤ r.e1 → r.e1 ≤ 32 → 1 ≤ r.e2 → r.e2 ≤ 256 → r.st1 % w = 0 → r.st2 % 64 = 0 →
          (r.flagS = false → r.aux1 = 0) → (r.flagS = true → syncPlaced s r.aux0 r.aux1 = true ∧ viewFault s r.aux1 16 Place.locOrActor = none) →
            viewFault s r.base 4 Place.isLoc = none → viewFault s r.aux0 64 Place.locOrActor = none → viewFault s (s.core.regs.rs x.b) w Place.isInter = none →
              s.localAt r.base.toNat (4 * r.e0 + 2 * r.e1) = some p → destRange s r.results = .ok dst → (if r.flagS then syncRange s r.aux1 else .ok none) = .ok y →
                (∀ g h, dst = some g → y = some h → g.meets h = false) →
                  Enqueues (.nmred x) s { q := .n, cls := 18, sub := 4, x := x, lrec := some r, reads := [{ lo := p, hi := p + (4 * r.e0 + 2 * r.e1) }]
                                          writes := dst.toList, grant := .toAsk r.e0 })
    ∧ (∀ g, (Instr.tld x).wf = true → Ready x.h.g x.wait.val (Instr.tld x).bytes s → (s.core.queue .q).length < 16 →
        localSpan s (s.core.regs.rs x.a) (tableBytes (x.w2f 0 11)) 64 = .ok g →
          Enqueues (.tld x) s { q := .q, cls := 18, sub := 5, x := x, reads := [g], grant := .toAsk (if x.w2.getLsbD 10 then 272 else 34) })
    ∧ ∀ g dst, (Instr.tq x).wf = true → Ready x.h.g x.wait.val (Instr.tq x).bytes s → (s.core.queue .q).length < 16 →
        localSpan s (s.core.regs.rs x.a) 256 64 = .ok g → tqDest s (s.core.regs.rs x.b) = .ok dst →
          (s.core.regs.rs x.c ≠ 0 → syncPlaced s (s.core.regs.rs x.b) (s.core.regs.rs x.c) = true ∧ ∃ y, syncRange s (s.core.regs.rs x.c) = .ok y) →
          Enqueues (.tq x) s { q := .q, cls := 18, sub := 6, x := x, reads := [g], writes := dst.toList, grant := .toAsk 34 }

/-- 20_nearmem.md R307, R312, R325 to R327, R330, R331: the commits. NMLD fills the buffer and its shadow; NMWAIT returns the status word; NMFENCE waits for its
accesses; TLD writes a table; TQ answers with the entries of 128 indices, written and counted locally or posted to an actor in flits; NMRED of rows of each type
writes each bag's sums and counts them into the sync word, or posts them to an actor and commits when the last flit is performed; an offset that breaks R330 raises
IDXR. A run starts with its arguments and cleared registers. -/
def Obligations.NearCommandResults : Prop :=
  (∀ (k : Cmd) (s : State), NearHead .n k 0 s →
    let n := k.x.w2f 0 7
    let e := k.x.w2f 8 7
    e + n ≤ 96 → ∃ t, exec (.commandCommit .n) s = .next t ∧ t.core.regs = s.core.regs ∧ t.core.scratch = s.core.scratch
      ∧ ∀ j : Fin 96, t.core.nmu.buf[j] = (if e ≤ j.val ∧ j.val < e + n then (BitVec.ofNat 32 (leNat (s.core.readScratch (Cmd.at_ k.reads + 4 * (j.val - e)) 4)), true) else s.core.nmu.buf[j])
          ∧ (e ≤ j.val ∧ j.val < e + n → t.core.nmu.shadow[j] = t.core.nmu.buf[j].1))
    ∧ (∀ (k : Cmd) (s : State), NearHead .n k 2 s → CommitsAs .n k s fun s u => u = s.ws k.x.d s.core.nmu.status)
    ∧ (∀ (k : Cmd) (s : State), NearHead .n k 3 s → (∀ id ∈ k.fence, s.core.outstanding id = false) → CommitsAs .n k s fun s u => u = s)
    ∧ (∀ (k : Cmd) (s : State) (p : Nat), NearHead .q k 5 s → Cmd.at_ k.reads = p → s.core.coppice.wf = true →
        let h := k.x.w2f 0 11
        ∃ t, exec (.commandCommit .q) s = .next t ∧ t.core.regs = s.core.regs ∧ t.core.scratch = s.core.scratch
          ∧ ∀ q, t.core.coppice.read q = if tabAt h ≤ q ∧ q < tabAt h + tableBytes h then s.core.scratch.read (p + (q - tabAt h)) else s.core.coppice.read q)
    ∧ (∀ (k : Cmd) (s : State), NearHead .q k 6 s → s.core.coppiceBad = [] →
        let h := k.x.w2f 0 11
        let y := k.base + k.sc.toNat
        let entry (j : Nat) : Byte :=
          s.core.coppice.read (tabAt h + 2 * (leNat (s.core.readScratch (k.base + k.sa.toNat + 2 * (j / 2)) 2) % (if h.testBit 10 then 4096 else 256)) + j % 2)
        (∀ off, placeOf s k.sb = some (.loc off) →
          let p := k.base + off
          (k.sc ≠ 0 → k.sc.toNat < 2 ^ 60 ∧ p % 32 = 0 ∧ (y + 16 ≤ p ∨ p + 256 ≤ y)) →
            ∃ t, exec (.commandCommit .q) s = .next t ∧ t.core.regs = s.core.regs ∧ t.core.coppice = s.core.coppice
              ∧ (∀ j < 256, t.core.scratch.read (p + j) = entry j) ∧ (k.sc ≠ 0 → t.core.sync y = (s.core.sync y).pieces 256)
              ∧ ∀ q, ¬(p ≤ q ∧ q < p + 256) → ¬(k.sc ≠ 0 ∧ y ≤ q ∧ q < y + 16) → t.core.scratch.read q = s.core.scratch.read q)
        ∧ (∀ pk aid off, placeOf s k.sb = some (.actor pk aid off) → off + 256 ≤ 2 ^ 20 → k.sc = 0 ∨ 2 ^ 60 ≤ k.sc.toNat →
            ∃ t l, exec (.commandCommit .q) s = .next t ∧ t.core.regs = s.core.regs ∧ t.core.scratch = s.core.scratch ∧ t.core.coppice = s.core.coppice
              ∧ t.core.posted = s.core.posted ++ l ∧ l.flatMap Posted.flitBytes = (List.range 256).map entry
              ∧ ∀ j p, l[j]? = some p →
                  let o := ((l.take j).flatMap Posted.flitBytes).length
                  (∃ bs, p.kind = .flit bs (if k.sc = 0 then none else some (.remote k.sc)) ∧ bs ≠ []) ∧ p.n = 1 ∧ p.stage = .inFlight
                    ∧ p.addr = normal (.actor pk aid (off + o)) (k.sb + BitVec.ofNat 64 o)))
    ∧ (∀ (k : Cmd) (r : LRec) (s u : State) (ps : List (List (Nat × Nat))), NearHead .n k 4 s → k.pushed = none → k.lrec = some r →
        let w := tyBits r.ty / 8
        let offs := bagOffs k r s.core
        let last (b : Nat) : Nat := if b + 1 = r.e1 then r.e0 else offs.getD (b + 1) 0
        let addr (j : Nat) : Int := nmredRow k r s.core j
        let res (b e : Nat) : Nat × Flags :=
          bagElem r.ty (((List.range (last b)).drop (offs.getD b 0)).map fun j => leNat (((s.pkg.readParts (ps.getD j [])).drop (w * e)).take w))
        let bytes (b : Nat) : List Byte := (List.range r.e2).flatMap fun e => leBytes 4 (res b e).1
        let fl := flagsOf ((List.range r.e1).flatMap fun b => (List.range r.e2).map fun e => (res b e).2)
        let dst (b : Nat) : Int := r.aux0.toNat + b * r.st2
        let y := k.base + r.aux1.toNat
        (r.ty = 4 ∨ r.ty = 8 ∨ r.ty = 9 ∨ r.ty = 10 → badBag r.e0 offs = none → s.pkg.badUnits = [] →
          (∀ j < r.e0, addr j + w * r.e2 ≤ (2 ^ 60 + 2 ^ 48 : Int)) →
            mapBatch k.pages .read ((List.range r.e0).map fun j => (BitVec.ofInt 64 (addr j), w * r.e2)) s = .ok (ps, u) →
              ((∃ off, placeOf s r.aux0 = some (.loc off)) → (4 * r.e2 : Int) ≤ r.st2 → (∀ b < r.e1, dst b < 2 ^ 60) →
                (r.flagS = true → r.aux1.toNat < 2 ^ 60 ∧ ∀ b < r.e1, y + 16 ≤ k.base + (dst b).toNat ∨ k.base + (dst b).toNat + 4 * r.e2 ≤ y) →
                  ∃ t, exec (.commandCommit .n) s = .next t ∧ t.core.regs = s.core.regs.accrue fl
                    ∧ (∀ b < r.e1, ∀ e < r.e2, leNat (t.core.readScratch (k.base + (dst b).toNat + 4 * e) 4) = (res b e).1)
                    ∧ (r.flagS = true → (∀ b < r.e1, (k.base + (dst b).toNat) % 32 = 0) →
                        t.core.sync y = (List.replicate r.e1 (4 * r.e2)).foldl SyncWord.pieces (s.core.sync y)))
              ∧ (∀ pk aid (off : Nat → Nat), 1 ≤ r.e1 →
                  (∀ b < r.e1, placeOf s (BitVec.ofInt 64 (dst b)) = some (.actor pk aid (off b)) ∧ off b + 4 * r.e2 ≤ 2 ^ 20) →
                    ∃ t l, exec (.commandCommit .n) s = .next t ∧ t.core.regs = s.core.regs ∧ t.core.scratch = s.core.scratch
                      ∧ t.core.cmds = s.core.cmds.map (fun e => if e.serial = k.serial then { e with pushed := some fl, abandoned := false } else e)
                      ∧ t.core.posted = s.core.posted ++ l ∧ l.flatMap Posted.flitBytes = (List.range r.e1).flatMap bytes
                      ∧ ∀ p ∈ l, p.n = 0 ∧ (∃ bs, p.kind = .flit bs (k.syncAt r) ∧ bs ≠ []) ∧ ∃ b < r.e1, ∃ o,
                          p.addr = normal (.actor pk aid (off b + o)) (BitVec.ofInt 64 (dst b) + BitVec.ofNat 64 o)
                            ∧ o + p.flitBytes.length ≤ 4 * r.e2 ∧ p.flitBytes = ((bytes b).drop o).take p.flitBytes.length))
        ∧ (∀ b, badBag r.e0 offs = some b → ∃ t, exec (.commandCommit .n) s = .next t ∧ t.core.scratch = s.core.scratch ∧ t.core.regs = s.core.regs
            ∧ t.core.deferred = s.core.deferred ++ [{ cause := .idxr, tval := BitVec.ofNat 64 b, q := some .n, at_ := s.grove.cycle, mgmt := k.mgmt }]))
    ∧ (∀ (k : Cmd) (s : State) (fl : Flags), NearHead .n k 4 s → k.pushed = some fl → s.core.flitsOut k = false →
        CommitsAs .n k s fun s u => u = s.merged (fun r => r) { flags := fl })
    ∧ ∀ (n : Nmu) (r : NRun), (n.begin r).run = some r ∧ (∀ j : Fin 24, (n.begin r).n[j] = 0) ∧ (n.begin r).loop0 = none ∧ (n.begin r).loop1 = none
        ∧ (n.begin r).flags = {} ∧ (n.begin r).a[(1 : Fin 4)] ++ (n.begin r).a[(0 : Fin 4)] = r.sa ∧ (n.begin r).a[(3 : Fin 4)] ++ (n.begin r).a[(2 : Fin 4)] = r.sb

/-- 20_nearmem.md R316 to R323: in a run that stands at it, an NMU instruction writes its register element by element, with the flags, and goes on; memory
instructions reach the core's slice or the issuer's range, and stop the run with the state of R322 otherwise; loops, address steps and NEND as R318 and R319 say. A run that ends
commits its command, flags and error; a parity failure reloads the program once; a run may ask for more energy. -/
def Obligations.NmuInstructionResults : Prop :=
  (∀ (i : Instr) (x : NaF) (f : Nat → Nat → Nat → Nat × Flags) (s : State) (r : NRun), nmuElemRow i = some (x, f) → i.wf = true → NmuAt s r →
    let w := tyBits (nmuTy x.ty.val)
    let n := s.core.nmu
    let e (j : Nat) : Nat × Flags := f (n.elem x.a w j) (n.elem x.b w j) (n.elem x.d w j)
    ∃ v, NmuWrites i s r x.d v (flagsOf ((List.range (256 / w)).map fun j => (e j).2)) ∧ ∀ j < 256 / w, v / 2 ^ (j * w) % 2 ^ w = (e j).1 % 2 ^ w)
    ∧ (∀ (x : NaF) (s : State) (r : NRun), (Instr.ncvt x).wf = true → NmuAt s r →
        let src := nmuTy x.b.val
        let dst := nmuTy x.ty.val
        let n := 256 / max (tyBits src) (tyBits dst)
        let e (j : Nat) : Nat × Flags := cvtElem src dst (nmuMode x.rm.val) 0 x.sat (s.core.nmu.elem x.a (tyBits src) j)
        ∃ v, NmuWrites (.ncvt x) s r x.d v (flagsOf ((List.range n).map fun j => (e j).2))
          ∧ ∀ j < 256 / tyBits dst, v / 2 ^ (j * tyBits dst) % 2 ^ tyBits dst = if j < n then (e j).1 % 2 ^ tyBits dst else 0)
    ∧ (∀ (x : NaF) (s : State) (r : NRun), (Instr.nred x).wf = true → NmuAt s r →
        let w := tyBits (nmuTy x.ty.val)
        let l := (List.range (256 / w)).map fun j => readInt true w (s.core.nmu.elem x.a w j)
        let v := treeNode (nredNode x) (s.core.nmu.elem x.a w) (Nat.log2 (256 / w)) 0
        NmuWrites (.nred x) s r x.d v.1 v.2
          ∧ (x.ty.val ≤ 2 → x.sat = false → v.1 = lowBits w (match x.x.val with | 0 => l.sum | 1 => l.min?.getD 0 | _ => l.max?.getD 0)))
    ∧ (∀ (x : NiF) (s : State) (r : NRun), (Instr.nldi x).wf = true → NmuAt s r →
        let w := tyBits (nmuTy x.ty.val)
        ∃ v, NmuWrites (.nldi x) s r x.d v noFlags ∧ ∀ j < 256 / w, v / 2 ^ (j * w) % 2 ^ w
          = (match x.ty.val with | 0 => x.imm.toNat % 256 | 2 => (x.imm.signExtend 32).toNat | 5 => x.imm.toNat * 2 ^ 16 | _ => x.imm.toNat))
    ∧ (∀ (i : Instr) (x : NmF) (s : State) (r : NRun), i = .nldr x ∨ i = .nstr x ∨ i = .npush x → i.wf = true → NmuAt s r →
        let ea := nmuAddr x s.core.nmu
        let pa := slicePa s.core (ea.toNat / 2 ^ 24) (ea.toNat % 2 ^ 24)
        (2 ^ 27 ≤ ea.toNat → NmuStops i s r 3)
        ∧ (ea.toNat < 2 ^ 27 → ea.toNat % 32 ≠ 0 → NmuStops i s r 4)
        ∧ (i ≠ .npush x → ea.toNat < 2 ^ 27 → ea.toNat % 32 = 0 → 0xC00000 ≤ ea.toNat % 2 ^ 24 → NmuStops i s r 3)
        ∧ (i = .nldr x → inSlice ea → s.pkg.badUnits = [] → ∃ t, exec i s = .next t ∧ t.core.regs = s.core.regs ∧ t.pkg.dmem = s.pkg.dmem
            ∧ t.core.nmu = (s.core.nmu.put x.d (leNat (s.pkg.dmem.readN pa 32)) noFlags).goOn (r.entry + 1))
        ∧ (i = .nstr x → inSlice ea → s.pkg.dmem.wf = true → ∃ t, exec i s = .next t ∧ t.core.nmu = s.core.nmu.goOn (r.entry + 1) ∧ t.core.regs = s.core.regs
            ∧ t.core.scratch = s.core.scratch ∧ ∀ q, t.pkg.dmem.read q = if pa ≤ q ∧ q < pa + 32 then BitVec.ofNat 8 (s.core.nmu.reg x.d / 256 ^ (q - pa)) else s.pkg.dmem.read q)
        ∧ (i = .npush x → ea.toNat < 2 ^ 27 → ea.toNat % 32 = 0 → r.size < ea.toNat + 32 → NmuStops i s r 3)
        ∧ (i = .npush x → ea.toNat < 2 ^ 27 → ea.toNat % 32 = 0 → ea.toNat + 32 ≤ r.size → s.core.calm → s.core.scratch.wf = true → r.sync = none →
            let p := r.base + ea.toNat
            ∃ t, exec i s = .next t ∧ t.core.regs = s.core.regs ∧ t.core.nmu = (s.core.nmu.mapRun fun r => { r with pushes := r.pushes + 1 }).goOn (r.entry + 1)
              ∧ ∀ q, t.core.scratch.read q = if p ≤ q ∧ q < p + 32 then BitVec.ofNat 8 (s.core.nmu.reg x.d / 256 ^ (q - p)) else s.core.scratch.read q))
    ∧ (∀ (x : NmF) (s : State) (r : NRun), (Instr.nlaw x).wf = true → NmuAt s r → s.pkg.badUnits = [] → inSlice (nmuAddr x s.core.nmu) →
        let ea := nmuAddr x s.core.nmu
        let pa := slicePa s.core (ea.toNat / 2 ^ 24) (ea.toNat % 2 ^ 24)
        let w (j : Nat) : Word := BitVec.ofNat 64 (leNat (s.pkg.dmem.readN (pa + 8 * j) 8))
        let l (j : Nat) : Law := lawOf s.grove.lawTab[(Fin.ofNat 256 (w j).toNat : Fin 256)]
        let m := nmuMode x.rm.val
        let y (j : Nat) : FVal := lawExact (l j) m (lwValue (w j)) (lawAge s.grove.lawnow (w j))
        let v (j : Nat) : Nat := FFmt.fp32.pack (roundF .fp32 m 0 (if x.mode = 1 then (addV m (y j) .pzero).1 else y j)).1
        (∀ j < 4, (l j).wide = false ∧ (l j).dir = 0) → s.pkg.dmem.wf = true → ∃ t, exec (.nlaw x) s = .next t ∧ t.grove.crossings = s.grove.crossings
          ∧ (∀ j < 8, t.core.nmu.elem x.d 32 j = if j < 4 then v j else 0)
          ∧ ∀ j < 4, BitVec.ofNat 64 (leNat (t.pkg.dmem.readN (pa + 8 * j) 8))
              = if x.mode = 1 then lawWord (BitVec.ofNat 32 (v j)) s.grove.lawnow ((w j).getLsbD 8) ((w j).setWidth 8) else w j)
    ∧ (∀ (x : NqF) (s : State) (r : NRun), (Instr.ntq x).wf = true → NmuAt s r → s.core.coppiceBad = [] →
        let h := x.handle.toNat
        ∃ t, exec (.ntq x) s = .next t ∧ t.core.regs = s.core.regs ∧ (t.core.nmu.run = (s.core.nmu.goOn (r.entry + 1)).run)
          ∧ ∀ j < 16, t.core.nmu.elem x.d 16 j
              = leNat (s.core.coppice.readN (tabAt h + 2 * (s.core.nmu.elem x.a 16 j % (if h.testBit 10 then 4096 else 256))) 2))
    ∧ (∀ (i : Instr) (x : NlF) (inner : Bool) (s : State) (r : NRun), (i = .nloop0 x ∧ inner = false) ∨ (i = .nloop1 x ∧ inner = true) → i.wf = true → NmuAt s r →
        let n := s.core.nmu
        let c := if x.count = 0 then n.a[(3 : Fin 4)].toNat else x.count.toNat
        let l : NLoop := { left := c, start := r.entry + 1, stop := r.entry + 1 + x.len.toNat }
        let legal : Prop := l.stop ≤ 96 ∧ (inner = false → n.loop0 = none) ∧ (inner = true → ∃ o, n.loop0 = some o ∧ o.start ≤ l.start ∧ l.stop ≤ o.stop)
        (¬legal → NmuStops i s r 2)
        ∧ (legal → c = 0 → exec i s = .next (s.mapNmu fun n => n.goOn l.stop))
        ∧ (legal → c ≠ 0 → exec i s = .next (s.mapNmu fun n => { n with loop0 := if inner then n.loop0 else some l, loop1 := if inner then some l else n.loop1, run := some { r with entry := l.start } })))
    ∧ (∀ (x : NdF) (s : State) (r : NRun), NmuAt s r → exec (.nadda x) s
        = .next (s.mapNmu fun n => ({ n with a := n.a.set x.ai (n.a[x.ai] + x.imm.signExtend 32) } : Nmu).goOn (r.entry + 1)))
    ∧ (∀ (s : State) (r : NRun), NmuAt s r → NmuStops .nend s r 0)
    ∧ (∀ (n : Nmu) (r : NRun) (e : Nat), n.run = some r →
        (n.loop0 = none → n.loop1 = none → n.goOn e = { n with run := some { r with entry := e } })
        ∧ (∀ l, n.loop1 = some l → e = l.stop → 1 < l.left → n.goOn e = { n with loop1 := some { l with left := l.left - 1 }, run := some { r with entry := l.start } })
        ∧ (∀ l, n.loop1 = none → n.loop0 = some l → e = l.stop → 1 < l.left → n.goOn e = { n with loop0 := some { l with left := l.left - 1 }, run := some { r with entry := l.start } })
        ∧ (∀ l, n.loop1 = none → n.loop0 = some l → e = l.stop → l.left ≤ 1 → n.goOn e = { n with loop0 := none, run := some { r with entry := e } }))
    ∧ ∀ (s : State) (r : NRun), s.core.nmu.run = some r →
        (r.ended = true → ∃ t, exec .nmuRunEnd s = .next t ∧ t.core.nmu = { s.core.nmu with run := none }
          ∧ t.core.cmds = s.core.cmds.filter (fun k => k.serial != r.serial) ∧ t.core.regs = s.core.regs.accrue s.core.nmu.flags
          ∧ t.core.deferred = (if s.core.nmu.status.toNat % 256 = 0 then s.core.deferred
              else s.core.deferred ++ [{ cause := .nmerr, tval := s.core.nmu.status, q := some .n, at_ := s.grove.cycle, mgmt := s.core.cmds.any fun k => k.serial == r.serial && k.mgmt }]))
        ∧ (NmuAt s r → s.core.nmu.parityOk r.entry = false →
            (r.replayed = true → NmuStops .nmuParityReload s r 1)
            ∧ (r.replayed = false → ∃ t, exec .nmuParityReload s = .next t ∧ t.core.nmu.run = some { r with entry := r.start, pushes := 0, counted := max r.counted r.pushes, replayed := true }
                ∧ ∀ j : Fin 96, t.core.nmu.buf[j] = (s.core.nmu.shadow[j], true)))
        ∧ (NmuAt s r → ∃ t, exec .nmuClearingRequest s = .next t ∧ t.core.nmu.run = some { r with waiting := true }
            ∧ t.grove.reqs = s.grove.reqs ++ [{ core := s.core.ix, serial := r.serial, e := 128 }])

/-- 24_debug.md R371, R373, R376, R377, R379: with SELF set the DEBUG instructions set and clear breakpoints, watchpoints and the trace's configuration, or
raise the fault of their address, and raise PRIVOP without it; TRMARK notes its condition and record; DACC returns an accumulator or the count of instructions issued. The counters of cycles grow
by free amounts (the model's choice, log entry 3), and DACC returns the counter so grown. -/
def Obligations.DebugInstructionResults : Prop :=
  (∀ (i : Instr) (x : XOp) (ok : State → Prop) (f : State → Debug → Debug) (s : State), debugRow i = some (x, ok, f) → i.wf = true →
    (Ready x.h.g x.wait.val i.bytes s → s.core.dbg.ctl.getLsbD 0 = true → ok s →
      ∃ t, exec i s = .next t ∧ After i.bytes (s.mapCore fun c => { c with dbg := f s c.dbg }) t)
    ∧ (Issues x.h.g x.wait.val s → s.core.dbg.ctl.getLsbD 0 = false → exec i s = .next (s.noted.trapNow .privop ((firstWord i).setWidth 64)))
    ∧ (Issues x.h.g x.wait.val s → s.core.dbg.ctl.getLsbD 0 = true →
        let a := s.core.regs.rs x.a
        let traps (c : Cause) : Prop := exec i s = .next (s.noted.trapNow c a)
        (i = .dbset x → a.toNat % 4 ≠ 0 → traps .align)
        ∧ (i = .dwset x → (¬(a.toNat < 2 ^ 60) → traps .aspace) ∧ (a.toNat < 2 ^ 60 → a.toNat % 8 ≠ 0 → traps .align)
            ∧ (a.toNat < 2 ^ 60 → a.toNat % 8 = 0 → s.core.span.2 < a.toNat + 8 → traps .lrange))))
    ∧ (∀ (x : XOp) (s : State), (Instr.trmark x).wf = true → Ready x.h.g x.wait.val (Instr.trmark x).bytes s →
        exec (.trmark x) s = .next ((s.noted.mapCore fun c => { c with dbg := c.dbg.note [9] [(5, c.regs.rs x.a)] }).goOn (Instr.trmark x).bytes))
    ∧ ∀ (x : XOp) (s : State), (Instr.dacc x).wf = true → Ready x.h.g x.wait.val (Instr.dacc x).bytes s →
        let i := x.w2f 0 7
        let k : Fin 6 := Fin.ofNat 6 (i - 64)
        let n := min (s.core.counters[k] + (Config.freeWord s.fresh).toNat) (2 ^ 64 - 1)
        (i < 64 → SetsRegs (.dacc x) s (s.core.regs.ws x.d (BitVec.ofNat 64 (s.core.acctCount[(Fin.ofNat 64 i : Fin 64)] * 2 ^ 48 + s.core.acctSum[(Fin.ofNat 64 i : Fin 64)]))))
        ∧ (i = 64 → SetsRegs (.dacc x) s (s.core.regs.ws x.d (BitVec.ofNat 64 s.core.counters[(0 : Fin 6)])))
        ∧ (64 < i → ∃ t, exec (.dacc x) s = .next t
            ∧ After (Instr.dacc x).bytes { (s.mapCore fun c => { c with counters := c.counters.set k n }).ws x.d (BitVec.ofNat 64 n) with fresh := s.fresh + 1 } t)

/-- 04_formats.md R75, 22_scheduling_faults.md R344, R358, R359: on the management path TLBINV, CLRSET, LTMODE and CRSET change what they name; CTXSV saves an actor's image, and
CTXLD restores the registers, the region and the state that an image holds, or reports the fault of an image whose bytes cannot all be read; in an activation each raises PRIVOP.
The keeping of images is the model's choice (log entry 28). -/
def Obligations.PrivilegedInstructionResults : Prop :=
  (∀ (i : Instr) (x : XOp) (ok : State → Prop) (f : State → State) (s : State), privRow i = some (x, ok, f) → i.wf = true → Managed x.h.g x.wait.val s → ok s →
    ∃ t, exec i s = .next t ∧ AfterStay (f s) t)
    ∧ (∀ (i : Instr) (x : XOp) (s : State), privInstr i = some x → i.wf = true → Issues x.h.g x.wait.val s →
        exec i s = .next (s.noted.trapNow .privop ((firstWord i).setWidth 64)))
    ∧ (∀ (x : XOp) (s u : State) (a : Actor) (pa n : Nat) (l : List (Nat × Nat)), (Instr.ctxsv x).wf = true → Managed x.h.g x.wait.val s →
        s.core.regs.rs x.b = a.aid.setWidth 64 → a.aid ≠ 0 → s.core.actor a.aid = some a → s.core.runs a.aid = false →
          let im := s.image a.aid false
          imageAt .write (s.core.regs.rs x.a) (im.bytes (im.parts.toNat &&& x.w2f 0 6)) s = .ok ((pa, n) :: l, u) →
            ∃ t, exec (.ctxsv x) s = .next t ∧ t.core.regs = s.core.regs ∧ t.core.scratch = s.core.scratch
              ∧ t.pkg.images.find? (fun p => p.1 == pa) = some (pa, { im with parts := im.parts &&& x.w2.setWidth 6 })
              ∧ (s.core.health.sound = true → im.region = s.core.readScratch a.base a.size) ∧ im.handlers = a.handlers.toList ∧ im.windows = a.windows.toList)
    ∧ ∀ (x : XOp) (s u : State) (a : Actor) (im : Image) (l : List (Nat × Nat)), (Instr.ctxld x).wf = true → Managed x.h.g x.wait.val s →
        s.core.regs.rs x.b = a.aid.setWidth 64 → a.aid ≠ 0 → s.core.actor a.aid = some a → s.core.scratch.wf = true →
          readParts (s.core.regs.rs x.a) 64 s = .ok (l, u) → s.pkg.images.find? (fun p => p.1 == firstPart l) = some (firstPart l, im) → im.region.length = a.size →
            (∀ m v, x.w2f 0 6 &&& im.parts.toNat = x.w2f 0 6 → im.regions = [] → im.ganged = false →
              readParts (s.core.regs.rs x.a) (im.bytes im.parts.toNat) u = .ok (m, v) → ∃ t, exec (.ctxld x) s = .next t
                ∧ (x.w2.getLsbD 5 = true → ∀ j < a.size, t.core.scratch.read (a.base + j) = im.region.getD j 0)
                ∧ (x.w2.getLsbD 5 = false → t.core.scratch = s.core.scratch)
                ∧ (x.w2.getLsbD 0 = true → t.core.regs = { im.regs with acc := if x.w2.getLsbD 1 then im.regs.acc else s.core.regs.acc })
                ∧ (x.w2.getLsbD 0 = false → x.w2.getLsbD 1 = false → t.core.regs = s.core.regs)
                ∧ (x.w2.getLsbD 4 = true → t.core.mac.owner = some a.aid ∧ t.core.mac.shared = im.shared))
            ∧ (∀ c v, x.w2f 0 6 &&& im.parts.toNat = x.w2f 0 6 → readParts (s.core.regs.rs x.a) (im.bytes im.parts.toNat) u = .error (c, v) →
                ∃ t, exec (.ctxld x) s = .next t ∧ t.core.regs = v.core.regs ∧ t.core.scratch = v.core.scratch
                  ∧ t.pkg.answers = v.pkg.answers ++ [.fault c (s.core.regs.rs x.a)])
            ∧ (x.w2f 0 6 &&& im.parts.toNat ≠ x.w2f 0 6 → ∃ t, exec (.ctxld x) s = .next t ∧ t.core.regs = s.core.regs ∧ t.core.scratch = s.core.scratch
                ∧ t.pkg.answers = s.pkg.answers ++ [.fault .illop ((firstWord (.ctxld x)).setWidth 64)])

/-- 02_execution.md R39 to R41, 10_vector_matrix.md R192, R193: GANG and SPLIT of an activation alone go on; a gang's GANG waits with its tag and split target. When all members wait
with equal tags they join behind the leader, each at PC + 12; unequal tags raise GANGERR, and a time-out while a member lacks BARTO, in every one that waits. SPLIT sends the followers to their split
targets and the leader on. That a gang's members stand on neighbouring cores in the order of their items, so that the one at peers[j] joins with gangix j + 1, is
the model's choice (log entry 52). -/
def Obligations.GangsJoinAndSplit : Prop :=
  (∀ (x : XOp) (s : State) (a : Activation), (Instr.gang x).wf = true → Ready x.h.g x.wait.val (Instr.gang x).bytes s → s.core.act = some a →
    (a.g ≤ 1 → SetsRegs (.gang x) s s.core.regs)
    ∧ (2 ≤ a.g → ∃ t, exec (.gang x) s = .next t
        ∧ AfterStay (s.mapCore fun c => { c with act := some { a with split := c.regs.pc + x.w2.signExtend 64 * 4, arrived := some ((c.regs.rs x.a).setWidth 16) } }) t))
    ∧ (∀ (x : XOp) (s : State), (Instr.split x).wf = true → Ready x.h.g x.wait.val (Instr.split x).bytes s → SetsRegs (.split x) s s.core.regs)
    ∧ (∀ (x : XOp) (s : State), (Instr.split x).wf = true → GangIssues x.h.g x.wait.val s → runsOff s.core (Instr.split x).bytes = false →
        ∃ t, exec (.split x) s = .next t ∧ t.core.ganged = false ∧ t.core.regs = { s.core.regs.advance (Instr.split x).bytes with gangix := 0 } ∧ t.peers.length = s.peers.length
          ∧ ∀ (j : Nat) (c : Core) (a : Activation), s.peers[j]? = some c → c.act = some a → ∃ d, t.peers[j]? = some d
              ∧ d.ganged = false ∧ d.regs.pc = a.split ∧ d.regs.gangix = 0 ∧ d.regs.s = c.regs.s ∧ d.scratch = c.scratch)
    ∧ (∀ (s : State) (a : Activation) (tags : List (BitVec 16)) (g : BitVec 16), s.core.act = some a → s.gangTags = some tags → (∀ h ∈ tags, h = g) →
        ∃ t, exec (.gangJoin tags) s = .next t ∧ t.core.ganged = true ∧ t.core.regs = { s.core.regs.advance 12 with gangix := 0 } ∧ t.core.arrived = false
          ∧ ∀ (j : Nat) (c : Core), j + 1 < a.g → s.peers[j]? = some c → ∃ d, t.peers[j]? = some d ∧ d.ganged = true ∧ d.arrived = false
              ∧ d.regs = { c.regs with pc := t.core.regs.pc, gangix := j + 1 })
    ∧ (∀ (s : State) (tags : List (BitVec 16)), s.gangTags = some tags → (∃ g ∈ tags, ∃ h ∈ tags, g ≠ h) →
        exec (.gangJoin tags) s = .next (trapWaiting .gangerr s.core.gangKey s))
    ∧ (∀ (s : State) (g : BitVec 16), s.core.gangTag = some g → s.core.regs.bartmo ≠ 0 →
        (s.cores.filter fun d => d.gangKey == s.core.gangKey).length < s.core.gangOf → exec .gangTimeout s = .next (trapWaiting .barto s.core.gangKey s))
    ∧ ∀ (c : Cause) (s : State) (g : BitVec 16), s.peers = [] → s.core.gangTag = some g → trapWaiting c s.core.gangKey s = s.trapNow c (g.setWidth 64)

/-- 26_system.md R382 to R388, 22_scheduling_faults.md R341, 02_execution.md R38: a package reset boots when every check passes, and names the first that fails; bring-up
follows once. A host's request before then gets NOTREADY; ALLOCATE, FREE, reads, writes, code loads, launches, waits, evictions, destructions, caps and attestations are
answered as R385 and R386 say; a port that fails holds its pairs until they move.
The codes of refusals, the places of page tables, the chain of digests, the first cap and the numbers of the boot checks are the model's (log entries 38, 32, 33, 36, 37); so
are the packages that a port leads to and the move package by package (log entry 15), a resend that changes nothing and the pairs that are held (log entry 39), a host's header
without a bank-linear view (log entry 22), and an eviction of an actor that no core of the state holds (log entry 28). -/
def Obligations.PackageServices : Prop :=
  (∀ (img : List Byte) (s : State), ∃ t, exec (.packageReset img) s = .next t ∧ t.core.regs = {} ∧ t.pkg.ready = false ∧ t.pkg.dmem = []
    ∧ t.agenda = s.agenda ∧ t.pkg.started = (bootChecks img).all id ∧ (t.pkg.bootStatus = 0 ↔ (bootChecks img).all id = true)
    ∧ ((bootChecks img).all id = true → t.pkg.bootEntry = leNat (flash img 0x10 8))
    ∧ ∀ j, (∀ i < j, (bootChecks img).getD i false = true) → (bootChecks img)[j]? = some false → t.pkg.bootStatus = j + 1)
    ∧ (∀ s : State, s.pkg.started = true → s.pkg.ready = false →
        exec .bringupComplete s = .next { s with
          grove := { s.grove.capped s.pkg.capW with on := true }
          pkg := { s.pkg with ready := true, ports := Vector.ofFn fun b => { s.pkg.ports[b] with up := !(s.pkg.ports[b]).failed, leads := Config.portPackages b.val } } })
    ∧ (∀ s : State, exec .groveReset s = .next { s with
        core := { s.core with health := { s.core.health with corrected := Vector.replicate 64 0 } }
        peers := s.peers.map fun c => { c with health := { c.health with corrected := Vector.replicate 64 0 } }
        grove := { s.grove with lawnow := 0, lawMode := .ltickOnly } })
    ∧ (∀ (d : BitVec 8) (s : State), s.pkg.started = true → d.toNat ≤ 0xBF → exec (.domainBringup d) s = .next { s with pkg := { s.pkg with domain := some d } })
    ∧ (∀ (p : Fin 64) (s : State), (s.pkg.ports[p]).up = true → (s.pkg.ports[p]).failed = false →
        exec (.linkResend p.val) s = .next s
        ∧ exec (.fabricPortFailure p.val) s
          = .next { s with pkg := { s.pkg with ports := s.pkg.ports.set p { s.pkg.ports[p] with up := false, failed := true, held := true } } })
    ∧ (∀ (p q : Fin 64) (pk : Nat) (s : State), (s.pkg.ports[p]).held = true → (s.pkg.ports[q]).up = true → (s.pkg.ports[q]).failed = false →
        pk ∈ (s.pkg.ports[q]).leads → s.peers = [] → s.core.posted = [] → s.core.await = none →
        ∃ t, exec (.pairMove p.val { dest := q.val, pk := pk }) s = .next t ∧ t.core = s.core ∧ ∀ b : Fin 64, (t.pkg.ports[b]).held = (s.pkg.ports[b]).held
          ∧ ∀ n, (t.pkg.ports[b]).route b.val n = if n = pk ∧ (s.pkg.ports[b]).route b.val n = p.val then q.val else (s.pkg.ports[b]).route b.val n)
    ∧ (∀ (i : Instr) (s : State), isRequest i = true → s.pkg.started = true → s.pkg.ready = false → Answers i s s .notReady)
    ∧ (∀ (r : AllocReq) (s : State), s.serves → s.pkg.fits r = true → ∃ t, exec (.allocate r) s = .next t ∧ t.core = s.core
        ∧ t.pkg.allocs = s.pkg.allocs ++ [{ tenant := r.tenant, va := r.va, pa := r.pa, pages := r.pages, w := r.write, x := r.execute, spread := r.spread }]
        ∧ t.pkg.answers = s.pkg.answers ++ [.placed (if r.spread = [] then (List.range (16 * r.pages)).map fun i => r.pa / 4096 + i else r.spread)])
    ∧ (∀ (tn : BitVec 16) (va : Nat) (a : Alloc) (s : State), s.serves →
        (s.pkg.allocs.find? (fun a => a.tenant == tn && a.va == va) = none → Answers (.free tn va) s s (.refused (-1)))
        ∧ (s.pkg.allocs.find? (fun a => a.tenant == tn && a.va == va) = some a → ∃ t, exec (.free tn va) s = .next t ∧ t.core = s.core
            ∧ t.pkg.allocs = s.pkg.allocs.erase a ∧ t.pkg.answers = s.pkg.answers ++ [.accepted]
            ∧ ∀ e ∈ t.grove.tlb, e ∈ s.grove.tlb ∧ ∀ w, a.va ≤ w → w < a.va + a.pages * 0x10000 → e.covers tn w = false))
    ∧ (∀ (tn : BitVec 16) (va : Nat) (l : List (Nat × Nat)) (bs : List Byte) (s : State), s.serves →
        (s.pkg.within tn va bs.length = none → Answers (.writeRequest tn va bs) s s (.refused (-1)) ∧ Answers (.readRequest tn va bs.length) s s (.refused (-1)))
        ∧ (s.pkg.within tn va bs.length = some l → s.pkg.dmem.wf = true → s.pkg.badUnits = [] → l.Pairwise (fun a b => apart a.1 a.2 b.1 b.2 = true) →
            (∃ t, exec (.writeRequest tn va bs) s = .next t ∧ t.core = s.core ∧ t.pkg.answers = s.pkg.answers ++ [.accepted]
              ∧ (∀ q, (∀ p ∈ l, q < p.1 ∨ p.1 + p.2 ≤ q) → t.devByte q = s.devByte q)
              ∧ Answers (.readRequest tn va bs.length) t (t.activateAll l) (.bytes bs)
              ∧ ∀ pa n, l = [(pa, n)] → ∀ q, t.devByte q = if pa ≤ q ∧ q < pa + bs.length then bs.getD (q - pa) 0 else s.devByte q)
            ∧ Answers (.readRequest tn va bs.length) s (s.activateAll l) (.bytes (l.flatMap fun p => (List.range p.2).map fun j => s.devByte (p.1 + j)))))
    ∧ (∀ (tn : BitVec 16) (segs : List (Nat × List Byte)) (s : State), s.serves →
        ((∃ g ∈ segs, s.pkg.within tn g.1 g.2.length = none) → Answers (.codeLoad tn segs) s s (.refused (-1)))
        ∧ ((∀ g ∈ segs, (s.pkg.within tn g.1 g.2.length).isSome = true) → ∃ t, exec (.codeLoad tn segs) s = .next t ∧ t.core = { s.core with icache := [] }
            ∧ (∀ c ∈ t.peers, c.icache = [])
            ∧ t.pkg.answers = s.pkg.answers ++ [.accepted] ∧ t.pkg.loads = s.pkg.loads ++ [{ tenant := tn, parts := segs.map fun g => { lo := g.1, hi := g.1 + g.2.length }, digest := Config.shake256 (segs.flatMap fun g => g.2) }]
            ∧ ∀ va bs pa n, segs = [(va, bs)] → s.pkg.within tn va bs.length = some [(pa, n)] → s.pkg.dmem.wf = true →
                ∀ q, t.devByte q = if pa ≤ q ∧ q < pa + bs.length then bs.getD (q - pa) 0 else s.devByte q))
    ∧ (∀ (r : LaunchReq) (raw : List Byte) (h : Header) (tr : List TreeDecl) (br : List Nat) (v s : State) (n : Nat), s.serves → hostHeader r s = some raw →
        (parseLaunch raw = none → Answers (.launchRequest r) s s (.refused (-2)))
        ∧ let l := newLaunch n r.tenant h.forHost tr br false 0 0 0 s.core.sliceBase r.attach
          parseLaunch raw = some h → declsOf h.forHost (s.asTenant r.tenant) = some (tr, br, v) → r.answer = .slot n → s.pkg.slotFree n = true →
            ({ s.pkg with launches := s.pkg.launches ++ [l] } : Pkg).unitsFit = true →
            ∃ t, exec (.launchRequest r) s = .next t ∧ t.core.regs = s.core.regs ∧ t.pkg.answers = s.pkg.answers ++ [.slot n]
              ∧ t.pkg.launches = s.pkg.launches ++ [l])
    ∧ (∀ (l : Launch) (n : Nat) (s : State), s.serves → s.pkg.launch (BitVec.ofNat 12 n) = some l →
        (l.byDevice = false → s.remains l = true →
          exec (.waitRequest l.tenant n) s = .next ({ s with pkg := { s.pkg with waiting := s.pkg.waiting ++ [l.slot] } }))
        ∧ (l.byDevice = false → s.remains l = false → ∃ t, exec (.waitRequest l.tenant n) s = .next t ∧ t.pkg.launch l.slot = none
            ∧ t.pkg.answers = s.pkg.answers ++ List.replicate (s.pkg.waiting.count l.slot + 1)
                (.report (l.report.getD { state := 1, tcause := 0, tpc := 0, tval := 0, wid := 0 }) l.ign))
        ∧ (l.byDevice = true → Answers (.waitRequest l.tenant n) s s (.refused (-1)))
        ∧ (l.byDevice = false → s.remains l = false → l.report = none → ∃ t, exec (.launchCompletion n) s = .next t
            ∧ (s.pkg.waiting.contains l.slot = false → (t.pkg.launch l.slot).map (fun x => x.report) = some (some { state := 1, tcause := 0, tpc := 0, tval := 0, wid := 0 }))
            ∧ (s.pkg.waiting.contains l.slot = true → t.pkg.launch l.slot = none
                ∧ t.pkg.answers = s.pkg.answers ++ List.replicate (s.pkg.waiting.count l.slot) (.report { state := 1, tcause := 0, tpc := 0, tval := 0, wid := 0 } l.ign)))
        ∧ (l.byDevice = true → s.remains l = false → l.notify = 0 → ∃ t, exec (.launchCompletion n) s = .next t ∧ t.core.regs = s.core.regs ∧ t.pkg.launch l.slot = none
            ∧ t.pkg.answers = s.pkg.answers
            ∧ ∀ pa m u, l.comp ≠ 0 → devParts .write l.comp 64 ((s.asTenant l.tenant).mapCore fun c => { c with sliceBase := l.slice }) = .ok ([(pa, m)], u) →
                s.pkg.dmem.wf = true →
                ∀ (k : Fin 8) (b : Nat), b < 8 → t.devByte (pa + 8 * k.val + b) = byteOf (l.recordWords[k]) b)
        ∧ (l.hdr.actors = false → Answers (.destroyRequest l.tenant n) s (s) .accepted)
        ∧ (l.hdr.actors = true → s.pkg.evicting = [] → ∃ t, exec (.destroyRequest l.tenant n) s = .next t ∧ t.pkg.answers = s.pkg.answers ++ [.accepted]
            ∧ ∀ e ∈ t.pkg.dir, e.slot = l.slot → (∀ c ∈ s.cores, c.runs e.aid = false) → e.at_ = .destroyed))
    ∧ (∀ (tn : BitVec 16) (aid : BitVec 24) (a : Actor) (s : State), s.serves →
        (s.pkg.owns tn aid = false → Answers (.evictRequest tn aid.toNat) s s (.refused (-1)))
        ∧ (s.pkg.owns tn aid = true → residentAt aid s.cores 0 = none → Answers (.evictRequest tn aid.toNat) s s .accepted)
        ∧ (s.pkg.owns tn aid = true → residentAt aid s.cores 0 = some (0, a) → s.core.actor aid = some a →
            (s.core.engaged aid = false → s.settled = true → s.pkg.evicting = [] → ∃ t e, exec (.evictRequest tn aid.toNat) s = .next t
              ∧ t.core.regs = s.core.regs ∧ t.pkg.answers = s.pkg.answers ++ [.accepted] ∧ t.pkg.evicting = []
              ∧ t.pkg.evicted = s.pkg.evicted ++ [e] ∧ e.im = s.image aid false ∧ e.actor = { a with evict := false, holding := [] } ∧ e.holding = a.holding
              ∧ ∀ d ∈ t.pkg.dir, d.aid = aid → d.at_ = .evicted)
            ∧ (s.core.engaged aid = true → s.core.ganged = false → ∃ t, exec (.evictRequest tn aid.toNat) s = .next t ∧ t.core.regs = s.core.regs ∧ t.core.preempt = true
                ∧ t.core.actor aid = some { a with evict := true } ∧ t.pkg = { s.pkg with evicting := s.pkg.evicting ++ [aid] }))
        ∧ (s.core.act = none → s.core.halted = false → s.core.toEvict = some aid → s.core.actor aid = some a → s.settled = true →
            ∃ t, exec .contextSaveDone s = .next t ∧ t.pkg.answers = s.pkg.answers ++ List.replicate (s.pkg.evicting.count aid) .accepted
              ∧ t.pkg.evicting = s.pkg.evicting.filter (fun x => x != aid) ∧ (t.pkg.evicted.map fun e => e.actor.aid) = (s.pkg.evicted.map fun e => e.actor.aid) ++ [a.aid]))
    ∧ (∀ (w : Nat) (s : State), s.serves →
        (1200 ≤ w → w ≤ 2400 → let r := 32 * (w - 1150) / 1250
          Answers (.setCapRequest w) s { s with grove := { s.grove with rate := r, cap := 256 * r, cnow := (256 * r : Nat) }, pkg := { s.pkg with capW := w } } .accepted)
        ∧ (¬(1200 ≤ w ∧ w ≤ 2400) → Answers (.setCapRequest w) s s (.refused (-1))))
    ∧ ∀ (tn : BitVec 16) (nonce : List Byte) (s : State), s.serves → nonce.length = 32 →
        let m := nonce ++ leBytes 64 s.pkg.m0.toNat ++ leBytes 64 (s.pkg.codeDigest tn).toNat ++ leBytes 4 s.pkg.version ++ leBytes 4 s.pkg.capW ++ leBytes 64 Config.deviceKey.toNat
        Answers (.attestRequest tn nonce) s s (.attest m (Config.slhSign m))

/-- 24_debug.md R363, R366, R369, R370, R374, R375, 20_nearmem.md R309, 22_scheduling_faults.md R337, R343, R356, R358: stops, steps and runs, register writes, the trace's
drain, power gating and waking, refreshes, the clearing, failed-bank marks, pre-emptions and management instructions do to their unit what their rules say, and to nothing else.
The place of the trace ring and the CORE field of LOSS are the model's choice (log entry 11); so are the cores and the tenant that a debug request names, its refusal with −1
about another tenant's core, and a drain that names the ring or reads TRLOST (log entries 57, 38), an accepted write of DBGSTAT or DPC that changes nothing (log entry 57), the
lowest of several breakpoints (log entry 10), when a stop is due and what its skid counts (log entry 3), a refresh that only passes time (log entry 39), and which cores the management path reaches (log entry 28). -/
def Obligations.DebugAndPowerEvents : Prop :=
  (∀ s : State, s.serves → s.core.foreign s.pkg.named.tenant = false →
    (s.core.stopped = true → Answers .debugStopRequest s s .accepted)
    ∧ (s.core.stopped = false → s.core.dbg.stop = none → Answers .debugStopRequest s
        (s.mapCore fun c => { c with dbg := { c.dbg with stop := some { cause := 1, n := 0, at_ := s.grove.cycle }, skid := 0 } }) .accepted))
    ∧ (∀ s : State, s.core.ganged = false → s.core.stopped = false →
        let stops (i : Instr) (cause n skid : Nat) (wait : Bool) : Prop := ∃ t, exec i s = .next t ∧ t.core.stopped = true ∧ t.core.dbg.dpc = s.core.regs.pc
          ∧ t.core.regs = s.core.regs ∧ t.core.hold = false ∧ bitsOf t.core.dbg.stat.toNat 1 4 = cause ∧ bitsOf t.core.dbg.stat.toNat 5 2 = n
          ∧ bitsOf t.core.dbg.stat.toNat 16 16 = skid ∧ (s.core.dbg.step = true → t.core.dbg.stat.getLsbD 7 = wait)
        (∀ n, s.trapMember = none → s.core.dbg.stop = none → s.core.breakpoint = some n → stops .debugStop 2 n.val 0 false)
        ∧ (∀ f, s.trapMember = none → s.core.breakpoint = none → s.core.dbg.stop = some f → f.at_ ≤ s.grove.cycle → f.cause < 16 →
            stops .debugStop f.cause (f.n % 4) (if s.core.dbg.step then 0 else min s.core.dbg.skid 0xFFFF) false)
        ∧ (s.core.dbg.stop = none → s.core.dbg.step = true → s.core.hold = true → stops .stepHoldTimeout 6 0 0 true))
    ∧ (∀ s : State, s.serves → s.core.foreign s.pkg.named.tenant = false → s.core.stopped = true → s.core.ganged = false →
        ∃ t, exec .debugStepRequest s = .next t ∧ t.core.stopped = false ∧ t.core.dbg.step = true ∧ t.core.regs = s.core.regs
          ∧ t.pkg.answers = s.pkg.answers ++ [.accepted])
    ∧ (∀ (tn : BitVec 16) (cores : BitVec 32) (s : State), s.serves → (∀ c ∈ s.cores, cores.getLsbD c.ix.val = true → c.foreign tn = false) →
        Answers (.debugRegisterWrite tn (.name cores)) s { s with pkg := { s.pkg with named := { tenant := tn, cores := cores } } } .accepted)
    ∧ (∀ s : State, s.serves → let cores := s.pkg.named.cores
        (∀ c ∈ s.cores, cores.getLsbD c.ix.val = true → c.foreign s.pkg.named.tenant = false) →
        ∃ t, exec .debugRunRequest s = .next t ∧ t.core.regs = s.core.regs ∧ t.pkg.answers = s.pkg.answers ++ [.accepted]
          ∧ (∀ c ∈ t.cores, cores.getLsbD c.ix.val = true → c.stopped = false) ∧ ∀ c ∈ s.cores, cores.getLsbD c.ix.val = false → c ∈ t.cores)
    ∧ (∀ (x : DebugAccess) (n : Fin 4) (s : State), s.serves → let tn := s.pkg.named.tenant
        s.core.foreign tn = true →
        Answers .debugStopRequest s s (.refused (-1)) ∧ Answers .debugStepRequest s s (.refused (-1)) ∧ Answers (.whitWrite { tenant := tn, n := n }) s s (.refused (-1))
          ∧ (s.core ∈ s.accessed x → Answers (.debugRegisterWrite tn x) s s (.refused (-1)))
          ∧ (s.pkg.named.cores.getLsbD s.core.ix.val = true → Answers .debugRunRequest s s (.refused (-1))))
    ∧ (∀ (tn : BitVec 16) (off : Nat) (v : Word) (s : State), s.serves → s.core.foreign tn = false →
        let sets (f : Debug → Debug) : Prop := Answers (.debugRegisterWrite tn (.write off v)) s (s.mapCore fun c => { c with dbg := f c.dbg }) .accepted
        let reads (w : Word) : Prop := Answers (.debugRegisterWrite tn (.read off)) s s (.debug w)
        let d := s.core.dbg
        (off = 0 → sets (fun d => { d with ctl := v &&& 7 }) ∧ reads d.ctl)
        ∧ (off = 0x08 → sets (fun d => d) ∧ reads d.stat)
        ∧ (off = 0x10 → sets (fun d => d) ∧ reads d.dpc)
        ∧ (off = 0x80 → sets (fun d => { d with trcfg := v &&& 0x7F0F0F03 }) ∧ reads d.trcfg)
        ∧ (∀ n : Fin 4, (off = 0x20 + 8 * n.val → sets (fun d => { d with bp := d.bp.set n (v &&& 0x8000FFFFFFFFFFFC) }) ∧ reads d.bp[n])
          ∧ (off = 0x40 + 8 * n.val → sets (fun d => { d with wp := d.wp.set n (v &&& 0xFF0000000003FFF8) }) ∧ reads d.wp[n])
          ∧ (off = 0x60 + 8 * n.val → reads d.whit[n])))
    ∧ (∀ (tn : BitVec 16) (s : State), s.serves → s.core.foreign tn = false → s.core.stopped = true →
        let reads (x : DebugAccess) (a : Answer) : Prop := Answers (.debugRegisterWrite tn x) s s a
        let r := s.core.regs
        reads .pc (.debug r.pc) ∧ reads .predicates (.debug (r.p.setWidth 64)) ∧ (∀ i, reads (.scalar i) (.debug (r.rs i)))
          ∧ (∀ i : VReg, reads (.vector i) (.bytes (vBytes r.v[i]))) ∧ (∀ i : Fin 8, reads (.mask i) (.debug r.m[i])) ∧ (∀ i : Fin 4, reads (.loop i) (.loop r.lc[i]))
          ∧ ∀ off n, off + n ≤ 0x40000 → reads (.scratch off n) (.bytes ((List.range n).map fun j => s.localByte (off + j))))
    ∧ (∀ (tn : BitVec 16) (n : Fin 4) (s : State), s.serves → s.core.foreign tn = false → Answers (.whitWrite { tenant := tn, n := n }) s
        (s.mapCore fun c => { c with dbg := { c.dbg with whit := c.dbg.whit.set n (c.dbg.whit[n] &&& 0x7FFFFFFFFFFFFFFF) } }) .accepted)
    ∧ (∀ (n : Nat) (ring : Option Nat) (lost : Bool) (s : State), n ≤ 4 → n ≤ s.grove.trace.length → 1 ≤ n ∨ ring.isSome = true ∨ lost = true → s.pkg.dmem.wf = true →
        let at_ := ring.getD s.grove.traceRing
        ∃ t, exec (.traceDrain { n := n, ring := ring, lost := lost }) s = .next t ∧ t.core = s.core
          ∧ t.grove.trace = s.grove.trace.drop n ∧ t.grove.traceRing = at_ + 16 * n
          ∧ (∀ j < n, ∀ r, s.grove.trace[j]? = some r → ∀ b < 8, t.devByte (at_ + 16 * j + b) = byteOf r.1 b ∧ t.devByte (at_ + 16 * j + 8 + b) = byteOf r.2 b)
          ∧ (∀ q, q < at_ ∨ at_ + 16 * n ≤ q → t.devByte q = s.devByte q)
          ∧ t.grove.trlost = (if lost then 0 else s.grove.trlost)
          ∧ t.pkg.answers = if lost then s.pkg.answers ++ [.debug (BitVec.ofNat 64 s.grove.trlost)] else s.pkg.answers)
    ∧ (∀ s : State, s.grove.on = true → s.groveUnused = true → (∀ c ∈ s.cores, c.dbg.recs = []) →
        ∃ t, exec .grovePowerGate s = .next t ∧ t.core.regs = s.core.regs ∧ t.pkg = s.pkg ∧ t.grove = { s.grove with
          on := false, trace := [], gateLost := s.grove.trace.length, trlost := min (s.grove.trlost + s.grove.trace.length) 0xFFFFFFFF })
    ∧ (∀ s : State, s.pkg.ready = true → s.grove.on = false → ∃ t, exec .groveWake s = .next t ∧ t.grove.on = true ∧ t.core = s.core
        ∧ (s.grove.gateLost = 0 → t.grove.trace = s.grove.trace)
        ∧ (s.grove.gateLost ≠ 0 → s.grove.trace = [] → ∃ w, t.grove.trace = [(w, BitVec.ofNat 64 s.grove.gateLost)] ∧ w.toNat / 2 ^ 59 = 8))
    ∧ (∀ (b : Fin 64) (s : State), exec (.failedBankMarkClear b) s
        = .next (s.mapCore fun c => { c with health := { c.health with failed := c.health.failed &&& ~~~(BitVec.ofNat 64 (2 ^ b.val)) } }))
    ∧ (∀ (b row n : Nat) (s : State), b < 8 → exec (.dramRefresh b) s = .next s
        ∧ (let data := (s.core.sliceBase + b * 0xC00000) / 1024 + row
          row < 12288 → (data, n) ∈ s.pkg.acts → Config.disturbThreshold ≤ n →
            exec (.targetedRefresh b row) s = .next { s with pkg := { s.pkg with acts := s.pkg.acts.filter fun q => q.1 != data } })
        ∧ (let coppice := b * 64 + (row - 12288)
          12288 ≤ row → row < 12352 → (coppice, n) ∈ s.core.sliceRows → Config.disturbThreshold ≤ n →
            exec (.targetedRefresh b row) s = .next (s.mapCore fun c => { c with sliceRows := c.sliceRows.filter fun q => q.1 != coppice })))
    ∧ (∀ s : State, let u := flush s
        exec .clearingRefill s = .next { u with grove := { u.grove with cnow := min (s.grove.cap : Int) (s.grove.cnow + s.grove.rate), cycle := s.grove.cycle + 1 } }
          ∧ u.core.regs = s.core.regs ∧ u.core.scratch = s.core.scratch ∧ u.core.cmds = s.core.cmds ∧ u.pkg = s.pkg)
    ∧ (∀ (s : State) (r : ClearReq) (l : List ClearReq), (∀ c ∈ s.cores, c.cmds = []) → s.grove.reqs = r :: l → (min r.e s.grove.cap : Int) ≤ s.grove.cnow →
        ∃ t, exec .clearingGrant s = .next t ∧ t.grove.reqs = l ∧ t.grove.cnow = s.grove.cnow - r.e ∧ t.core.regs = s.core.regs ∧ t.pkg = s.pkg)
    ∧ (∀ s : State, s.core.act.isSome = true → s.core.halted = false → s.core.stopped = false → s.core.ganged = false →
        s.trapMember = none → s.core.breakpoint = none → s.core.kills = [] →
        ∃ t, exec .preemption s = .next t ∧ t.core.halted = true ∧ t.core.regs = s.core.regs ∧ (t.core.act = s.core.act.map fun a => { a with arrived := none })
          ∧ t.core.cmds = s.core.cmds ∧ t.core.scratch = s.core.scratch ∧ t.pkg = s.pkg)
    ∧ ∀ (ws : List IWord) (s : State), s.core.halted = true ∨ s.core.stopped = true ∨ (s.core.act = none ∧ s.core.retry = none ∧ s.core.begun = false) → s.core.mgmtWord = none → s.core.mgmt = false →
        exec (.mgmtInstruction ws) s = .next (s.mapCore fun c => { c with mgmtWord := some ws })

/-- 02_execution.md R31, R32, R45 to R48, R50, R51, 18_messages.md R286, R289, R292, R293, 22_scheduling_faults.md R335, R344 to R346: a record that the core dispatches starts an
activation with the registers of R31 and R32, or takes HNONE, HLEN or CCODE; a retained record, a task's or a message's, is run again; items become records; a kill takes what lies under its prefix, an activation at its boundary; a
saved context leaves its core and comes back.
That a re-run waits for the core to be settled and has a task scratch area is the model's reading (log entry 42). What a fresh assignment gives, where images stand, what an activation's start drops and the arguments of first records are the model's (log entries 23, 28, 29, 30). -/
def Obligations.ActivationsStartAndEnd : Prop :=
  (∀ (s : State) (a : Actor) (r : MRec) (i : Instr) (n : Nat), s.core.actor a.aid = some a → Redispatched s i n (.message a.aid r.off) (r ∈ a.recs ∧ a.recs.find? (fun e => e.off == r.off && !e.pad) = some r)
      ∨ (s.mayDispatch = true ∧ (∃ k, s.pick = some (.message k a r)) ∧ i = .messageDispatch a.aid.toNat r.off ∧ n = 0) →
    let e := a.handlers[r.typ]
    let pay : Word := BitVec.ofNat 64 (r.off + 16)
    let faults (c : Cause) (v : Word) : Prop := ∃ t, exec i s = .next t ∧ t.core.act = none ∧ t.core.regs.tcause = causeWord c false none ∧ t.core.regs.tval = v
    (Starts a r → ∃ t, exec i s = .next t
      ∧ StartsWith t.core.regs (if hdrCC r.h0 then pay else BitVec.ofNat 64 (0x1000 * 2 ^ 48 + entryCode e)) pay r.h0 r.h1 (BitVec.ofNat 64 r.len) 0 a.wid a.aid a.mode.val a.seed a.stream a.ctr
      ∧ (∃ b, t.core.act = some b ∧ b.src = .message a.aid r.off ∧ b.base = a.base ∧ b.size = a.size ∧ b.slot = a.slot ∧ b.cls = r.filed ∧ b.retries = n)
      ∧ t.core.scratch = s.core.scratch)
    ∧ (entryV e = false → faults .hnone (BitVec.ofNat 64 r.typ.val))
    ∧ (entryV e = true → entryLchk e ≠ 0x3FF → entryLchk e ≠ r.len → faults .hlen (BitVec.ofNat 64 r.len))
    ∧ (entryV e = true → entryLchk e = 0x3FF ∨ entryLchk e = r.len → hdrCC r.h0 = true → entryCP e = false → faults .ccode pay))
    ∧ (∀ (s : State) (r : TaskRec) (l : Launch) (i : Instr) (n : Nat), s.pkg.launch r.slot = some l → r.gang ≤ 1 → s.core.scratch.wf = true →
        (s.mayDispatch = true ∧ (∃ src j, s.pick = some (.task src j (.task r)) ∧ i = .taskDispatch src) ∧ n = 0)
          ∨ Redispatched s i n (.task r) (s.core.hasScratch = true) →
          ∃ t, exec i s = .next t
            ∧ StartsWith t.core.regs (BitVec.ofNat 64 (0x1000 * 2 ^ 48 + r.pc.toNat)) r.args[0] r.args[1] r.args[2] r.args[3] r.args[4] r.wid 0 l.hdr.mode l.hdr.seed r.wid 0
            ∧ (∃ b, t.core.act = some b ∧ b.src = .task r ∧ b.base = 0x3C000 ∧ b.size = 0x4000 ∧ b.slot = r.slot ∧ b.cls = r.cls ∧ b.retries = n)
            ∧ ∀ q, ¬(0x3C000 ≤ q ∧ q < 0x40000) → t.localByte q = s.localByte q)
    ∧ (∀ (s : State) (l : Launch) (n : Nat), n < 4096 → s.pkg.launch (BitVec.ofNat 12 n) = some l → s.grove.on = true → l.hdr.actors = false → l.next < l.hdr.items →
        l.report = none → s.groveTakes l = true → l.killed = [] → l.hdr.gang = 1 → ringOfLaunch l.slot s.grove.overflow < 4096 → s.grove.overflow.length < s.grove.overflowCap →
          ∃ t rs, exec (.overflowRingFeed n) s = .next t ∧ t.grove.overflow = s.grove.overflow ++ rs ∧ 1 ≤ rs.length ∧ rs.length ≤ l.run ∧ t.core.regs = s.core.regs
            ∧ (rs.length < l.run → 4096 ≤ ringOfLaunch l.slot t.grove.overflow ∨ s.grove.overflowCap ≤ t.grove.overflow.length)
            ∧ (∀ j q, rs[j]? = some q → ∃ r, q = .task r ∧ r.slot = l.slot ∧ r.cls.val = l.hdr.cls % 8
              ∧ r.pc = l.hdr.code.setWidth 48 ∧ r.wid = l.hdr.itemWid (l.next + j) ∧ r.join = 0)
            ∧ (t.pkg.launch l.slot).map (fun x => x.next) = some (l.next + rs.length))
    ∧ (∀ (k : KillReq) (s : State), ∃ t, exec (.kill k) s = .next t
        ∧ (∀ r, .task r ∈ t.grove.overflow → .task r ∈ s.grove.overflow ∧ killCovers k r.slot r.wid = false)
        ∧ (∀ a, s.core.act = some a → killCovers k a.slot s.core.regs.wid = true → s.core.retry = none → k ∈ t.core.kills)
        ∧ (∀ a, s.core.retry = some a → killCovers k a.slot s.core.regs.wid = true → t.core.retry = none)
        ∧ (∀ a, s.core.act = some a → killCovers k a.slot s.core.regs.wid = false → s.core.kills = [] → t.core.kills = [] ∧ t.core.act = some a ∧ t.core.regs = s.core.regs))
    ∧ (∀ (s : State) (a : Activation), s.core.act = some a → s.core.ganged = false → s.core.kills ≠ [] → s.trapMember = none → s.core.readingOut = false →
        s.core.dbg.stop = none → s.core.breakpoint = none → s.core.stopped = false → ∃ t, boundary s = some t ∧ t.core.act = none)
    ∧ (∀ (s : State) (a : Activation), s.core.act = some a → s.core.halted = true → s.core.kills = [] → s.core.ganged = false → s.mayPark = true → s.core.regs.aid = 0 →
        ∃ t im, exec .contextSaveDone s = .next t ∧ t.core.act = none ∧ t.core.cmds = [] ∧ t.grove.overflow = s.grove.overflow ++ [.resume [im]]
          ∧ im.regs = s.core.regs ∧ im.act = some a ∧ im.await = s.core.await
          ∧ (im.cmds.map fun k => { k with grant := .notNeeded }) = (s.core.cmds.map fun k => { k with grant := .notNeeded })
          ∧ ∀ r ∈ t.grove.reqs, r.core = s.core.ix → ∀ k ∈ s.core.cmds, k.grant = .asked → k.serial ≠ r.serial)
    ∧ ∀ (s : State) (e : Evicted) (base : Nat), s.pkg.evicted.find? (fun x => x.actor.aid == e.actor.aid) = some e → s.mayReload e base = true → e.im.regions = [] → e.holding = [] →
        e.im.act = none → s.core.actor e.actor.aid = none → s.core.scratch.wf = true →
          ∃ t, exec (.actorReload 0 e.actor.aid.toNat base) s = .next t ∧ t.core.actor e.actor.aid = some { e.actor with base := base, holding := [] }
            ∧ t.pkg.evicted = s.pkg.evicted.filter (fun x => x.actor.aid != e.actor.aid)
            ∧ ∀ q, t.localByte q = if base ≤ q ∧ q < base + e.im.region.length then e.im.region.getD (q - base) 0 else s.localByte q

/-- 12_memory.md R199, R200, R203, R209, R213, 22_scheduling_faults.md R350 to R353, R362: what the network brings to an exposed window reads or writes there, and is refused elsewhere;
a refusal that returns is a trap at the next boundary; time-outs raise WAITTO and BARTO; a walk fills the cache or fails its command with XFAULT; a command that was
abandoned is replayed.
That a refusal of an earlier activation's access is reported to none is the model's reading (log entry 31). -/
def Obligations.ArrivalsAndService : Prop :=
  (∀ (s : State) (a : NetAccess) (aid : BitVec 24) (off p : Nat), s.foreign a = true → s.queueing a.addr = false → placeOf s a.addr = some (.actor none aid off) →
    a.flit = false → a.atomic = none → a.msg = none → a.sync = none → a.bytes = [] → a.len = 1 ∨ a.len = 2 ∨ a.len = 4 ∨ a.len = 8 → a.addr.toNat % a.len = 0 →
      s.core.calm → (s.reach none aid off a.len .load = .at_ 0 p ∨ ∃ w, s.reach none aid off a.len .load = .no w) →
        ∃ t, exec (.remoteLoadArrival (.net a)) s = .next t ∧ t.core.regs = s.core.regs ∧ t.core.scratch = s.core.scratch ∧ t.pkg = s.pkg)
    ∧ (∀ (s : State) (p : Posted) (bs : List Byte) (aid : BitVec 24) (off o : Nat), s.core.posted.find? (fun e => e.id == p.id) = some p → mayArrive s p = true →
        p.kind = .flit bs none → placeOf s p.addr = some (.actor none aid off) → s.core.calm → s.core.scratch.wf = true →
          (s.reach none aid off bs.length .store = .at_ 0 o → ∃ t, exec (.pushFlitArrival (.own p.id)) s = .next t ∧ t.core.regs = s.core.regs
            ∧ (∀ q, t.localByte q = if o ≤ q ∧ q < o + bs.length then bs.getD (q - o) 0 else s.localByte q)
            ∧ t.core.posted = s.core.posted.map fun e => if e.id = p.id then { e with stage := .performed {} } else e)
          ∧ (∀ w, s.reach none aid off bs.length .store = .no w → ∃ t, exec (.pushFlitArrival (.own p.id)) s = .next t ∧ t.core.scratch = s.core.scratch
            ∧ t.core.posted = s.core.posted.map fun e => if e.id = p.id then { e with stage := .refused w } else e))
    ∧ (∀ (s : State) (p : Posted) (w : Refused) (a : Activation), s.core.posted.find? (fun e => e.id == p.id) = some p → p.stage = .refused w → s.core.act = some a → a.first ≤ p.ser →
        w = .wnack ∨ w = .adead → ∃ t, exec (.nackReturn p.id w) s = .next t ∧ t.core.regs = s.core.regs
          ∧ t.core.posted = s.core.posted.filter (fun e => e.id != p.id)
          ∧ t.core.deferred = s.core.deferred ++ [{ cause := if w = .adead then .adead else .wnack, tval := p.raw, q := p.q, at_ := s.grove.cycle, mgmt := p.mgmt }])
    ∧ (∀ (s : State) (w : Await) (g p : Nat) (d : SReg), s.core.ganged = false → s.core.await = some w → w.kind = .gen p g d → s.core.regs.bartmo ≠ 0 →
        exec .waitgTimeout s = .next ((s.mapCore fun c => { c with await := none }).trapNow .waitto w.addr))
    ∧ (∀ (s : State) (ix : Nat) (b : BarInst), s.peers = [] → s.core.waitsAt ix = true → s.core.regs.bartmo ≠ 0 → s.barOf ix = some b → b.broken = false →
        s.core.mgmt = false → ∃ t, exec (.barrierTimeout ix) s = .next t ∧ t.core.act = none
          ∧ t.core.regs.tcause = causeWord .barto false none ∧ t.core.regs.tval = BitVec.ofNat 64 ix ∧ t.core.regs.tpc = s.core.regs.pc)
    ∧ (∀ (s : State) (k : Cmd) (u : State) (va : Nat), s.core.cmds = [k] → k.abandoned = true → performCmd k s = .miss u va →
        (∀ c, s.walk va = none → (c = .xfault ∧ s.tableLost va = false ∨ c = .memerr ∧ s.tableLost va = true ∧ tlbFind s.grove.tlb s.core.tenant va = none) →
          ∃ t, exec (.walkComplete va) s = .next t ∧ t.core.cmds = [] ∧ t.core.regs = s.core.regs
            ∧ t.core.deferred = s.core.deferred ++ [{ cause := c, tval := BitVec.ofNat 64 (2 ^ 60 + va), q := some k.q, at_ := s.grove.cycle, mgmt := k.mgmt }])
        ∧ (∀ e v f, s.walk va = some e → performCmd { k with pages := e :: k.pages } (((s.walked va).useTlb e).collect k e) = .ok v f →
            exec (.walkComplete va) s = .next (((s.walked va).useTlb e).collect k e)))
    ∧ ∀ (s t : State) (k : Cmd) (e : Effect), s.core.cmds = [k] → k.abandoned = true → performCmd k s = .ok t e →
        exec (.commandReplay k.q) s = .next (t.mapCore fun c => ({ c with cmds := c.cmds.filter fun j => j.serial != k.serial } : Core).merge e)

/-- 04_formats.md R53, R56, R57, R60, 14_lawstate.md R228, 20_nearmem.md R326, 24_debug.md R363, 22_scheduling_faults.md R340, R356, 26_system.md R383: what the
tables give for reset stands in State.reset; its memories keep the canonical form (log entry 4). -/
def Obligations.ResetHoldsStatedValues : Prop :=
  let c := State.reset.core
  State.reset.memWf = true
    ∧ c.regs.rs 0 = 0 ∧ c.regs.rs 31 = 0 ∧ c.regs.rp 0 = true ∧ (∀ p : PReg, p ≠ 0 → c.regs.rp p = false) ∧ (∀ v : VReg, c.regs.rv v = 0)
    ∧ c.regs.rm 0 = 0xFFFFFFFFFFFFFFFF ∧ (∀ m : MReg, m ≠ 0 → c.regs.rm m = 0) ∧ c.regs.acc = Vector.replicate 4 {} ∧ (∀ k : Fin 4, c.regs.lc[k].cnt = 0)
    ∧ (∀ i ∈ [0x012, 0x020, 0x023, 0x024, 0x025, 0x030, 0x031, 0x032, 0x040, 0x060], getCtl i State.reset = 0)
    ∧ (∀ k < 16, getCtl (0x050 + k) State.reset = 0) ∧ (∀ k < 8, getCtl (0x070 + k) State.reset = 0) ∧ getCtl 0x022 State.reset = 0x404020
    ∧ c.dbg.ctl = 0 ∧ c.dbg.stat = 0 ∧ c.dbg.dpc = 0 ∧ c.dbg.bp = Vector.replicate 4 0 ∧ c.dbg.wp = Vector.replicate 4 0 ∧ c.dbg.whit = Vector.replicate 4 0
    ∧ c.dbg.trcfg = 0 ∧ c.nmu.status = 7 ∧ c.health.corrected = Vector.replicate 64 0
    ∧ State.reset.grove.lawnow = 0 ∧ State.reset.grove.lawMode = .ltickOnly ∧ State.reset.pkg.started = false

/-- 04_formats.md R61, R62, R76, R83, 02_execution.md R23, 20_nearmem.md R316: a step of a core at issue fetches the words at its program counter and is exec of the instruction
that they stand for, followed by the end of its turn; words that are no instruction reach issue as an illegal encoding. Words whose page the translation cache holds
are those that device memory holds there, where the instruction cache holds none of older contents. An NMU's turn is exec of the instruction its entry holds; an event whose
time has come is exec of it, but for one of the boundary, which a synchronous fault of the next instruction comes before (22_scheduling_faults.md R347). The rounds of turns
are the model's (log entry 34). -/
def Obligations.StepRunsDecodedInstruction : Prop :=
  (∀ (s t : State) (ws : List IWord) (i : Instr), AtIssue s → fetch s = .words ws t →
    (decode ws = .ok i → step s = Out.ended .core (exec i t))
    ∧ ((∀ j, decode ws ≠ .ok j) → step s = Out.ended .core (exec (.illegalEncoding (ws.headD 0)) t)))
    ∧ (∀ (s : State) (e : TlbEntry) (va n : Nat), va < 2 ^ 48 → va % 4 = 0 → va % 2 ^ 16 + 20 ≤ 2 ^ 16 → s.core.regs.pc = BitVec.ofNat 64 (2 ^ 60 + va) → s.pkg.badUnits = [] →
        (s.core.act.bind fun a => a.carried) = none → (∀ b ∈ s.core.icache, b.2 = s.pkg.dmem.readN (16 * b.1) 16) → e.pbase % 16 = 0 →
        tlbFind s.grove.tlb s.core.tenant va = some e → e.x = true → n = wordsOf (s.pkg.dmem.iword (s.pkg.cell (e.pa va))).toNat →
        ∃ t, fetch s = .words ((List.range n).map fun j => s.pkg.dmem.iword (s.pkg.cell (e.pa (va + 4 * j)))) t ∧ t.core = { s.core with icache := t.core.icache }
          ∧ t.grove = (s.useTlb e).grove ∧ t.pkg.dmem = s.pkg.dmem)
    ∧ (∀ (s : State) (r : NRun) (w : IWord) (i : Instr), s.agenda = [] → s.turn = .nmu 0 → s.core.nmu.run = some r → r.ended = false → r.waiting = false →
        s.core.nmu.parityOk r.entry = true → (s.core.nmu.buf[r.entry]?).map Prod.fst = some w → nmuDecode w = some i → step s = Out.ended (.nmu 0) (exec i s))
    ∧ ∀ (s : State) (i : Instr) (l : List (Nat × Instr)), s.agenda = (0, i) :: l →
        (atBoundary i = false → step s = exec i { s with agenda := l })
        ∧ (faultFirst i { s with agenda := l } = none → step s = exec i { s with agenda := l })
        ∧ ∀ t, faultFirst i { s with agenda := l } = some t → step s = .next t

/-- 04_formats.md R68, R70, R74, 05_assembler.md, 20_nearmem.md: the words that the spec writes out decode to the instructions it writes beside them. -/
def Obligations.SpecWordsDecode : Prop :=
  let h : Hdr := { g := always, lit := none }
  decode [0x01483004] = .ok (.add { h := h, d := 3, a := 4, b := 5 })
    ∧ decode [0x80926B8C] = .ok (.ldd { g := { neg := true, p := 3 }, wait := 2, off := 2, a := 9, d := 6 })
    ∧ decode [0x00003021, 0x12345678, 0x00004000] = .ok (.addiLit { g := always, d := 3, a := 0, imm := 0x400012345678 })
    ∧ decode [0xFFCA5020] = .ok (.addi { g := always, d := 5, a := 5, imm := 0x3FF })
    ∧ decode [0xFFFFB0C0] = .ok (.br { g := always, off := 0xFFFFB })
    ∧ decode [0x22911040] = .ok (.cmp { h := h, cond := 2, pd := 1, pe := 2, a := 4, b := 5 })
    ∧ decode [0x011400CC] = .ok (.loop { lit := none, lc := 0, a := 10, off := 4 })
    ∧ decode [0x000012D0] = .ok (.endAct { h := { g := { neg := false, p := 2 }, lit := none } })
    ∧ decode [0x56400006, 0x00000C41, 0] = .ok (.vadd { h := h, mask := 2, rm := 5, ty := 9, x := false, aw := 0, l := 0, wait := 0, sat := false, hist := 0, c := 0, b := 3, a := 2, d := 1, w2 := 0 })
    ∧ decode [0] = .error .illegal ∧ decode [] = .error .tooShort ∧ decode [0x56400006, 0x00000C41] = .error .tooShort

/-- 04_formats.md R61 to R74, 20_nearmem.md R317, R318: every well-formed core instruction, with every operand at every value that its encoding admits, is read back from its
words, whatever follows them; every well-formed NMU instruction from its word. -/
def Obligations.DecodeOfEncode : Prop :=
  (∀ (i : Instr) (rest : List IWord), i.wf = true → encode i ≠ [] → decode (encode i ++ rest) = .ok i)
    ∧ ∀ (i : Instr) (w : IWord), i.wf = true → nmuEncode i = some w → nmuDecode w = some i

/-- The model's own invariant (log entry 4): every memory of the state keeps its canonical form through every step, whoever's turn it is and whatever event comes. -/
def Obligations.StepsKeepMemoriesCanonical : Prop :=
  (∀ (i : Instr) (s t : State), s.memWf = true → exec i s = .next t → t.memWf = true)
    ∧ ∀ s t : State, s.memWf = true → step s = .next t → t.memWf = true

/-- 08_scalar.md R148, 10_vector_matrix.md R175, R192, R193, 18_messages.md R294: getc, putc, vrsum, vrmin, vrmax, vrdot, gang, split and sendm complete, with no trap, in every state that lets
the instruction execute and for every operand that its rule admits.
26_system.md R385, 24_debug.md R363 to R370, 22_scheduling_faults.md R335, R358: so do debugStopRequest, debugStepRequest, debugRunRequest, debugRegisterWrite, whitWrite, mgmtInstruction and destroyRequest.
02_execution.md R35, R40, R45, R48, R51, 18_messages.md R286, R293, R298, 22_scheduling_faults.md R343 to R347: overflowRingFeed, messageDispatch, taskDispatch, retryDispatch, placerAnswer, gangJoin,
gangTimeout, deferredTrap, kill, preemption, contextSaveDone, actorReload, launchCompletion. -/
def Sys2Proof.Claims.InstructionsAndWorkComplete : Prop :=
  (∀ (x : CrF) (s : State), (Instr.getc x).wf = true → Ready x.h.g 0 (Instr.getc x).bytes s →
    ∃ t, exec (.getc x) s = .next t ∧ t.core.traps = s.core.traps ∧ t.core.regs = (s.core.regs.ws x.d (getCtl x.idx.val s)).advance (Instr.getc x).bytes)
    ∧ (∀ (x : CrF) (s : State), (Instr.putc x).wf = true → putOk x.idx.val false = true → Ready x.h.g 0 (Instr.putc x).bytes s →
        let c := putCtl x.idx.val (s.core.regs.rs x.d) s.core
        ∃ t, exec (.putc x) s = .next t ∧ t.core.traps = s.core.traps ∧ t.core.regs = c.regs.advance (Instr.putc x).bytes ∧ t.core.stats = c.stats)
    ∧ (∀ (i : Instr) (x : XOp) (s : State), i = .vrsum x ∨ i = .vrmin x ∨ i = .vrmax x ∨ i = .vrdot x → i.wf = true → Ready x.h.g x.wait.val i.bytes s →
        (s.core.queue .v).length < 16 →
        ∃ t, exec i s = .next t ∧ t.core.traps = s.core.traps ∧ t.core.cmds.length = s.core.cmds.length + 1 ∧ t.core.regs.pc = (s.core.regs.advance i.bytes).pc)
    ∧ (∀ (x : XOp) (s : State) (a : Activation), (Instr.gang x).wf = true → Ready x.h.g x.wait.val (Instr.gang x).bytes s → s.core.act = some a →
        ∃ t, exec (.gang x) s = .next t ∧ t.core.traps = s.core.traps
          ∧ (a.g ≤ 1 → t.core.regs = s.core.regs.advance (Instr.gang x).bytes) ∧ (2 ≤ a.g → t.core.gangTag = some ((s.core.regs.rs x.a).setWidth 16)))
    ∧ (∀ (x : XOp) (s : State), (Instr.split x).wf = true → Ready x.h.g x.wait.val (Instr.split x).bytes s →
        ∃ t, exec (.split x) s = .next t ∧ t.core.traps = s.core.traps ∧ t.core.regs = s.core.regs.advance (Instr.split x).bytes)
    ∧ (∀ (x : XOp) (s : State) (pk : Option Nat) (aid : BitVec 24) (off n : Nat) (u : State), (Instr.sendm x).wf = true →
        (x.w2f 16 10 ≠ 0 → ∃ g, localSpan s (s.core.regs.rs x.b) (x.w2f 16 10) 16 = .ok g) →
        placeOf s (s.core.regs.rs x.a) = some (.actor pk aid off) → s.ringSize pk aid (ringKey (.actor pk aid off) (s.core.regs.rs x.a)) = .is n u →
        32 + (x.w2f 16 10 + 15) / 16 * 16 ≤ 2 ^ n → Ready x.h.g x.wait.val (Instr.sendm x).bytes s → (s.core.queue .e).length < 16 →
        ∃ t, exec (.sendm x) s = .next t ∧ t.core.traps = s.core.traps ∧ t.core.cmds.length = s.core.cmds.length + 1)
    ∧ (∀ (n : Fin 4) (off : Nat) (v : Word) (s : State), s.serves → let tn := s.pkg.named.tenant
        let cores := s.pkg.named.cores
        s.core.foreign tn = false →
        let ok (i : Instr) : Prop := ∃ t, exec i s = .next t ∧ t.core.regs = s.core.regs ∧ t.pkg.answers = s.pkg.answers ++ [.accepted]
        ok .debugStopRequest ∧ ok (.whitWrite { tenant := tn, n := n })
          ∧ (s.core.stopped = true → s.core.ganged = false → ok .debugStepRequest)
          ∧ ((∀ c ∈ s.cores, cores.getLsbD c.ix.val = true → c.foreign tn = false) → ok .debugRunRequest)
          ∧ (off % 8 = 0 → off ≤ 0x58 ∨ off = 0x80 → off ≠ 0x18 → ok (.debugRegisterWrite tn (.write off v))))
    ∧ (∀ (l : Launch) (n : Nat) (s : State), s.serves → s.pkg.launch (BitVec.ofNat 12 n) = some l →
        s.pkg.evicting = [] → ∃ t, exec (.destroyRequest l.tenant n) s = .next t ∧ t.pkg.answers = s.pkg.answers ++ [.accepted])
    ∧ (∀ (ws : List IWord) (s : State), s.core.halted = true ∨ s.core.stopped = true ∨ s.core.act = none ∧ s.core.retry = none ∧ s.core.begun = false → s.core.mgmtWord = none → s.core.mgmt = false →
        ∃ t, exec (.mgmtInstruction ws) s = .next t ∧ t.core.mgmtWord = some ws ∧ t.core.regs = s.core.regs)
    ∧ (∀ (n : Nat) (l : Launch) (s : State), n < 4096 → s.pkg.launch (BitVec.ofNat 12 n) = some l → s.grove.on = true → l.hdr.actors = false → l.next < l.hdr.items →
        l.report = none → s.groveTakes l = true → s.ringRoom l = true → ∃ t, exec (.overflowRingFeed n) s = .next t ∧ t.core.regs = s.core.regs)
    ∧ (∀ (s : State) (k : Nat) (a : Actor) (r : MRec), s.mayDispatch = true → s.pick = some (.message k a r) → Starts a r →
        ∃ t, exec (.messageDispatch a.aid.toNat r.off) s = .next t ∧ t.core.act.isSome = true ∧ t.core.traps = s.core.traps)
    ∧ (∀ (s : State) (src : TaskSrc) (j : Nat) (r : TaskRec), s.mayDispatch = true → s.pick = some (.task src j (.task r)) → r.gang ≤ 1 →
        ∃ t, exec (.taskDispatch src) s = .next t ∧ t.core.act.isSome = true ∧ t.core.traps = s.core.traps)
    ∧ (∀ (s : State) (a : Activation) (r : TaskRec), s.core.retry = some a → a.src = .task r → s.core.act = none → s.core.stopped = false → s.core.mgmt = false →
        s.settled = true → s.core.hasScratch = true → ∃ t, exec .retryDispatch s = .next t ∧ t.core.act.isSome = true ∧ t.core.traps = s.core.traps)
    ∧ (∀ (s : State) (l : Launch) (aid base : Nat) (near : Bool), s.asking = none → s.pkg.nextItem = some l → l.skips (l.hdr.itemWid l.next) = false → s.newAid aid = true →
        let wid := l.hdr.itemWid l.next
        let id : BitVec 24 := BitVec.ofNat 24 aid
        (s.grove.on = true → s.mayJoin l = true → s.quieted = true → s.core.regionOk base l.hdr.size = true → s.gangPlace l wid s.core.ix = true →
          (addInstances l wid true (makeActor l.hdr l.slot wid id base 0 (assign l s)).pkg).unitsFit = true →
            ∃ t, exec (.placerAnswer (.here 0 aid base)) s = .next t ∧ t.core.regs = s.core.regs ∧ ∃ e ∈ t.pkg.dir, e.aid = id ∧ e.wid = wid ∧ e.at_ = .here)
        ∧ (s.gangAway l wid near = true → (near = true → s.nearTakes l = true) → (addInstances l wid near (makeAway l.hdr l.slot wid id near s).pkg).unitsFit = true →
            ∃ t, exec (.placerAnswer (.away aid near)) s = .next t ∧ t.core = s.core ∧ ∃ e ∈ t.pkg.dir, e.aid = id ∧ e.wid = wid ∧ e.at_ = .away near))
    ∧ (∀ (s : State) (tags : List (BitVec 16)) (g : BitVec 16), s.gangTags = some tags → (∀ h ∈ tags, h = g) →
        ∃ t, exec (.gangJoin tags) s = .next t ∧ t.core.ganged = true ∧ t.core.traps = s.core.traps)
    ∧ (∀ (s : State) (g : BitVec 16), s.core.gangTag = some g → s.core.regs.bartmo ≠ 0 → (s.cores.filter fun d => d.gangKey == s.core.gangKey).length < s.core.gangOf →
        exec .gangTimeout s = .next (trapWaiting .barto s.core.gangKey s))
    ∧ (∀ s : State, s.core.ganged = false → s.core.act.isSome = true → s.core.firstDeferred.isSome = true → s.core.readingOut = false → s.core.stopped = false → s.core.halted = false → s.core.await = none →
        s.core.mgmt = false → ∃ t, exec .deferredTrap s = .next t ∧ t.core.act = none)
    ∧ (∀ (k : KillReq) (s : State), ∃ t, exec (.kill k) s = .next t ∧ ∀ r, .task r ∈ t.grove.overflow → killCovers k r.slot r.wid = false)
    ∧ (∀ s : State, s.core.act.isSome = true → s.core.halted = false → s.core.stopped = false → s.core.ganged = false → s.trapMember = none → s.core.breakpoint = none →
        s.core.kills = [] → ∃ t, exec .preemption s = .next t ∧ t.core.halted = true)
    ∧ (∀ s : State, s.core.act.isSome = true → s.core.halted = true → s.core.kills = [] → s.core.ganged = false → s.mayPark = true → ∃ t, exec .contextSaveDone s = .next t ∧ t.core.act = none)
    ∧ (∀ (s : State) (e : Evicted) (aid base k : Nat), s.pkg.evicted.find? (fun x => x.actor.aid == BitVec.ofNat 24 aid) = some e →
        (s.mayReload e base = true → ∃ t, exec (.actorReload 0 aid base) s = .next t)
        ∧ (8 ≤ k → s.mayReloadFar e (k == 8) = true →
            ∃ t, exec (.actorReload k aid base) s = .next t ∧ ∀ x ∈ t.pkg.evicted, x.actor.aid ≠ BitVec.ofNat 24 aid))
    ∧ ∀ (s : State) (l : Launch) (n : Nat), s.pkg.launch (BitVec.ofNat 12 n) = some l → s.ends l = true →
        ∃ t, exec (.launchCompletion n) s = .next t ∧ (l.byDevice = true → t.pkg.launch l.slot = none)

/-- 12_memory.md R199, R200, R203, R209, R212 to R214, R216, R222, 08_scalar.md R138, 16_scan.md R269, R272, 18_messages.md R281, R283, 22_scheduling_faults.md R350, R353, R362:
remoteStoreArrival, remoteLoadArrival, atomicArrival, pushFlitArrival, messageHeaderArrival, messageLastFlit, roomNotice, unlistedRetry, ackReturn, loadDataReturn, nackReturn, treeRoundTotal,
gatherRowLanding, rideCarryArrival, rbarRelease, barrierRelease, barrierTimeout, waitgTimeout, commandCommit, commandReplay, walkComplete.
22_scheduling_faults.md R337, R356, 14_lawstate.md R228, R239, R242, 20_nearmem.md R309, 24_debug.md R366, R370, R374, R375: clearingRefill, clearingGrant, lawnowAdvance,
sweeperVisit, crossingSearchEnd, dramRefresh, targetedRefresh, debugStop, stepHoldTimeout, traceDrain, grovePowerGate, groveWake, failedBankMarkClear; illegalEncoding takes its trap. -/
def Sys2Proof.Claims.TrafficAndServiceComplete : Prop :=
  (∀ (s : State) (a : NetAccess) (aid : BitVec 24) (off o : Nat), s.foreign a = true → s.queueing a.addr = false → placeOf s a.addr = some (.actor none aid off) → a.msg = none →
    a.sync = none → s.core.calm → s.core.scratch.wf = true →
      let n := a.bytes.length
      (a.flit = false → a.atomic = none → n = 1 ∨ n = 2 ∨ n = 4 ∨ n = 8 → a.addr.toNat % n = 0 → s.reach none aid off n .store = .at_ 0 o →
        ∃ t, exec (.remoteStoreArrival (.net a)) s = .next t ∧ ∀ q, t.localByte q = if o ≤ q ∧ q < o + n then a.bytes.getD (q - o) 0 else s.localByte q)
      ∧ (a.flit = true → a.atomic = none → 1 ≤ n → a.addr.toNat % 64 + n ≤ 64 → s.reach none aid off n .store = .at_ 0 o →
        ∃ t, exec (.pushFlitArrival (.net a)) s = .next t ∧ ∀ q, t.localByte q = if o ≤ q ∧ q < o + n then a.bytes.getD (q - o) 0 else s.localByte q)
      ∧ (a.flit = false → a.atomic = none → a.bytes = [] → a.len = 1 ∨ a.len = 2 ∨ a.len = 4 ∨ a.len = 8 → a.addr.toNat % a.len = 0 → s.reach none aid off a.len .load = .at_ 0 o →
        ∃ t, exec (.remoteLoadArrival (.net a)) s = .next t ∧ t.core.scratch = s.core.scratch)
      ∧ ∀ x, a.flit = false → a.atomic = some x → a.bytes = [] → a.len = sizeOfTy x.ty.val → a.len = 2 ∨ a.len = 4 ∨ a.len = 8 → a.addr.toNat % a.len = 0 →
        s.reach none aid off a.len .atomic = .at_ 0 o → ∃ t, exec (.atomicArrival (.net a)) s = .next t ∧ t.core.regs = s.core.regs)
    ∧ (∀ (s : State) (p : Posted), s.core.posted.find? (fun e => e.id == p.id) = some p →
        ((∃ m, p.kind = .msg m) → mayArrive s p = true → exec (.messageHeaderArrival (.own p.id)) s = .next (arrivePosted s p))
        ∧ ((p.stage = .sent ∧ s.severed p = false) ∨ (∃ f, p.stage = .performed f) → ∃ t, exec (.ackReturn p.id) s = .next t ∧ t.core.posted = s.core.posted.filter (fun e => e.id != p.id))
        ∧ ∀ w, p.stage = .refused w → ∃ t, exec (.nackReturn p.id w) s = .next t ∧ t.core.posted = s.core.posted.filter (fun e => e.id != p.id))
    ∧ (∀ (s : State) (aid : BitVec 24) (k : Nat) (a : Actor) (r : MRec), residentAt aid s.cores 0 = some (k, a) → a.landing r.off = some r →
        ∃ t, exec (.messageLastFlit aid.toNat r.off) s = .next t)
    ∧ (∀ (s : State) (v : Nat), (v < 2 ^ 24 → s.queueing (actorAddr (BitVec.ofNat 24 v) 0) = false) →
        (s.noticed v = true → ∃ t, exec (.roomNotice v) s = .next t)
        ∧ ((s.core.posted.any fun p => p.heldFor (noticeKey v) false) = true → ∃ t, exec (.unlistedRetry v) s = .next t))
    ∧ (∀ (n : Nat) (sg : Bool) (d : SReg) (a v : Word) (len off : Nat) (near : Bool) (pk : Option Nat) (aid : BitVec 24) (s : State), s.core.ganged = false → s.core.mgmt = false →
        s.core.await = some { kind := .load n sg d, addr := a, len := len } → placeOf s a = some (.actor pk aid off) → s.place pk aid = .away near → runsOff s.core len = false →
        v.toNat < 256 ^ n → ∃ t, exec (.loadDataReturn (.value v)) s = .next t ∧ t.core.await = none ∧ t.core.traps = s.core.traps)
    ∧ (∀ (i : Nat) (l : List VWord) (s : State) (tr : TreeInst) (n : Launch) (d : TreeDecl) (root : DirEnt),
        s.pkg.trees.find? (fun t => t.idx == i && !s.itemsDue t.slot t.low t.share && (t.parts.any fun p => p.1 == t.rounds) && partsAgree s t (s.treeMembers t) l) = some tr → s.pkg.launch tr.slot = some n →
        n.trees[i]? = some d → (s.treeMembers tr).head? = some root → ∃ t, exec (.treeRoundTotal i l) s = .next t)
    ∧ (∀ (s u : State) (k : Cmd) (r : LRec) (row : Nat) (ps : List (List (Nat × Nat))), (s.core.queue .g).head? = some k → k.lrec = some r → k.sub = 2 → r.empty = false → row < r.e1 →
        k.counted.contains row = false → s.core.startable k = true → gateOpen s.core k = true → tablePrep k r .read s = .ok (ps, u) → u.pkg.partsLost (ps.getD row []) = false →
        ∃ t, exec (.gatherRowLanding row) s = .next t)
    ∧ (∀ (aid : Nat) (ch : Fin 2) (carry : List (List (BitVec 32))) (s : State) (a : Actor) (h : Header) (lv : Nat),
        s.heldActors.find? (fun b => b.aid == BitVec.ofNat 24 aid) = some a → s.rideLevel a.slot ch = some (h, lv) → h.item a.wid false = true → h.chainPos lv a.wid ≠ 0 →
        carry.length = 16 → (a.hopOf ch).length < 4 → s.holdsPredecessor a ch = false → s.headless a ch = false → ∃ t, exec (.rideCarryArrival aid ch carry) s = .next t)
    ∧ (∀ (aid : Nat) (ch : Fin 2) (s : State) (a : Actor) (r : Ride), s.rider (BitVec.ofNat 24 aid) ch = some (a, r) → s.chainReady a r ch true = true →
        ∃ t, exec (.rbarRelease aid ch) s = .next t)
    ∧ (∀ (ix : Nat) (b : BarInst) (s : State), s.barDue ix = some b → ∃ t, exec (.barrierRelease ix) s = .next t ∧ t.core = s.core)
    ∧ (∀ (ix : Nat) (b : BarInst) (s : State), s.peers = [] → s.core.waitsAt ix = true → s.core.regs.bartmo ≠ 0 → s.barOf ix = some b → b.broken = false →
        ∃ t, exec (.barrierTimeout ix) s = .next t)
    ∧ (∀ (p g : Nat) (d : SReg) (w : Await) (s : State), s.core.ganged = false → s.core.await = some w → w.kind = .gen p g d → s.core.regs.bartmo ≠ 0 → ∃ t, exec .waitgTimeout s = .next t)
    ∧ (∀ (s u : State) (q : Queue) (k : Cmd) (e : Effect), s.ready q = some k → performCmd k s = .ok u e → exec (.commandCommit q) s = .next (commitDone k e u))
    ∧ (∀ (s u : State) (k : Cmd) (e : Effect), s.core.cmds = [k] → k.abandoned = true → performCmd k s = .ok u e → exec (.commandReplay k.q) s = .next (commitDone k e u))
    ∧ (∀ (s u : State) (k : Cmd) (va : Nat), s.core.cmds = [k] → k.abandoned = true → performCmd k s = .miss u va → exec (.walkComplete va) s = .next (walkFor k va s))
    ∧ (∀ s : State, ∃ t, exec .clearingRefill s = .next t ∧ t.grove.cycle = s.grove.cycle + 1)
    ∧ (∀ (s : State) (r : ClearReq) (l : List ClearReq), (∀ c ∈ s.cores, c.cmds = []) → s.grove.reqs = r :: l → (min r.e s.grove.cap : Int) ≤ s.grove.cnow →
        ∃ t, exec .clearingGrant s = .next t ∧ t.grove.reqs = l)
    ∧ (∀ (s : State) (d : Nat), s.grove.lawMode = .divider d → ∃ t, exec .lawnowAdvance s = .next t ∧ t.grove.lawnow = s.grove.lawnow + 1)
    ∧ (∀ (off : Nat) (s : State) (w : Sweep), off < 2 ^ 18 → s.core.ix = 0 → w.core = 0 → w.bytes.lo ≤ off → off < w.bytes.hi → off % 16 = 0 → s.grove.sweeps[(0 : Fin 16)] = some w →
        w.parked = none → s.core.calm → (lawOf s.grove.lawTab[(Fin.ofNat 256 (s.core.word off).toNat : Fin 256)]).wide = false →
        (lawOf s.grove.lawTab[(Fin.ofNat 256 (s.core.word off).toNat : Fin 256)]).dir = 0 → ∃ t, exec (.sweeperVisit off) s = .next t ∧ t.core.regs = s.core.regs)
    ∧ (∀ (x : Crossing) (l : List Crossing) (s : State), s.grove.crossings = x :: l → ∃ t, exec .crossingSearchEnd s = .next t)
    ∧ (∀ (b row n : Nat) (s : State), b < 8 → row < 12288 → ((s.core.sliceBase + b * 0xC00000) / 1024 + row, n) ∈ s.pkg.acts → Config.disturbThreshold ≤ n →
        (∃ t, exec (.dramRefresh b) s = .next t) ∧ ∃ t, exec (.targetedRefresh b row) s = .next t ∧ t.core = s.core)
    ∧ (∀ s : State, s.core.stopped = false → s.trapMember = none → s.breaks.isSome = true ∨ s.stopHere.isSome = true → ∃ t, exec .debugStop s = .next t ∧ t.core.stopped = true)
    ∧ (∀ s : State, s.core.stopped = false → s.core.dbg.stop = none → s.core.dbg.step = true → s.core.hold = true → ∃ t, exec .stepHoldTimeout s = .next t ∧ t.core.stopped = true)
    ∧ (∀ (n : Nat) (ring : Option Nat) (lost : Bool) (s : State), n ≤ 4 → n ≤ s.grove.trace.length → 1 ≤ n ∨ ring.isSome = true ∨ lost = true →
        ∃ t, exec (.traceDrain { n := n, ring := ring, lost := lost }) s = .next t ∧ t.grove.trace = s.grove.trace.drop n)
    ∧ (∀ s : State, s.grove.on = true → s.groveUnused = true → ∃ t, exec .grovePowerGate s = .next t ∧ t.grove.on = false)
    ∧ (∀ s : State, s.pkg.ready = true → s.grove.on = false → ∃ t, exec .groveWake s = .next t ∧ t.grove.on = true)
    ∧ (∀ (b : Fin 64) (s : State), ∃ t, exec (.failedBankMarkClear b) s = .next t ∧ t.core.health.failed.getLsbD b.val = false)
    ∧ ∀ (w : IWord) (s : State), s.core.ganged = false → exec (.illegalEncoding w) s = .next (s.noted.trapNow .illop (w.setWidth 64))

/-- 08_scalar.md R148, 10_vector_matrix.md R175, R192, R193, 18_messages.md R294: getc, putc, vrsum, vrmin, vrmax, vrdot, gang, split and sendm complete, with no trap, in every state that lets
the instruction execute and for every operand that its rule admits.
26_system.md R385, 24_debug.md R363 to R370, 22_scheduling_faults.md R335, R358: so do debugStopRequest, debugStepRequest, debugRunRequest, debugRegisterWrite, whitWrite, mgmtInstruction and destroyRequest.
02_execution.md R35, R40, R45, R48, R51, 18_messages.md R286, R293, R298, 22_scheduling_faults.md R343 to R347: overflowRingFeed, messageDispatch, taskDispatch, retryDispatch, placerAnswer, gangJoin,
gangTimeout, deferredTrap, kill, preemption, contextSaveDone, actorReload, launchCompletion.
12_memory.md R199, R200, R203, R209, R212 to R214, R216, R222, 08_scalar.md R138, 16_scan.md R269, R272, 18_messages.md R281, R283, 22_scheduling_faults.md R350, R353, R362:
remoteStoreArrival, remoteLoadArrival, atomicArrival, pushFlitArrival, messageHeaderArrival, messageLastFlit, roomNotice, unlistedRetry, ackReturn, loadDataReturn, nackReturn, treeRoundTotal,
gatherRowLanding, rideCarryArrival, rbarRelease, barrierRelease, barrierTimeout, waitgTimeout, commandCommit, commandReplay, walkComplete.
22_scheduling_faults.md R337, R356, 14_lawstate.md R228, R239, R242, 20_nearmem.md R309, 24_debug.md R366, R370, R374, R375: clearingRefill, clearingGrant, lawnowAdvance,
sweeperVisit, crossingSearchEnd, dramRefresh, targetedRefresh, debugStop, stepHoldTimeout, traceDrain, grovePowerGate, groveWake, failedBankMarkClear; illegalEncoding takes its trap. -/
def Obligations.ListedFormsComplete : Prop := Sys2Proof.Claims.InstructionsAndWorkComplete ∧ Sys2Proof.Claims.TrafficAndServiceComplete
end

