-- ==== Sys2Proof/Laws/Bits.lean ====
section
/-!
SUPPORT. Bytes, bit fields, sign extension.
-/
namespace Sys2Proof.Machine

theorem bitAt_testBit (x i : Nat) : bitAt x i = x.testBit i := by
  rw [bitAt, Nat.testBit_eq_decide_div_mod_eq]
  by_cases h : x / 2 ^ i % 2 = 1 <;> simp [h]

theorem bitAt_getLsbD {w : Nat} (x : BitVec w) (i : Nat) : bitAt x.toNat i = x.getLsbD i := by
  rw [bitAt_testBit, BitVec.testBit_toNat]

@[simp] theorem leBytes_length (n x : Nat) : (leBytes n x).length = n := by
  induction n generalizing x with
  | zero => rfl
  | succ n ih => simp [leBytes, ih]

/-- Byte j of a value. -/
theorem leBytes_getD (n x j : Nat) (h : j < n) : (leBytes n x).getD j 0 = BitVec.ofNat 8 (x / 256 ^ j) := by
  induction n generalizing x j with
  | zero => omega
  | succ n ih =>
    cases j with
    | zero => simp [leBytes]
    | succ j =>
      have := ih (x / 256) j (by omega)
      simp only [leBytes, List.getD_cons_succ, this]
      rw [Nat.div_div_eq_div_mul, Nat.pow_succ, Nat.mul_comm 256]

/-- The bytes of a value, one by one. -/
theorem leBytes_map (n x : Nat) : leBytes n x = (List.range n).map fun j => BitVec.ofNat 8 (x / 256 ^ j) := by
  refine List.ext_getElem (by simp) fun j h1 h2 => ?_
  have hj : j < n := by simpa using h1
  have := leBytes_getD n x j hj
  rw [List.getD_eq_getElem?_getD, List.getElem?_eq_getElem h1] at this
  simpa using this

/-- The bytes of a register's value. -/
theorem leBytes_word (n : Nat) (w : Word) : leBytes n w.toNat = (List.range n).map fun j => byteOf w j := by
  rw [leBytes_map]
  refine List.map_congr_left fun j _ => ?_
  apply BitVec.eq_of_toNat_eq
  simp only [byteOf, BitVec.toNat_ofNat, BitVec.toNat_setWidth, BitVec.toNat_ushiftRight, Nat.shiftRight_eq_div_pow]
  rw [Nat.pow_mul]

theorem leNat_lt (l : List Byte) : leNat l < 256 ^ l.length := by
  induction l with
  | nil => simp [leNat]
  | cons b t ih =>
    have := b.isLt
    simp only [leNat, List.length_cons, Nat.pow_succ]
    omega

/-- The value of the bytes of a value. -/
theorem leNat_leBytes (n x : Nat) : leNat (leBytes n x) = x % 256 ^ n := by
  induction n generalizing x with
  | zero => simp [leBytes, leNat, Nat.mod_one]
  | succ n ih =>
    simp only [leBytes, leNat, ih, BitVec.toNat_ofNat]
    rw [show (256 : Nat) ^ (n + 1) = 256 * 256 ^ n by rw [Nat.pow_succ, Nat.mul_comm], Nat.mod_mul]

theorem sxt_toInt (n x : Nat) (h : 0 < n) : sxt n x = (BitVec.ofNat n x).toInt := by
  obtain ⟨m, rfl⟩ : ∃ m, n = m + 1 := ⟨n - 1, by omega⟩
  rw [sxt, BitVec.toInt_eq_toNat_cond]
  simp only [BitVec.toNat_ofNat, Nat.add_sub_cancel]
  have h1 := Nat.mod_lt x (show 0 < 2 ^ (m + 1) from Nat.two_pow_pos _)
  have h2 : 2 ^ (m + 1) = 2 * 2 ^ m := by rw [Nat.pow_succ, Nat.mul_comm]
  by_cases hc : 2 ^ m ≤ x % 2 ^ (m + 1)
  · rw [if_pos hc, if_neg (by omega)]; simp
  · rw [if_neg hc, if_pos (by omega)]

/-- Sign extension is BitVec's. -/
theorem sxtWord_signExtend (n x : Nat) (h : 0 < n) : sxtWord n x = (BitVec.ofNat n x).signExtend 64 := by
  rw [sxtWord, wordOfInt, sxt_toInt n x h, BitVec.signExtend]

theorem wordOfInt_toInt {w : Nat} (x : BitVec w) : wordOfInt x.toInt = x.signExtend 64 := rfl

theorem wordOfInt_mul {w : Nat} (x : BitVec w) (k : Nat) : wordOfInt (x.toInt * k) = x.signExtend 64 * BitVec.ofNat 64 k := by
  rw [wordOfInt, BitVec.ofInt_mul]; rfl

end Sys2Proof.Machine
end

