-- ==== Sys2Proof/Laws/Mem.lean ====
section
/-!
SUPPORT. Memories keep their canonical form, and reads after writes (log entry 4).
-/
namespace Sys2Proof.Machine

theorem Mem.wfFrom_mono {lo lo' : Nat} {m : Mem} (h : Mem.wfFrom lo m = true) (hl : lo' ≤ lo) : Mem.wfFrom lo' m = true := by
  cases m with
  | nil => rfl
  | cons p t =>
    obtain ⟨a, b⟩ := p
    simp only [Mem.wfFrom, Bool.and_eq_true, decide_eq_true_eq] at h ⊢
    exact ⟨⟨by omega, h.1.2⟩, h.2⟩

theorem Mem.read_below {lo a : Nat} {m : Mem} (h : Mem.wfFrom lo m = true) (ha : a < lo) : m.read a = 0 := by
  induction m generalizing lo with
  | nil => rfl
  | cons p t ih =>
    obtain ⟨k, v⟩ := p
    simp only [Mem.wfFrom, Bool.and_eq_true, decide_eq_true_eq] at h
    have h1 : k ≠ a := by omega
    simp only [Mem.read, if_neg h1]
    exact ih h.2 (by omega)

/-- The canonical form of a memory with a first entry. -/
theorem Mem.wfFrom_cons {lo k : Nat} {v : Byte} {t : Mem} :
    Mem.wfFrom lo ((k, v) :: t) = true ↔ lo ≤ k ∧ v ≠ 0 ∧ Mem.wfFrom (k + 1) t = true := by
  simp [Mem.wfFrom, and_assoc]

/-- A write keeps the canonical form. -/
theorem Mem.write_wfFrom {lo : Nat} {m : Mem} (a : Nat) (b : Byte) (h : Mem.wfFrom lo m = true) (ha : lo ≤ a) :
    Mem.wfFrom lo (m.write a b) = true := by
  induction m generalizing lo with
  | nil =>
    unfold Mem.write
    split
    · rfl
    · rename_i hb; exact Mem.wfFrom_cons.2 ⟨ha, hb, rfl⟩
  | cons p t ih =>
    obtain ⟨k, v⟩ := p
    obtain ⟨h1, h2, h3⟩ := Mem.wfFrom_cons.1 h
    unfold Mem.write
    split
    · rename_i hk
      split
      · exact h
      · rename_i hb
        exact Mem.wfFrom_cons.2 ⟨ha, hb, Mem.wfFrom_cons.2 ⟨hk, h2, h3⟩⟩
    · split
      · rename_i hk hak
        subst hak
        split
        · exact Mem.wfFrom_mono h3 (by omega)
        · rename_i hb; exact Mem.wfFrom_cons.2 ⟨ha, hb, h3⟩
      · rename_i hk hak
        exact Mem.wfFrom_cons.2 ⟨h1, h2, ih h3 (by omega)⟩

theorem Mem.write_wf {m : Mem} (a : Nat) (b : Byte) (h : m.wf = true) : (m.write a b).wf = true :=
  Mem.write_wfFrom a b h (Nat.zero_le a)

/-- Writing bytes keeps the canonical form. -/
theorem Mem.writeN_wf {m : Mem} (a : Nat) (bs : List Byte) (h : m.wf = true) : (m.writeN a bs).wf = true := by
  induction bs generalizing m a with
  | nil => exact h
  | cons b t ih => exact ih (a + 1) (Mem.write_wf a b h)

theorem Mem.read_write_from {lo : Nat} {m : Mem} (a q : Nat) (b : Byte) (h : Mem.wfFrom lo m = true) (ha : lo ≤ a) :
    (m.write a b).read q = if q = a then b else m.read q := by
  induction m generalizing lo with
  | nil =>
    unfold Mem.write
    split
    · rename_i hb; subst hb; simp [Mem.read]
    · simp [Mem.read, eq_comm]
  | cons p t ih =>
    obtain ⟨k, v⟩ := p
    have h0 := h
    simp only [Mem.wfFrom, Bool.and_eq_true, decide_eq_true_eq] at h
    unfold Mem.write
    split
    · rename_i hk
      split
      · rename_i hb
        subst hb
        split
        · rename_i hq; subst hq
          have : Mem.wfFrom k ((k, v) :: t) = true := Mem.wfFrom_cons.2 ⟨Nat.le_refl _, (Mem.wfFrom_cons.1 h0).2⟩
          exact Mem.read_below this hk
        · rfl
      · simp only [Mem.read]
        by_cases hq : a = q
        · simp [hq]
        · simp [hq, Ne.symm hq]
    · split
      · rename_i hk hak
        subst hak
        split
        · rename_i hb
          subst hb
          by_cases hq : q = a
          · subst hq; rw [if_pos rfl]; exact Mem.read_below h.2 (by omega)
          · simp [hq, Mem.read, Ne.symm hq]
        · simp only [Mem.read]
          by_cases hq : a = q
          · simp [hq]
          · simp [hq, Ne.symm hq]
      · rename_i hk hak
        simp only [Mem.read]
        by_cases hq : k = q
        · subst hq
          simp [Ne.symm hak]
        · simp only [if_neg hq]
          exact ih h.2 (by omega)

/-- A byte read after a byte is written. -/
theorem Mem.read_write {m : Mem} (a q : Nat) (b : Byte) (h : m.wf = true) : (m.write a b).read q = if q = a then b else m.read q :=
  Mem.read_write_from a q b h (Nat.zero_le a)

/-- A byte read after bytes are written. -/
theorem Mem.read_writeN {m : Mem} (a q : Nat) (bs : List Byte) (h : m.wf = true) :
    (m.writeN a bs).read q = if a ≤ q ∧ q < a + bs.length then bs.getD (q - a) 0 else m.read q := by
  induction bs generalizing m a with
  | nil => rw [if_neg (by simp only [List.length_nil]; omega)]; rfl
  | cons b t ih =>
    have hw := Mem.write_wf a b h
    simp only [Mem.writeN]
    rw [ih (a + 1) hw, Mem.read_write a q b h]
    by_cases hq : q = a
    · subst hq
      have : ¬ (q + 1 ≤ q ∧ q < q + 1 + t.length) := by omega
      rw [if_neg this, if_pos rfl, if_pos ⟨Nat.le_refl _, by simp only [List.length_cons]; omega⟩, Nat.sub_self]; rfl
    · by_cases h2 : a + 1 ≤ q ∧ q < a + 1 + t.length
      · have h3 : a ≤ q ∧ q < a + (b :: t).length := by simp; omega
        rw [if_pos h2, if_pos h3]
        obtain ⟨j, rfl⟩ : ∃ j, q = a + 1 + j := ⟨q - a - 1, by omega⟩
        have e1 : a + 1 + j - (a + 1) = j := by omega
        have e2 : a + 1 + j - a = j + 1 := by omega
        simp [e1, e2]
      · have h3 : ¬ (a ≤ q ∧ q < a + (b :: t).length) := by simp; omega
        rw [if_neg h2, if_neg h3, if_neg hq]

/-- Equal reads make equal canonical memories. -/
theorem Mem.ext_from {lo : Nat} {m n : Mem} (hm : Mem.wfFrom lo m = true) (hn : Mem.wfFrom lo n = true)
    (h : ∀ a, m.read a = n.read a) : m = n := by
  induction m generalizing n lo with
  | nil =>
    cases n with
    | nil => rfl
    | cons p t =>
      obtain ⟨k, v⟩ := p
      have := h k
      simp only [Mem.wfFrom, Bool.and_eq_true, bne_iff_ne, ne_eq] at hn
      simp [Mem.read] at this
      exact absurd this.symm hn.1.2
  | cons p t ih =>
    obtain ⟨k, v⟩ := p
    cases n with
    | nil =>
      have := h k
      simp only [Mem.wfFrom, Bool.and_eq_true, bne_iff_ne, ne_eq] at hm
      simp [Mem.read] at this
      exact absurd this hm.1.2
    | cons q u =>
      obtain ⟨j, w⟩ := q
      have hm0 := hm
      have hn0 := hn
      simp only [Mem.wfFrom, Bool.and_eq_true, bne_iff_ne, ne_eq, decide_eq_true_eq] at hm hn
      have hkj : k = j := by
        rcases Nat.lt_trichotomy k j with hlt | he | hgt
        · have h1 := h k
          have h2 : Mem.wfFrom j ((j, w) :: u) = true := Mem.wfFrom_cons.2 ⟨Nat.le_refl _, (Mem.wfFrom_cons.1 hn0).2⟩
          rw [Mem.read_below h2 hlt] at h1
          simp [Mem.read] at h1
          exact absurd h1 hm.1.2
        · exact he
        · have h1 := h j
          have h2 : Mem.wfFrom k ((k, v) :: t) = true := Mem.wfFrom_cons.2 ⟨Nat.le_refl _, (Mem.wfFrom_cons.1 hm0).2⟩
          rw [Mem.read_below h2 hgt] at h1
          simp [Mem.read] at h1
          exact absurd h1.symm hn.1.2
      subst hkj
      have hv : v = w := by have := h k; simpa [Mem.read] using this
      subst hv
      have ht : t = u := by
        refine ih hm.2 hn.2 fun a => ?_
        by_cases ha : k = a
        · subst ha
          rw [Mem.read_below hm.2 (by omega), Mem.read_below hn.2 (by omega)]
        · have := h a
          simpa [Mem.read, ha] using this
      rw [ht]

/-- Two canonical memories that read alike are one. -/
theorem Mem.ext {m n : Mem} (hm : m.wf = true) (hn : n.wf = true) (h : ∀ a, m.read a = n.read a) : m = n := Mem.ext_from hm hn h

end Sys2Proof.Machine
end

