-- ==== Sys2Proof/Laws/Issue.lean ====
section
/-!
SUPPORT. What the issue of an instruction can come to, for a core that is in no gang: one lemma for each answer of its meaning.
-/
namespace Sys2Proof.Machine

theorem State.noted_ganged (s : State) : s.noted.core.ganged = s.core.ganged := by
  unfold State.noted State.mapMembers State.mapCore Core.note; split <;> rfl

theorem State.noted_mgmt (s : State) : s.noted.core.mgmt = s.core.mgmt := by
  unfold State.noted State.mapMembers State.mapCore Core.note; split <;> rfl

theorem State.noted_regs (s : State) : s.noted.core.regs = s.core.regs := by
  unfold State.noted State.mapMembers State.mapCore Core.note; split <;> rfl

theorem State.noted_act (s : State) : s.noted.core.act = s.core.act := by
  unfold State.noted State.mapMembers State.mapCore Core.note; split <;> rfl

theorem State.noted_alone {s : State} (h : s.core.ganged = false) :
    s.noted = s.mapCore fun c => c.note c.pcConds [] := by
  simp [State.noted, State.mapMembers, h]

theorem State.noted_pending (s : State) (rs : List SReg) : s.noted.core.pending rs = s.core.pending rs := by
  unfold State.noted State.mapMembers State.mapCore Core.note; split <;> rfl

theorem State.noted_waitHolds (s : State) (w : Nat) : s.noted.core.waitHolds w = s.core.waitHolds w := by
  unfold State.noted State.mapMembers State.mapCore Core.note; split <;> rfl

theorem State.noted_runsOff (s : State) (n : Nat) : runsOff s.noted.core n = runsOff s.core n := by
  unfold State.noted State.mapMembers State.mapCore Core.note; split <;> rfl

theorem focus_zero (s : State) : focus 0 s = s := rfl

theorem R.map_id (r : R) : r.map (focus 0) = r := by cases r <;> rfl

theorem memberPart_zero (m : State → R) (s : State) : memberPart m 0 s = m s := by
  simp [memberPart, focus_zero, R.map_id]

/-- The parts of a core that is in no gang are its own part. -/
theorem runMembers_alone (m : State → R) (s : State) (h : s.core.ganged = false) (t : State) :
    runMembers m s.members 0 t = [m t] := by
  simp [State.members, h, runMembers, memberPart_zero]

theorem State.together_alone {s : State} (h : s.core.ganged = false) : s.together = [s.core] := by
  simp [State.together, h]

theorem State.mapMembers_alone {s : State} (h : s.core.ganged = false) (f : Core → Core) : s.mapMembers f = s.mapCore f := by
  simp [State.mapMembers, h]

/-- What an instruction that executes comes to, by its meaning's answer. -/
theorem issue_executes {u : Iss} {m : State → R} {s : State} (hok : u.ok = true) (hr : Issues u.g u.wait s) :
    issue u m s = conclude u.len s.noted [m s.noted] := by
  have h1 : s.mapMembers (fun c => c.note c.pcConds []) = s.noted := rfl
  have h2 : u.part m s.noted = m s.noted := by
    simp [Iss.part, State.noted_regs, hr.guard, State.noted_pending, hr.free, State.noted_waitHolds, hr.drained]
  simp only [issue, h1, hok, hr.guard, runMembers_alone _ s hr.alone, h2]
  simp

theorem conclude_done {len : Nat} {s0 t : State} (h : runsOff s0.core len = false) :
    conclude len s0 [.done t] = .next (t.goOn len) := by
  simp [conclude, trapsOf, R.isHold, R.isWait, R.state, complete, h]

/-- A part that traps keeps of its state what its accesses left beside their results. -/
theorem conclude_trapRead {len : Nat} {s0 t : State} {c : Cause} {v : Word} :
    conclude len s0 [.trap t c v] = .next ((s0.marksOf t).trapNow c v) := by
  simp [conclude, trapsOf, trapMembers, focus, State.trapNow, R.state]

theorem Core.marksOf_self (c : Core) : c.marksOf c = c := rfl

/-- What an access can leave is as it was: storage health, profiling accumulators, the count of free values, the neighbours,
the activation counts. -/
structure Untouched (s t : State) : Prop where
  health : t.core.health = s.core.health
  count : t.core.acctCount = s.core.acctCount
  sum : t.core.acctSum = s.core.acctSum
  peers : t.peers = s.peers
  fresh : t.fresh = s.fresh
  acts : t.pkg.acts = s.pkg.acts

/-- A part that made no access leaves none. -/
theorem State.marksOf_same {s t : State} (h : Untouched s t) : s.marksOf t = s := by
  have h1 : s.core.marksOf t.core = s.core := by simp [Core.marksOf, h.health, h.count, h.sum]
  simp [State.marksOf, h1, h.peers, h.fresh, h.acts, Core.marksOf_self]

theorem conclude_trap {len : Nat} {s0 t : State} {c : Cause} {v : Word} (h : Untouched s0 t) :
    conclude len s0 [.trap t c v] = .next (s0.trapNow c v) := by
  rw [conclude_trapRead, State.marksOf_same h]

theorem conclude_hold {len : Nat} {s0 : State} : conclude len s0 [.hold] = .next s0.holds := by
  simp [conclude, trapsOf, R.isHold]

theorem conclude_jump {len : Nat} {s0 t : State} {a : Word} : conclude len s0 [.jump t a] = .next (t.goTo a) := by
  simp [conclude, trapsOf, R.isHold, R.isWait, R.state]

theorem conclude_wait {len : Nat} {s0 t : State} (h0 : runsOff s0.core len = false) (ht : t.core.ganged = false) (ha : t.core.await.isSome = true) :
    conclude len s0 [.wait t] = .next (t.mapCore fun c => { c with hold := false }) := by
  simp [conclude, trapsOf, R.isHold, R.isWait, R.state, h0, State.together_alone ht, ha, State.mapMembers_alone ht]

theorem conclude_ended {len : Nat} {s0 t : State} (h0 : s0.core.ganged = false) (hm : s0.core.mgmt = false) :
    conclude len s0 [.ended t] = .next (t.mapCore (Core.issued t.grove.cycle)) := by
  simp [conclude, trapsOf, R.isHold, R.isWait, R.state, hm, State.mapAsIn, h0, State.mapCore]

/-- An instruction whose meaning completes. -/
theorem issue_done {u : Iss} {m : State → R} {s t : State} (hok : u.ok = true) (hr : Ready u.g u.wait u.len s)
    (hm : m s.noted = .done t) : issue u m s = .next (t.goOn u.len) := by
  rw [issue_executes hok hr.toIssues, hm, conclude_done]; rw [State.noted_runsOff]; exact hr.stays

/-- An instruction whose meaning traps. -/
theorem issue_trap {u : Iss} {m : State → R} {s t : State} {c : Cause} {v : Word} (hok : u.ok = true)
    (hr : Issues u.g u.wait s) (hm : m s.noted = .trap t c v) (h : Untouched s.noted t) :
    issue u m s = .next (s.noted.trapNow c v) := by
  rw [issue_executes hok hr, hm, conclude_trap h]

/-- An instruction whose meaning holds it unissued. -/
theorem issue_hold {u : Iss} {m : State → R} {s : State} (hok : u.ok = true) (hr : Issues u.g u.wait s)
    (hm : m s.noted = .hold) : issue u m s = .next (s.noted.holds) := by
  rw [issue_executes hok hr, hm, conclude_hold]

/-- An instruction whose meaning transfers. -/
theorem issue_jump {u : Iss} {m : State → R} {s t : State} {a : Word} (hok : u.ok = true)
    (hr : Issues u.g u.wait s) (hm : m s.noted = .jump t a) : issue u m s = .next (t.goTo a) := by
  rw [issue_executes hok hr, hm, conclude_jump]

/-- An instruction whose guard is false does nothing (04_formats.md R64). -/
theorem issue_falseGuard {u : Iss} {m : State → R} {s : State} (hok : u.ok = true) (hg : s.core.ganged = false)
    (hf : s.core.regs.guard u.g = false) (hs : runsOff s.core u.len = false) :
    issue u m s = .next (s.noted.goOn u.len) := by
  have h1 : s.mapMembers (fun c => c.note c.pcConds []) = s.noted := rfl
  have hs' : runsOff s.noted.core u.len = false := (State.noted_runsOff s u.len).trans hs
  simp only [issue, h1, hok, hf, runMembers_alone _ s hg]
  cases hl : u.lead
  · have h2 : u.part m s.noted = .done s.noted := by simp [Iss.part, hl, State.noted_regs, hf]
    simp [h2, conclude_done hs']
  · simp [complete, hs']

/-- An encoding that is not well formed (04_formats.md R77). -/
theorem issue_illegal {u : Iss} {m : State → R} {s : State} (hok : u.ok = false) (hg : s.core.ganged = false) :
    issue u m s = .next (s.noted.trapNow u.cause (u.w0.setWidth 64)) := by
  have h1 : s.mapMembers (fun c => c.note c.pcConds []) = s.noted := rfl
  simp only [issue, h1, hok, runMembers_alone _ s hg]
  simp [conclude_trap (s0 := s.noted) ⟨rfl, rfl, rfl, rfl, rfl, rfl⟩]

/-- An instruction that names a register which awaits a result holds (08_scalar.md R123). -/
theorem issue_pending {u : Iss} {m : State → R} {s : State} (hok : u.ok = true) (hg : s.core.ganged = false)
    (ht : s.core.regs.guard u.g = true) (hp : s.core.pending u.regs = true) : issue u m s = .next (s.noted.holds) := by
  have h1 : s.mapMembers (fun c => c.note c.pcConds []) = s.noted := rfl
  have h2 : u.part m s.noted = .hold := by simp [Iss.part, State.noted_regs, ht, State.noted_pending, hp]
  simp only [issue, h1, hok, ht, runMembers_alone _ s hg, h2]
  simp [conclude_hold]

/-! ### What the successor changes -/

theorem Core.issued_beside (n : Nat) (c : Core) (r : Regs) : ({ c.issued n with regs := r } : Core).beside = c.beside := by
  unfold Core.issued Core.beside Core.still Debug.issued Debug.still Debug.arrive
  simp only
  split <;> (repeat' split) <;> simp [Vector.set_set]

theorem State.goOn_alone {len : Nat} {s : State} (hg : s.core.ganged = false) (hm : s.core.mgmt = false) :
    s.goOn len = s.mapCore fun c => { c.issued s.grove.cycle with regs := c.regs.advance len } := by
  simp [State.goOn, hm, State.mapMembers_alone hg, State.follow, State.mapCore, Core.issued, hg]

theorem State.goTo_alone {a : Word} {s : State} (hg : s.core.ganged = false) (hm : s.core.mgmt = false) :
    s.goTo a = s.mapCore fun c => ({ c.issued s.grove.cycle with regs := c.regs.transfer a } : Core).note [] [(1, a)] := by
  simp [State.goTo, hm, State.mapMembers_alone hg, State.follow, State.mapCore, Core.issued, Core.note, hg]

/-- A core that issued alone goes on. -/
theorem after_goOn {len : Nat} {s : State} (hg : s.core.ganged = false) (hm : s.core.mgmt = false) :
    After len s (s.goOn len) := by
  refine ⟨?_, ?_⟩
  · rw [State.goOn_alone hg hm]; rfl
  · rw [State.goOn_alone hg hm]
    unfold State.beside State.mapCore
    simp only [Core.issued_beside]

/-- A core that issued a transfer alone. -/
theorem after_goTo {a : Word} {s : State} (hg : s.core.ganged = false) (hm : s.core.mgmt = false) :
    AfterJump a s (s.goTo a) := by
  refine ⟨?_, ?_⟩
  · rw [State.goTo_alone hg hm]; rfl
  · rw [State.goTo_alone hg hm]
    unfold State.beside State.mapCore
    have : (({ s.core.issued s.grove.cycle with regs := s.core.regs.transfer a } : Core).note [] [(1, a)]).beside = s.core.beside := by
      rw [← Core.issued_beside s.grove.cycle s.core (s.core.regs.transfer a)]; rfl
    simp only [this]

/-- An instruction that completes goes on, and its own effect stands. -/
theorem issue_after {u : Iss} {m : State → R} {s t : State} (hok : u.ok = true) (hr : Ready u.g u.wait u.len s)
    (hm : m s.noted = .done t) (hg : t.core.ganged = false) (hmg : t.core.mgmt = false) :
    ∃ w, issue u m s = .next w ∧ After u.len t w :=
  ⟨_, issue_done hok hr hm, after_goOn hg hmg⟩

/-- An instruction that transfers. -/
theorem issue_afterJump {u : Iss} {m : State → R} {s t : State} {a : Word} (hok : u.ok = true) (hr : Issues u.g u.wait s)
    (hm : m s.noted = .jump t a) (hg : t.core.ganged = false) (hmg : t.core.mgmt = false) :
    ∃ w, issue u m s = .next w ∧ AfterJump a t w :=
  ⟨_, issue_jump hok hr hm, after_goTo hg hmg⟩

end Sys2Proof.Machine
end

