-- ==== Sys2Proof/Laws/Scalar.lean ====
section
/-!
SUPPORT. Scalar instructions that change nothing but registers.
-/
namespace Sys2Proof.Machine

theorem State.noted_beside {s : State} (h : s.core.ganged = false) : s.noted.beside = s.beside := by
  rw [State.noted_alone h]; rfl

/-- A scalar instruction that only changes registers completes with them changed. -/
theorem scalar_sets {i : Instr} {g : Guard} {regs : List SReg} {f : State → State} {s : State} {r : Regs} (hwf : i.wf = true)
    (hr : Ready g 0 i.bytes s) (hf : f s.noted = s.noted.mapRegs fun _ => r) :
    ∃ t, scalar i g regs f s = .next t ∧ t.core.regs = r.advance i.bytes ∧ t.beside = s.beside := by
  have hg : (s.noted.mapRegs fun _ => r).core.ganged = false := (State.noted_ganged s).trans hr.alone
  have hm : (s.noted.mapRegs fun _ => r).core.mgmt = false := (State.noted_mgmt s).trans hr.activation
  obtain ⟨t, h1, h2⟩ :=
    issue_after (u := Iss.of i g regs) (m := fun s => .done (f s)) (s := s) (t := s.noted.mapRegs fun _ => r) hwf hr
      (by simp [hf]) hg hm
  refine ⟨t, h1, h2.regs, h2.beside.trans ?_⟩
  rw [← State.noted_beside hr.alone]; rfl

end Sys2Proof.Machine
end

