-- ==== Sys2Proof/Laws/State.lean ====
section
/-!
SUPPORT. One lemma for each field and each update of the state, true by unfolding, so that no proof unfolds a record update.
-/
namespace Sys2Proof.Machine

/-! ### The core changed -/

section
variable (s : State) (f : Core → Core)

@[simp] theorem State.mapCore_core : (s.mapCore f).core = f s.core := rfl
@[simp] theorem State.mapCore_peers : (s.mapCore f).peers = s.peers := rfl
@[simp] theorem State.mapCore_grove : (s.mapCore f).grove = s.grove := rfl
@[simp] theorem State.mapCore_pkg : (s.mapCore f).pkg = s.pkg := rfl
@[simp] theorem State.mapCore_agenda : (s.mapCore f).agenda = s.agenda := rfl
@[simp] theorem State.mapCore_turn : (s.mapCore f).turn = s.turn := rfl
@[simp] theorem State.mapCore_slack : (s.mapCore f).slack = s.slack := rfl
@[simp] theorem State.mapCore_fresh : (s.mapCore f).fresh = s.fresh := rfl

end

/-! ### The registers changed -/

section
variable (s : State) (f : Regs → Regs)

@[simp] theorem State.mapRegs_regs : (s.mapRegs f).core.regs = f s.core.regs := rfl
@[simp] theorem State.mapRegs_peers : (s.mapRegs f).peers = s.peers := rfl
@[simp] theorem State.mapRegs_grove : (s.mapRegs f).grove = s.grove := rfl
@[simp] theorem State.mapRegs_pkg : (s.mapRegs f).pkg = s.pkg := rfl
@[simp] theorem State.mapRegs_agenda : (s.mapRegs f).agenda = s.agenda := rfl
@[simp] theorem State.mapRegs_turn : (s.mapRegs f).turn = s.turn := rfl
@[simp] theorem State.mapRegs_slack : (s.mapRegs f).slack = s.slack := rfl
@[simp] theorem State.mapRegs_fresh : (s.mapRegs f).fresh = s.fresh := rfl
@[simp] theorem State.mapRegs_core_ix : (s.mapRegs f).core.ix = s.core.ix := rfl
@[simp] theorem State.mapRegs_core_pkgIx : (s.mapRegs f).core.pkgIx = s.core.pkgIx := rfl
@[simp] theorem State.mapRegs_core_act : (s.mapRegs f).core.act = s.core.act := rfl
@[simp] theorem State.mapRegs_core_await : (s.mapRegs f).core.await = s.core.await := rfl
@[simp] theorem State.mapRegs_core_hold : (s.mapRegs f).core.hold = s.core.hold := rfl
@[simp] theorem State.mapRegs_core_pause : (s.mapRegs f).core.pause = s.core.pause := rfl
@[simp] theorem State.mapRegs_core_ganged : (s.mapRegs f).core.ganged = s.core.ganged := rfl
@[simp] theorem State.mapRegs_core_gseq : (s.mapRegs f).core.gseq = s.core.gseq := rfl
@[simp] theorem State.mapRegs_core_deferred : (s.mapRegs f).core.deferred = s.core.deferred := rfl
@[simp] theorem State.mapRegs_core_kills : (s.mapRegs f).core.kills = s.core.kills := rfl
@[simp] theorem State.mapRegs_core_preempt : (s.mapRegs f).core.preempt = s.core.preempt := rfl
@[simp] theorem State.mapRegs_core_halted : (s.mapRegs f).core.halted = s.core.halted := rfl
@[simp] theorem State.mapRegs_core_mgmt : (s.mapRegs f).core.mgmt = s.core.mgmt := rfl
@[simp] theorem State.mapRegs_core_mgmtWord : (s.mapRegs f).core.mgmtWord = s.core.mgmtWord := rfl
@[simp] theorem State.mapRegs_core_retry : (s.mapRegs f).core.retry = s.core.retry := rfl
@[simp] theorem State.mapRegs_core_loopOrd : (s.mapRegs f).core.loopOrd = s.core.loopOrd := rfl
@[simp] theorem State.mapRegs_core_traps : (s.mapRegs f).core.traps = s.core.traps := rfl
@[simp] theorem State.mapRegs_core_cmds : (s.mapRegs f).core.cmds = s.core.cmds := rfl
@[simp] theorem State.mapRegs_core_serial : (s.mapRegs f).core.serial = s.core.serial := rfl
@[simp] theorem State.mapRegs_core_mIssued : (s.mapRegs f).core.mIssued = s.core.mIssued := rfl
@[simp] theorem State.mapRegs_core_posted : (s.mapRegs f).core.posted = s.core.posted := rfl
@[simp] theorem State.mapRegs_core_postId : (s.mapRegs f).core.postId = s.core.postId := rfl
@[simp] theorem State.mapRegs_core_scratch : (s.mapRegs f).core.scratch = s.core.scratch := rfl
@[simp] theorem State.mapRegs_core_health : (s.mapRegs f).core.health = s.core.health := rfl
@[simp] theorem State.mapRegs_core_actors : (s.mapRegs f).core.actors = s.core.actors := rfl
@[simp] theorem State.mapRegs_core_served : (s.mapRegs f).core.served = s.core.served := rfl
@[simp] theorem State.mapRegs_core_room : (s.mapRegs f).core.room = s.core.room := rfl
@[simp] theorem State.mapRegs_core_notices : (s.mapRegs f).core.notices = s.core.notices := rfl
@[simp] theorem State.mapRegs_core_ringSizes : (s.mapRegs f).core.ringSizes = s.core.ringSizes := rfl
@[simp] theorem State.mapRegs_core_slots : (s.mapRegs f).core.slots = s.core.slots := rfl
@[simp] theorem State.mapRegs_core_mac : (s.mapRegs f).core.mac = s.core.mac := rfl
@[simp] theorem State.mapRegs_core_nmu : (s.mapRegs f).core.nmu = s.core.nmu := rfl
@[simp] theorem State.mapRegs_core_coppice : (s.mapRegs f).core.coppice = s.core.coppice := rfl
@[simp] theorem State.mapRegs_core_coppiceBad : (s.mapRegs f).core.coppiceBad = s.core.coppiceBad := rfl
@[simp] theorem State.mapRegs_core_sliceBase : (s.mapRegs f).core.sliceBase = s.core.sliceBase := rfl
@[simp] theorem State.mapRegs_core_sliceRows : (s.mapRegs f).core.sliceRows = s.core.sliceRows := rfl
@[simp] theorem State.mapRegs_core_stats : (s.mapRegs f).core.stats = s.core.stats := rfl
@[simp] theorem State.mapRegs_core_dbg : (s.mapRegs f).core.dbg = s.core.dbg := rfl
@[simp] theorem State.mapRegs_core_acctCount : (s.mapRegs f).core.acctCount = s.core.acctCount := rfl
@[simp] theorem State.mapRegs_core_acctSum : (s.mapRegs f).core.acctSum = s.core.acctSum := rfl
@[simp] theorem State.mapRegs_core_counters : (s.mapRegs f).core.counters = s.core.counters := rfl
@[simp] theorem State.mapRegs_core_troot : (s.mapRegs f).core.troot = s.core.troot := rfl
@[simp] theorem State.mapRegs_core_tenant : (s.mapRegs f).core.tenant = s.core.tenant := rfl
@[simp] theorem State.mapRegs_core_launchSlot : (s.mapRegs f).core.launchSlot = s.core.launchSlot := rfl

end

/-! ### A scalar register of the core written -/

section
variable (s : State) (i : SReg) (v : Word)

@[simp] theorem State.ws_regs : (s.ws i v).core.regs = s.core.regs.ws i v := rfl
@[simp] theorem State.ws_peers : (s.ws i v).peers = s.peers := rfl
@[simp] theorem State.ws_grove : (s.ws i v).grove = s.grove := rfl
@[simp] theorem State.ws_pkg : (s.ws i v).pkg = s.pkg := rfl
@[simp] theorem State.ws_agenda : (s.ws i v).agenda = s.agenda := rfl
@[simp] theorem State.ws_turn : (s.ws i v).turn = s.turn := rfl
@[simp] theorem State.ws_slack : (s.ws i v).slack = s.slack := rfl
@[simp] theorem State.ws_fresh : (s.ws i v).fresh = s.fresh := rfl
@[simp] theorem State.ws_core_ix : (s.ws i v).core.ix = s.core.ix := rfl
@[simp] theorem State.ws_core_pkgIx : (s.ws i v).core.pkgIx = s.core.pkgIx := rfl
@[simp] theorem State.ws_core_act : (s.ws i v).core.act = s.core.act := rfl
@[simp] theorem State.ws_core_await : (s.ws i v).core.await = s.core.await := rfl
@[simp] theorem State.ws_core_hold : (s.ws i v).core.hold = s.core.hold := rfl
@[simp] theorem State.ws_core_pause : (s.ws i v).core.pause = s.core.pause := rfl
@[simp] theorem State.ws_core_ganged : (s.ws i v).core.ganged = s.core.ganged := rfl
@[simp] theorem State.ws_core_gseq : (s.ws i v).core.gseq = s.core.gseq := rfl
@[simp] theorem State.ws_core_deferred : (s.ws i v).core.deferred = s.core.deferred := rfl
@[simp] theorem State.ws_core_kills : (s.ws i v).core.kills = s.core.kills := rfl
@[simp] theorem State.ws_core_preempt : (s.ws i v).core.preempt = s.core.preempt := rfl
@[simp] theorem State.ws_core_halted : (s.ws i v).core.halted = s.core.halted := rfl
@[simp] theorem State.ws_core_mgmt : (s.ws i v).core.mgmt = s.core.mgmt := rfl
@[simp] theorem State.ws_core_mgmtWord : (s.ws i v).core.mgmtWord = s.core.mgmtWord := rfl
@[simp] theorem State.ws_core_retry : (s.ws i v).core.retry = s.core.retry := rfl
@[simp] theorem State.ws_core_loopOrd : (s.ws i v).core.loopOrd = s.core.loopOrd := rfl
@[simp] theorem State.ws_core_traps : (s.ws i v).core.traps = s.core.traps := rfl
@[simp] theorem State.ws_core_cmds : (s.ws i v).core.cmds = s.core.cmds := rfl
@[simp] theorem State.ws_core_serial : (s.ws i v).core.serial = s.core.serial := rfl
@[simp] theorem State.ws_core_mIssued : (s.ws i v).core.mIssued = s.core.mIssued := rfl
@[simp] theorem State.ws_core_posted : (s.ws i v).core.posted = s.core.posted := rfl
@[simp] theorem State.ws_core_postId : (s.ws i v).core.postId = s.core.postId := rfl
@[simp] theorem State.ws_core_scratch : (s.ws i v).core.scratch = s.core.scratch := rfl
@[simp] theorem State.ws_core_health : (s.ws i v).core.health = s.core.health := rfl
@[simp] theorem State.ws_core_actors : (s.ws i v).core.actors = s.core.actors := rfl
@[simp] theorem State.ws_core_served : (s.ws i v).core.served = s.core.served := rfl
@[simp] theorem State.ws_core_room : (s.ws i v).core.room = s.core.room := rfl
@[simp] theorem State.ws_core_notices : (s.ws i v).core.notices = s.core.notices := rfl
@[simp] theorem State.ws_core_ringSizes : (s.ws i v).core.ringSizes = s.core.ringSizes := rfl
@[simp] theorem State.ws_core_slots : (s.ws i v).core.slots = s.core.slots := rfl
@[simp] theorem State.ws_core_mac : (s.ws i v).core.mac = s.core.mac := rfl
@[simp] theorem State.ws_core_nmu : (s.ws i v).core.nmu = s.core.nmu := rfl
@[simp] theorem State.ws_core_coppice : (s.ws i v).core.coppice = s.core.coppice := rfl
@[simp] theorem State.ws_core_coppiceBad : (s.ws i v).core.coppiceBad = s.core.coppiceBad := rfl
@[simp] theorem State.ws_core_sliceBase : (s.ws i v).core.sliceBase = s.core.sliceBase := rfl
@[simp] theorem State.ws_core_sliceRows : (s.ws i v).core.sliceRows = s.core.sliceRows := rfl
@[simp] theorem State.ws_core_stats : (s.ws i v).core.stats = s.core.stats := rfl
@[simp] theorem State.ws_core_dbg : (s.ws i v).core.dbg = s.core.dbg := rfl
@[simp] theorem State.ws_core_acctCount : (s.ws i v).core.acctCount = s.core.acctCount := rfl
@[simp] theorem State.ws_core_acctSum : (s.ws i v).core.acctSum = s.core.acctSum := rfl
@[simp] theorem State.ws_core_counters : (s.ws i v).core.counters = s.core.counters := rfl
@[simp] theorem State.ws_core_troot : (s.ws i v).core.troot = s.core.troot := rfl
@[simp] theorem State.ws_core_tenant : (s.ws i v).core.tenant = s.core.tenant := rfl
@[simp] theorem State.ws_core_launchSlot : (s.ws i v).core.launchSlot = s.core.launchSlot := rfl

end

/-! ### One register written -/

section
variable (r : Regs) (i : SReg) (v : Word)

@[simp] theorem Regs.ws_pc : (r.ws i v).pc = r.pc := by unfold Regs.ws; split <;> rfl
@[simp] theorem Regs.ws_p : (r.ws i v).p = r.p := by unfold Regs.ws; split <;> rfl
@[simp] theorem Regs.ws_v : (r.ws i v).v = r.v := by unfold Regs.ws; split <;> rfl
@[simp] theorem Regs.ws_m : (r.ws i v).m = r.m := by unfold Regs.ws; split <;> rfl
@[simp] theorem Regs.ws_acc : (r.ws i v).acc = r.acc := by unfold Regs.ws; split <;> rfl
@[simp] theorem Regs.ws_lc : (r.ws i v).lc = r.lc := by unfold Regs.ws; split <;> rfl
@[simp] theorem Regs.ws_fpctl : (r.ws i v).fpctl = r.fpctl := by unfold Regs.ws; split <;> rfl
@[simp] theorem Regs.ws_srseed : (r.ws i v).srseed = r.srseed := by unfold Regs.ws; split <;> rfl
@[simp] theorem Regs.ws_srstream : (r.ws i v).srstream = r.srstream := by unfold Regs.ws; split <;> rfl
@[simp] theorem Regs.ws_srctr : (r.ws i v).srctr = r.srctr := by unfold Regs.ws; split <;> rfl
@[simp] theorem Regs.ws_wid : (r.ws i v).wid = r.wid := by unfold Regs.ws; split <;> rfl
@[simp] theorem Regs.ws_aid : (r.ws i v).aid = r.aid := by unfold Regs.ws; split <;> rfl
@[simp] theorem Regs.ws_gangix : (r.ws i v).gangix = r.gangix := by unfold Regs.ws; split <;> rfl
@[simp] theorem Regs.ws_bartmo : (r.ws i v).bartmo = r.bartmo := by unfold Regs.ws; split <;> rfl
@[simp] theorem Regs.ws_tcause : (r.ws i v).tcause = r.tcause := by unfold Regs.ws; split <;> rfl
@[simp] theorem Regs.ws_tpc : (r.ws i v).tpc = r.tpc := by unfold Regs.ws; split <;> rfl
@[simp] theorem Regs.ws_tval : (r.ws i v).tval = r.tval := by unfold Regs.ws; split <;> rfl

end

section
variable (r : Regs) (i : PReg) (b : Bool)

@[simp] theorem Regs.wp_pc : (r.wp i b).pc = r.pc := by unfold Regs.wp; split <;> rfl
@[simp] theorem Regs.wp_s : (r.wp i b).s = r.s := by unfold Regs.wp; split <;> rfl
@[simp] theorem Regs.wp_v : (r.wp i b).v = r.v := by unfold Regs.wp; split <;> rfl
@[simp] theorem Regs.wp_m : (r.wp i b).m = r.m := by unfold Regs.wp; split <;> rfl
@[simp] theorem Regs.wp_acc : (r.wp i b).acc = r.acc := by unfold Regs.wp; split <;> rfl
@[simp] theorem Regs.wp_lc : (r.wp i b).lc = r.lc := by unfold Regs.wp; split <;> rfl
@[simp] theorem Regs.wp_fpctl : (r.wp i b).fpctl = r.fpctl := by unfold Regs.wp; split <;> rfl
@[simp] theorem Regs.wp_srseed : (r.wp i b).srseed = r.srseed := by unfold Regs.wp; split <;> rfl
@[simp] theorem Regs.wp_srstream : (r.wp i b).srstream = r.srstream := by unfold Regs.wp; split <;> rfl
@[simp] theorem Regs.wp_srctr : (r.wp i b).srctr = r.srctr := by unfold Regs.wp; split <;> rfl
@[simp] theorem Regs.wp_wid : (r.wp i b).wid = r.wid := by unfold Regs.wp; split <;> rfl
@[simp] theorem Regs.wp_aid : (r.wp i b).aid = r.aid := by unfold Regs.wp; split <;> rfl
@[simp] theorem Regs.wp_gangix : (r.wp i b).gangix = r.gangix := by unfold Regs.wp; split <;> rfl
@[simp] theorem Regs.wp_bartmo : (r.wp i b).bartmo = r.bartmo := by unfold Regs.wp; split <;> rfl
@[simp] theorem Regs.wp_tcause : (r.wp i b).tcause = r.tcause := by unfold Regs.wp; split <;> rfl
@[simp] theorem Regs.wp_tpc : (r.wp i b).tpc = r.tpc := by unfold Regs.wp; split <;> rfl
@[simp] theorem Regs.wp_tval : (r.wp i b).tval = r.tval := by unfold Regs.wp; split <;> rfl

end

section
variable (r : Regs) (i : MReg) (v : Word)

@[simp] theorem Regs.wm_pc : (r.wm i v).pc = r.pc := by unfold Regs.wm; split <;> rfl
@[simp] theorem Regs.wm_s : (r.wm i v).s = r.s := by unfold Regs.wm; split <;> rfl
@[simp] theorem Regs.wm_p : (r.wm i v).p = r.p := by unfold Regs.wm; split <;> rfl
@[simp] theorem Regs.wm_v : (r.wm i v).v = r.v := by unfold Regs.wm; split <;> rfl
@[simp] theorem Regs.wm_acc : (r.wm i v).acc = r.acc := by unfold Regs.wm; split <;> rfl
@[simp] theorem Regs.wm_lc : (r.wm i v).lc = r.lc := by unfold Regs.wm; split <;> rfl
@[simp] theorem Regs.wm_fpctl : (r.wm i v).fpctl = r.fpctl := by unfold Regs.wm; split <;> rfl
@[simp] theorem Regs.wm_srseed : (r.wm i v).srseed = r.srseed := by unfold Regs.wm; split <;> rfl
@[simp] theorem Regs.wm_srstream : (r.wm i v).srstream = r.srstream := by unfold Regs.wm; split <;> rfl
@[simp] theorem Regs.wm_srctr : (r.wm i v).srctr = r.srctr := by unfold Regs.wm; split <;> rfl
@[simp] theorem Regs.wm_wid : (r.wm i v).wid = r.wid := by unfold Regs.wm; split <;> rfl
@[simp] theorem Regs.wm_aid : (r.wm i v).aid = r.aid := by unfold Regs.wm; split <;> rfl
@[simp] theorem Regs.wm_gangix : (r.wm i v).gangix = r.gangix := by unfold Regs.wm; split <;> rfl
@[simp] theorem Regs.wm_bartmo : (r.wm i v).bartmo = r.bartmo := by unfold Regs.wm; split <;> rfl
@[simp] theorem Regs.wm_tcause : (r.wm i v).tcause = r.tcause := by unfold Regs.wm; split <;> rfl
@[simp] theorem Regs.wm_tpc : (r.wm i v).tpc = r.tpc := by unfold Regs.wm; split <;> rfl
@[simp] theorem Regs.wm_tval : (r.wm i v).tval = r.tval := by unfold Regs.wm; split <;> rfl

end

section
variable (r : Regs) (i : VReg) (v : VWord)

@[simp] theorem Regs.wv_pc : (r.wv i v).pc = r.pc := rfl
@[simp] theorem Regs.wv_s : (r.wv i v).s = r.s := rfl
@[simp] theorem Regs.wv_p : (r.wv i v).p = r.p := rfl
@[simp] theorem Regs.wv_m : (r.wv i v).m = r.m := rfl
@[simp] theorem Regs.wv_acc : (r.wv i v).acc = r.acc := rfl
@[simp] theorem Regs.wv_lc : (r.wv i v).lc = r.lc := rfl
@[simp] theorem Regs.wv_fpctl : (r.wv i v).fpctl = r.fpctl := rfl
@[simp] theorem Regs.wv_srseed : (r.wv i v).srseed = r.srseed := rfl
@[simp] theorem Regs.wv_srstream : (r.wv i v).srstream = r.srstream := rfl
@[simp] theorem Regs.wv_srctr : (r.wv i v).srctr = r.srctr := rfl
@[simp] theorem Regs.wv_wid : (r.wv i v).wid = r.wid := rfl
@[simp] theorem Regs.wv_aid : (r.wv i v).aid = r.aid := rfl
@[simp] theorem Regs.wv_gangix : (r.wv i v).gangix = r.gangix := rfl
@[simp] theorem Regs.wv_bartmo : (r.wv i v).bartmo = r.bartmo := rfl
@[simp] theorem Regs.wv_tcause : (r.wv i v).tcause = r.tcause := rfl
@[simp] theorem Regs.wv_tpc : (r.wv i v).tpc = r.tpc := rfl
@[simp] theorem Regs.wv_tval : (r.wv i v).tval = r.tval := rfl

end

section
variable (r : Regs) (x : Flags)

@[simp] theorem Regs.accrue_pc : (r.accrue x).pc = r.pc := rfl
@[simp] theorem Regs.accrue_s : (r.accrue x).s = r.s := rfl
@[simp] theorem Regs.accrue_p : (r.accrue x).p = r.p := rfl
@[simp] theorem Regs.accrue_v : (r.accrue x).v = r.v := rfl
@[simp] theorem Regs.accrue_m : (r.accrue x).m = r.m := rfl
@[simp] theorem Regs.accrue_acc : (r.accrue x).acc = r.acc := rfl
@[simp] theorem Regs.accrue_lc : (r.accrue x).lc = r.lc := rfl
@[simp] theorem Regs.accrue_srseed : (r.accrue x).srseed = r.srseed := rfl
@[simp] theorem Regs.accrue_srstream : (r.accrue x).srstream = r.srstream := rfl
@[simp] theorem Regs.accrue_srctr : (r.accrue x).srctr = r.srctr := rfl
@[simp] theorem Regs.accrue_wid : (r.accrue x).wid = r.wid := rfl
@[simp] theorem Regs.accrue_aid : (r.accrue x).aid = r.aid := rfl
@[simp] theorem Regs.accrue_gangix : (r.accrue x).gangix = r.gangix := rfl
@[simp] theorem Regs.accrue_bartmo : (r.accrue x).bartmo = r.bartmo := rfl
@[simp] theorem Regs.accrue_tcause : (r.accrue x).tcause = r.tcause := rfl
@[simp] theorem Regs.accrue_tpc : (r.accrue x).tpc = r.tpc := rfl
@[simp] theorem Regs.accrue_tval : (r.accrue x).tval = r.tval := rfl

end

section
variable (r : Regs) (n : Nat)

@[simp] theorem Regs.advCtr_pc : (r.advCtr n).pc = r.pc := rfl
@[simp] theorem Regs.advCtr_s : (r.advCtr n).s = r.s := rfl
@[simp] theorem Regs.advCtr_p : (r.advCtr n).p = r.p := rfl
@[simp] theorem Regs.advCtr_v : (r.advCtr n).v = r.v := rfl
@[simp] theorem Regs.advCtr_m : (r.advCtr n).m = r.m := rfl
@[simp] theorem Regs.advCtr_acc : (r.advCtr n).acc = r.acc := rfl
@[simp] theorem Regs.advCtr_lc : (r.advCtr n).lc = r.lc := rfl
@[simp] theorem Regs.advCtr_fpctl : (r.advCtr n).fpctl = r.fpctl := rfl
@[simp] theorem Regs.advCtr_srseed : (r.advCtr n).srseed = r.srseed := rfl
@[simp] theorem Regs.advCtr_srstream : (r.advCtr n).srstream = r.srstream := rfl
@[simp] theorem Regs.advCtr_wid : (r.advCtr n).wid = r.wid := rfl
@[simp] theorem Regs.advCtr_aid : (r.advCtr n).aid = r.aid := rfl
@[simp] theorem Regs.advCtr_gangix : (r.advCtr n).gangix = r.gangix := rfl
@[simp] theorem Regs.advCtr_bartmo : (r.advCtr n).bartmo = r.bartmo := rfl
@[simp] theorem Regs.advCtr_tcause : (r.advCtr n).tcause = r.tcause := rfl
@[simp] theorem Regs.advCtr_tpc : (r.advCtr n).tpc = r.tpc := rfl
@[simp] theorem Regs.advCtr_tval : (r.advCtr n).tval = r.tval := rfl

end

/-! ### Register reads after writes -/

/-- A scalar register reads what was written, but for s0. -/
theorem Regs.rs_ws_self (r : Regs) {i : SReg} (v : Word) (h : i ≠ 0) : (r.ws i v).rs i = v := by
  simp [Regs.rs, Regs.ws, h]

/-- A write leaves every other scalar register. -/
theorem Regs.rs_ws_other (r : Regs) {i j : SReg} (v : Word) (h : j ≠ i) : (r.ws i v).rs j = r.rs j := by
  have h2 : (i : Nat) ≠ j := fun e => h (Fin.ext e.symm)
  unfold Regs.rs Regs.ws
  split
  · rfl
  · split <;> simp [h2]

/-- s0 reads 0 whatever is written. -/
@[simp] theorem Regs.rs_zero (r : Regs) : r.rs 0 = 0 := by simp [Regs.rs]

/-- A write to s0 is discarded. -/
@[simp] theorem Regs.ws_zero (r : Regs) (v : Word) : r.ws 0 v = r := by simp [Regs.ws]

/-- A lane mask reads what was written, but for m0. -/
theorem Regs.rm_wm_self (r : Regs) {i : MReg} (v : Word) (h : i ≠ 0) : (r.wm i v).rm i = v := by
  simp [Regs.rm, Regs.wm, h]

/-- A vector register reads what was written. -/
@[simp] theorem Regs.rv_wv_self (r : Regs) (i : VReg) (v : VWord) : (r.wv i v).rv i = v := by simp [Regs.rv, Regs.wv]

/-- A write leaves every other vector register. -/
theorem Regs.rv_wv_other (r : Regs) {i j : VReg} (v : VWord) (h : j ≠ i) : (r.wv i v).rv j = r.rv j := by
  have h2 : (i : Nat) ≠ j := fun e => h (Fin.ext e.symm)
  simp [Regs.rv, Regs.wv, h2]

end Sys2Proof.Machine
end

