-- ==== Sys2Proof/Laws/Access.lean ====
section
/-!
SUPPORT. Accesses to the scratchpad of a core that no watchpoint watches, and what loads and stores come to.
-/
namespace Sys2Proof.Machine

/-! ### Nothing watches -/

theorem Core.calm_hitsOf {c : Core} (h : c.calm) (t : Touch) : c.hitsOf t = [] := by
  have h0 : ∀ n : Fin 4, t.hits c.dbg.wp[n].toNat = false := fun n => by
    simp only [Touch.hits, bitAt_getLsbD, h.2 n, Bool.false_and]
  simp only [Core.hitsOf, h0]
  rfl

/-- An access that no watchpoint watches leaves the core. -/
theorem Core.touched_calm {c : Core} (h : c.calm) (n : Nat) (t : Touch) : c.touched n t = c := by
  simp [Core.touched, Core.calm_hitsOf h]

/-- An access that no watchpoint watches leaves the state. -/
theorem State.touched_calm {s : State} (h : s.core.calm) (t : Touch) : s.touched t = s := by
  simp [State.touched, Core.broadcasts, Core.calm_hitsOf h, State.mapCore, Core.touched_calm h]

theorem Health.sound_bad {h : Health} (hb : h.sound = true) : h.bad = [] := by
  simp only [Health.sound, Bool.and_eq_true, beq_iff_eq] at hb; exact hb.1

theorem Health.touchN_calm {h : Health} (hb : h.sound = true) (a n : Nat) : h.touchN a n = h := by
  simp [Health.touchN, h.sound_bad hb]

theorem Health.lostIn_calm {h : Health} (hb : h.sound = true) (a n : Nat) : h.lostIn a n = false := by
  simp [Health.lostIn, hb]

theorem Health.firstLost_calm {h : Health} (hb : h.sound = true) (a n : Nat) : h.firstLost a n = none := by
  simp [Health.firstLost, hb]

theorem Health.wrote_calm {h : Health} (hb : h.sound = true) (a n : Nat) : h.wrote a n = h := by
  cases h; have := Health.sound_bad hb; simp_all [Health.wrote]

/-- A read leaves the bytes whose parity fails. -/
theorem Health.touchN_bad (h : Health) (a n : Nat) : (h.touchN a n).bad = h.bad := by
  have hf : ∀ (l : List Nat) (g : Health), g.bad = h.bad → (l.foldl (fun g i => h.touch g (a / 8 + i)) g).bad = h.bad := by
    intro l
    induction l with
    | nil => exact fun g hg => hg
    | cons x t ih => exact fun g hg => ih _ hg
  unfold Health.touchN
  split
  · rfl
  · exact hf _ _ rfl

theorem State.mapCore_same {s : State} {f : Core → Core} (h : f s.core = s.core) : s.mapCore f = s := by
  simp [State.mapCore, h]

/-- Members change places and back. -/
theorem focus_focus (k : Nat) (s : State) : focus k (focus k s) = s := by
  cases k with
  | zero => rfl
  | succ j =>
    cases hc : s.peers[j]? with
    | none =>
      have : focus (j + 1) s = s := by simp [focus, hc]
      rw [this, this]
    | some c =>
      obtain ⟨h1, h2⟩ := List.getElem?_eq_some_iff.1 hc
      have h3 : s.peers.set j c = s.peers := by rw [← h2]; exact List.set_getElem_self h1
      simp only [focus, hc, List.getElem?_set_self h1, List.set_set, h3]

theorem State.touchStore_calm {s : State} {k : Nat} (h : (focus k s).core.calm) (p n : Nat) : s.touchStore k p n = s := by
  rw [State.touchStore, State.mapCore_same, focus_focus]
  have := Health.touchN_calm h.1 p n
  simp [this]

/-- A load at a core that nothing watches and whose storage is sound leaves the state. -/
theorem State.readAt_calm {s : State} {k : Nat} (h : (focus k s).core.calm) (p n : Nat) (src : Source) : s.readAt k p n src = s := by
  have h1 : focus k ((focus k s).mapCore fun c => { c with health := c.health.touchN p n }) = s := State.touchStore_calm h p n
  simp only [State.readAt, h1, Health.lostIn_calm h.1, State.touched_calm h, focus_focus]
  simp

/-! ### Loads and stores -/

theorem loadValue_extended (n : Nat) (sg : Bool) (bs : List Byte) (h : 0 < n) : loadValue n sg bs = extended n sg bs := by
  cases sg with
  | false => rfl
  | true => exact sxtWord_signExtend _ _ (Nat.mul_pos (by decide) h)

theorem placeOf_local {s : State} {ea : Word} (h : ea.toNat < 2 ^ 60) : placeOf s ea = some (.loc ea.toNat) := by
  have h1 : bitsOf ea.toNat 60 4 = 0 := by rw [bitsOf, Nat.div_eq_of_lt h, Nat.zero_mod]
  have h2 : bitsOf ea.toNat 0 60 = ea.toNat := by rw [bitsOf, Nat.pow_zero, Nat.div_one, Nat.mod_eq_of_lt h]
  simp only [placeOf, h1, h2]

theorem queueing_local {s : State} {ea : Word} (h : ea.toNat < 2 ^ 60) : s.queueing ea = false := by
  simp [State.queueing, placeOf_local h]

/-- What a local load comes to where nothing stands against it. -/
theorem load_local {n len : Nat} {sg : Bool} {d : SReg} {ea : Word} {s : State} (hn : 0 < n) (hc : s.core.calm)
    (h : localReady s ea n false) :
    load n sg d ea len s
      = .done (s.ws d (extended n sg ((List.range n).map fun j => s.core.scratch.read (s.core.span.1 + ea.toNat + j)))) := by
  obtain ⟨h1, h2, h3, h4, h5⟩ := h
  have hh := State.touchStore_calm (k := 0) hc (s.core.span.1 + ea.toNat) n
  simp only [load, placeOf_local h1, h2, h4, queueing_local h1, loadLocal, State.localAt, h3, Health.lostIn_calm hc.1, loaded]
  simp [hh, State.touched_calm hc, loadValue_extended n sg _ hn, Core.readScratch, Mem.readN, h5]

/-- What a local store comes to where nothing stands against it. -/
theorem store_local {n : Nat} {v ea : Word} {s : State} (hc : s.core.calm) (h : localReady s ea n true) :
    store n v ea s
      = .done (s.mapCore fun c => { c with scratch := c.scratch.writeN (s.core.span.1 + ea.toNat) (leBytes n v.toNat) }) := by
  obtain ⟨h1, h2, h3, h4, h5⟩ := h
  have hw : ∀ p, (s.mapCore fun c => c.writeScratch p (leBytes n v.toNat))
      = s.mapCore fun c => { c with scratch := c.scratch.writeN p (leBytes n v.toNat) } := fun p => by
    simp [State.mapCore, Core.writeScratch, Health.wrote_calm hc.1]
  have ht : ∀ (p : Nat) (t : Touch), (s.mapCore fun c => { c with scratch := c.scratch.writeN p (leBytes n v.toNat) }).touched t
      = s.mapCore fun c => { c with scratch := c.scratch.writeN p (leBytes n v.toNat) } := fun p t =>
    State.touched_calm (s := s.mapCore fun c => { c with scratch := c.scratch.writeN p (leBytes n v.toNat) }) hc t
  simp only [store, placeOf_local h1, h2, storeLocal, State.localAt, h3, hw, ht]
  simp [h5]

/-- The bytes of a word written. -/
theorem Holds_writeN {m : Mem} (h : m.wf = true) (p n : Nat) (w : Word) : Holds (m.writeN p (leBytes n w.toNat)) m p n w := by
  intro q
  rw [Mem.read_writeN _ _ _ h, leBytes_length]
  split
  · rename_i hq
    rw [leBytes_word]
    have : q - p < n := by omega
    simp [List.getD, this]
  · rfl

/-! ### The state as an instruction finds it -/

theorem noted_calm {s : State} (h : s.core.calm) (hg : s.core.ganged = false) : s.noted.core.calm := by
  rw [State.noted_alone hg]; exact h

theorem noted_localReady {s : State} {ea : Word} {n : Nat} {w : Bool} (h : localReady s ea n w) (hg : s.core.ganged = false) :
    localReady s.noted ea n w := by
  rw [State.noted_alone hg]; exact h

end Sys2Proof.Machine
end

