-- ==== Sys2Proof/Tests/Slice0.lean ====
section
/-!
SUPPORT. Tests of the model, and a witness for the hypotheses of every statement. The words of the decode tests are those the spec writes out, or are put together here
from its encoding tables.
-/
namespace Sys2Proof.Tests

set_option Elab.async false

open Sys2Proof Sys2Proof.Machine

/-! ### Small states -/

/-- No guard and no literal. -/
def h0 : Hdr := { g := always, lit := none }

/-- An extended instruction with every field 0. -/
def x0 : XOp := { h := h0, mask := 0, rm := 0, ty := 0, x := false, aw := 0, l := 0, wait := 0, sat := false, hist := 0, c := 0, b := 0, a := 0, d := 0, w2 := 0 }

/-- The program counter of the small states. -/
def pc0 : Word := 0x1000000000000000

/-- A task activation on the task scratch area. -/
def act0 : Activation := newActivation (.task (hostRecord pc0)) 0 0 0x3C000 0x4000 1 0

/-- A core that runs a task, in a package that is up. -/
def runs : State :=
  { State.reset with
    core := { regs := { pc := pc0 }, act := some act0 }
    grove := { on := true }
    pkg := { started := true, ready := true } }

/-- The task with its registers changed. -/
def runsWith (f : Regs → Regs) : State := runs.mapRegs f

theorem issues_runs : Issues always 0 runs := ⟨rfl, rfl, rfl, fun _ => rfl, rfl⟩
theorem ready_runs (n : Nat) : Ready always 0 n runs := ⟨issues_runs, rfl⟩

/-! ### Witnesses: scalar instructions -/

theorem wit_ScalarIntegerResults : ∃ i g d f s, aluRow i = some (g, d, f) ∧ i.wf = true ∧ Ready g 0 i.bytes s :=
  ⟨.add { h := h0, d := 3, a := 1, b := 2 }, _, _, _, runs, rfl, by decide, ready_runs _⟩

theorem wit_RegisterZeroDiscardsWrites : ∃ i g f s, aluRow i = some (g, 0, f) ∧ i.wf = true ∧ Ready g 0 i.bytes s :=
  ⟨.add { h := h0, d := 0, a := 1, b := 2 }, _, _, runs, rfl, by decide, ready_runs _⟩

theorem wit_CompareAndPredicateResults_1 : ∃ i g pd pe f s, predRow i = some (g, pd, pe, f) ∧ i.wf = true ∧ Ready g 0 i.bytes s :=
  ⟨.cmp { h := h0, cond := 0, pd := 1, pe := 2, a := 1, b := 2 }, _, _, _, _, runs, rfl, by decide, ready_runs _⟩

theorem wit_CompareAndPredicateResults_2 : ∃ (x : PmF) (s : State), (Instr.pput x).wf = true ∧ Ready x.h.g 0 (Instr.pput x).bytes s :=
  ⟨{ h := h0, d := 1 }, runs, by decide, ready_runs _⟩

theorem wit_ScalarFloatResults_1 : ∃ i x f op s, roundRow i = some (x, f, op) ∧ i.wf = true ∧ Ready x.h.g 0 i.bytes s :=
  ⟨.faddF32 { h := h0, rm := 0, d := 3, a := 1, b := 2 }, _, _, _, runs, rfl, by decide, ready_runs _⟩

theorem wit_ScalarFloatResults_2 : ∃ i x f s, pickRow i = some (x, f) ∧ i.wf = true ∧ Ready x.h.g 0 i.bytes s :=
  ⟨.fminF32 { h := h0, d := 3, a := 1, b := 2 }, _, _, runs, rfl, by decide, ready_runs _⟩

theorem wit_ScalarFloatResults_3 : ∃ (x : CvF) (s : State), (Instr.fcvt x).wf = true ∧ Ready x.h.g 0 (Instr.fcvt x).bytes s :=
  ⟨{ h := h0, rm := 0, sat := false, dst := 4, src := 0, d := 3, a := 1 }, runs, by decide, ready_runs _⟩

/-! ### Witnesses: issue checks, traps, system instructions -/

theorem wit_IssueChecks_1 : ∃ (i : Instr) (g : Guard) (s : State), guardField i = some g ∧ i.wf = true ∧ forbidden i = false ∧ withinJoint i s = true ∧ s.core.ganged = false ∧ s.core.mgmt = false
    ∧ s.core.regs.guard g = false ∧ runsOff s.core i.bytes = false :=
  ⟨.add { h := { g := { neg := false, p := 1 }, lit := none }, d := 3, a := 1, b := 2 }, _, runs, rfl, by decide, rfl, rfl, rfl, rfl, by decide, rfl⟩

theorem wit_IssueChecks_2 : ∃ (i : Instr) (s : State), ((guardField i).isSome ∧ i.wf = false ∨ ∃ w, i = .illegalEncoding w) ∧ s.core.ganged = false :=
  ⟨.cmp { h := h0, cond := 15, pd := 1, pe := 2, a := 1, b := 2 }, runs, .inl ⟨rfl, by decide⟩, rfl⟩

theorem wit_IssueChecks_2b : ∃ (i : Instr) (s : State), ((guardField i).isSome ∧ i.wf = false ∨ ∃ w, i = .illegalEncoding w) ∧ s.core.ganged = false :=
  ⟨.illegalEncoding 0, runs, .inr ⟨0, rfl⟩, rfl⟩

theorem wit_IssueChecks_forbidden : ∀ i ∈ [Instr.putc { h := h0, idx := 0x010, d := 3 }, .crset { x0 with a := 9 }], i.wf = true ∧ forbidden i = true
    ∧ ∃ s : State, s.core.ganged = false ∧ s.core.mgmt = false := fun i hi => by
  have h : i.wf = true ∧ forbidden i = true := by revert i; decide
  exact ⟨h.1, h.2, runs, rfl, rfl⟩

/-- A command of the V queue that will write s3. -/
def cmd0 : Cmd := { ({ q := .v, cls := 5, sub := 7, x := x0 } : Req).cmd runs with dst := [3] }

/-- The task while s3 awaits a command's result. -/
def awaits3 : State := runs.mapCore fun c => { c with cmds := [cmd0] }

theorem wit_IssueChecks_3 : ∃ (i : Instr) (x : A3) (s : State), threeRegs i = some x ∧ i.wf = true ∧ s.core.ganged = false ∧ s.core.regs.guard x.h.g = true
    ∧ s.core.pending [x.d, x.a, x.b] = true :=
  ⟨.add { h := h0, d := 4, a := 3, b := 2 }, _, awaits3, rfl, by decide, rfl, rfl, by decide⟩

/-- A core that runs an instruction of the management path. -/
def managed : State := runs.mapCore fun c => { c with mgmt := true }

theorem wit_TrapsSaveOrReport_1 : ∃ s : State, s.core.mgmt = false := ⟨runs, rfl⟩
theorem wit_TrapsSaveOrReport_2 : ∃ s : State, s.core.mgmt = true := ⟨managed, rfl⟩

/-- A launch's header with one field of two bits and the policy given. -/
def hdrPol (p : Nat) : Header := { headerOf (List.replicate 256 0) with n := 1, w := [2, 0, 0, 0, 0, 0], cnt := [4, 0, 0, 0, 0, 0], pol := [p, 0, 0, 0, 0, 0], retrySafe := true, units := 2, ringK := 10 }

/-- A launch in slot 1. -/
def launch1 (h : Header) : Launch := newLaunch 1 7 h [] [] false 0 0 0 0 none

/-- The task as one of launch 1, whose policy is given. -/
def ofLaunch (h : Header) : State :=
  { runs.mapCore (fun c => { c with act := some { act0 with slot := 1 }, tenant := 7, launchSlot := 1 }) with pkg := { runs.pkg with launches := [launch1 h] } }

theorem wit_Containment_0 : ∃ (a : Activation) (l : Launch) (s : State), s.core.act = some a ∧ s.pkg.launch a.slot = some l ∧ 1 ≤ l.hdr.n ∧ ownPolicy l = 0 :=
  ⟨_, _, ofLaunch (hdrPol 0), rfl, rfl, by decide⟩
theorem wit_Containment_1 : ∃ (a : Activation) (l : Launch) (s : State), s.core.act = some a ∧ s.pkg.launch a.slot = some l ∧ 1 ≤ l.hdr.n ∧ ownPolicy l = 1 ∧ retrySafe a l.hdr = true ∧ s.core.kills = [] :=
  ⟨_, _, ofLaunch (hdrPol 1), rfl, rfl, by decide, by decide, by decide, rfl⟩
theorem wit_Containment_1_killed : ∃ (a : Activation) (l : Launch) (s : State), s.core.act = some a ∧ s.pkg.launch a.slot = some l ∧ 1 ≤ l.hdr.n ∧ ownPolicy l = 1
    ∧ retrySafe a l.hdr = true ∧ s.core.kills ≠ [] :=
  ⟨_, _, (ofLaunch (hdrPol 1)).mapCore fun c => { c with kills := [{ slot := 1, wid := 0, low := 64 }] }, rfl, rfl, by decide, by decide, by decide, nofun⟩
theorem wit_Containment_2 : ∃ (a : Activation) (l : Launch) (s : State), s.core.act = some a ∧ s.pkg.launch a.slot = some l ∧ 1 ≤ l.hdr.n ∧ ownPolicy l = 2 :=
  ⟨_, _, ofLaunch (hdrPol 2), rfl, rfl, by decide⟩
theorem wit_Containment_3 : ∃ (a : Activation) (l : Launch) (s : State), s.core.act = some a ∧ s.pkg.launch a.slot = some l ∧ 1 ≤ l.hdr.n ∧ ∀ k < l.hdr.n, l.hdr.pol.getD k 0 = 3 :=
  ⟨_, _, ofLaunch (hdrPol 3), rfl, rfl, by decide⟩

/-- The task after a trap of a cause was reported. -/
def reported (c : Cause) : State := runs.mapCore fun k => { k with deferred := [{ cause := c, tval := 5, q := none, at_ := 0 }] }
theorem wit_DeferredTrapIsTaken (macc : Bool) : ∃ s : State, s.core.ganged = false ∧ s.core.act.isSome = true ∧ s.core.deferred.any (fun d => !d.mgmt) = true ∧ s.core.stopped = false
    ∧ s.core.halted = false ∧ s.core.await = none ∧ (if macc then ∀ k ∈ s.core.cmds, k.cls = 8 → k.sub = 3 ∨ k.sub = 7 → k.aid ≠ s.core.regs.aid else ∀ d ∈ s.core.deferred, d.cause ≠ .macc) := by
  cases macc
  · exact ⟨reported .wnack, rfl, rfl, rfl, rfl, rfl, rfl, by decide⟩
  · exact ⟨reported .macc, rfl, rfl, rfl, rfl, rfl, rfl, by decide⟩

theorem wit_SystemInstructions_trap : ∃ (x : SysI) (s : State), (Instr.trap x).wf = true ∧ Issues x.h.g 0 s :=
  ⟨{ h := h0, imm := 9 }, runs, by decide, issues_runs⟩
theorem wit_SystemInstructions_nop : ∃ (x : SysF) (s : State), (Instr.nop x).wf = true ∧ Ready x.h.g 0 (Instr.nop x).bytes s :=
  ⟨{ h := h0 }, runs, by decide, ready_runs _⟩
theorem wit_SystemInstructions_pause : ∃ (x : SysI) (s : State), (Instr.pause x).wf = true ∧ Ready x.h.g 0 (Instr.pause x).bytes s :=
  ⟨{ h := h0, imm := 9 }, runs, by decide, ready_runs _⟩
theorem wit_SystemInstructions_fencei : ∃ (x : SysN) (s : State), Ready Guard.none 0 (Instr.fencei x).bytes s ∧ s.core.posts true = 0 ∧ s.core.posts false = 0 :=
  ⟨{ lit := none }, runs, ready_runs _, rfl, rfl⟩
theorem wit_SystemInstructions_fenceiHolds : ∃ s : State, Issues Guard.none 0 s ∧ s.core.posts true + s.core.posts false ≠ 0 :=
  ⟨runs.mapCore fun c => { c with posted := [{ id := 0, near := false, n := 1, addr := 0x1000000000000100, pa := 0x100, kind := .store [], stage := .inFlight, q := none, ser := 0 }] },
    ⟨rfl, rfl, rfl, fun _ => rfl, rfl⟩, by decide⟩
theorem wit_SystemInstructions_paused : ∃ (n : Nat) (s : State), s.core.ganged = false ∧ s.core.mgmt = false ∧ s.core.mgmtWord = none ∧ s.core.stopped = false
    ∧ s.core.halted = false ∧ s.core.toEvict = none ∧ s.core.act.isSome = true ∧ s.core.await = none ∧ s.core.arrived = false ∧ boundary s = none ∧ s.core.pause = n + 1 :=
  ⟨8, runs.mapCore fun c => { c with pause := 9 }, rfl, rfl, rfl, rfl, rfl, rfl, rfl, rfl, rfl, rfl, rfl⟩
theorem wit_SystemInstructions_brk : ∃ (x : SysI) (s : State), (Instr.brk x).wf = true ∧ Ready x.h.g 0 (Instr.brk x).bytes s ∧ s.core.dbg.ctl.getLsbD 2 = false :=
  ⟨{ h := h0, imm := 9 }, runs, by decide, ready_runs _, rfl⟩
theorem wit_SystemInstructions_eret : ∃ s : State, s.core.ganged = false ∧ s.core.mgmt = true ∧ (∀ rs, s.core.pending rs = false) ∧ s.core.await = none :=
  ⟨managed, rfl, rfl, fun _ => rfl, rfl⟩
theorem wit_SystemInstructions_eretTraps : ∃ s : State, Issues Guard.none 0 s := ⟨runs, issues_runs⟩

/-- The task with breakpoint halts enabled. -/
def halts : State := runs.mapCore fun c => { c with dbg := { c.dbg with ctl := 4 } }

theorem wit_BreakpointInstructionHalts : ∃ (x : SysI) (s : State), (Instr.brk x).wf = true ∧ Issues x.h.g 0 s ∧ s.core.dbg.ctl.getLsbD 2 = true
    ∧ s.core.dbg.pass = false ∧ s.core.dbg.stop = none :=
  ⟨{ h := h0, imm := 9 }, halts, by decide, ⟨rfl, rfl, rfl, fun _ => rfl, rfl⟩, by decide, rfl, rfl⟩

/-- GETC or PUTC of an index. -/
def cr (i : Nat) : CrF := { h := h0, idx := Fin.ofNat 4096 i, d := 3 }

theorem wit_ControlRegisters_getc : ∀ i ∈ [0x000, 0x003, 0x010, 0x012, 0x020, 0x024, 0x025, 0x030, 0x032, 0x040, 0x050, 0x05F, 0x060, 0x070, 0x077],
    (Instr.getc (cr i)).wf = true ∧ ∃ s, Ready (cr i).h.g 0 (Instr.getc (cr i)).bytes s := fun i hi => by
  refine ⟨?_, runs, ready_runs _⟩
  revert i; decide
theorem wit_ControlRegisters_putc : ∀ i ∈ [0x000, 0x003, 0x021, 0x030, 0x032, 0x040, 0x050, 0x05F, 0x060],
    (Instr.putc (cr i)).wf = true ∧ ∃ s, Ready (cr i).h.g 0 (Instr.putc (cr i)).bytes s := fun i hi => by
  refine ⟨?_, runs, ready_runs _⟩
  revert i; decide
theorem wit_ControlRegisters_reserved : ∃ s, Ready (cr 0).h.g 0 (Instr.putc (cr 0)).bytes s ∧ 6 ≤ (s.core.regs.rs 3).toNat % 8 :=
  ⟨runsWith fun r => r.ws 3 7, ⟨⟨rfl, rfl, rfl, fun _ => rfl, rfl⟩, rfl⟩, by decide⟩
theorem wit_SystemInstructions_putcTraps : ∀ i ∈ [0x010, 0x012, 0x020, 0x022, 0x025, 0x070, 0x077],
    (Instr.putc (cr i)).wf = true ∧ ∃ s, Issues (cr i).h.g 0 s := fun i hi => by
  refine ⟨?_, runs, issues_runs⟩
  revert i; decide

/-! ### Witnesses: loads and stores -/

/-- A load or store of s3 at s9. -/
def m9 : MemF := { g := always, wait := 0, off := 0, a := 9, d := 3 }

/-- The task with an address in s9, and 0xA1B2 in s3. -/
def at9 (a : Word) : State := runsWith fun r => (r.ws 9 a).ws 3 0xA1B2

/-- The same with page 0 of the interleaved view at physical address 0. -/
def mapped (a : Word) : State :=
  { at9 a with grove := { (at9 a).grove with tlb := [{ tenant := 0, vpage := 0, big := false, pbase := 0, w := true, x := true }] } }

/-- An actor with a window of 4 KiB on its region, all rights. -/
def actor5 : Actor :=
  { aid := 5, wid := 0, slot := 1, base := 0x1000, size := 0x2000, ringK := 10, windows := (Vector.replicate 8 0).set 0 0xF010000000000000 }

/-- The task beside a resident actor. -/
def besideActor (a : Word) : State :=
  let s := (at9 a).mapCore fun c => { c with actors := some actor5 :: List.replicate 15 none }
  { s with pkg := { s.pkg with dir := [{ aid := 5, wid := 0, slot := 1, at_ := .here, ringK := 10 }] } }

/-- An actor that stands on another grove. -/
def actorAway (a : Word) : State := { at9 a with pkg := { (at9 a).pkg with dir := [{ aid := 5, wid := 0, slot := 1, at_ := .away false, ringK := 10 }] } }

/-- An address in actor 5. -/
def in5 : Word := actorAddr 5 0x40

theorem ready_at9 (a : Word) (n : Nat) : Ready always 0 n (at9 a) := ⟨⟨rfl, rfl, rfl, fun _ => rfl, rfl⟩, rfl⟩
theorem ready_mapped (a : Word) (n : Nat) : Ready always 0 n (mapped a) := ⟨⟨rfl, rfl, rfl, fun _ => rfl, rfl⟩, rfl⟩
theorem ready_beside (a : Word) (n : Nat) : Ready always 0 n (besideActor a) := ⟨⟨rfl, rfl, rfl, fun _ => rfl, rfl⟩, rfl⟩
theorem ready_away (a : Word) (n : Nat) : Ready always 0 n (actorAway a) := ⟨⟨rfl, rfl, rfl, fun _ => rfl, rfl⟩, rfl⟩

theorem wit_LocalLoadResults : ∃ (i : Instr) (g : Guard) (w n : Nat) (sg : Bool) (d : SReg) (ea : Regs → Word) (s : State),
    loadRow i = some (g, w, n, sg, d, ea) ∧ i.wf = true ∧ Ready g w i.bytes s ∧ s.core.calm ∧ localReady s (ea s.core.regs) n false :=
  ⟨.ldd m9, _, _, _, _, _, _, at9 0x3FF8, rfl, by decide, ready_at9 _ _, ⟨rfl, by decide⟩, ⟨by decide, by decide⟩⟩

theorem wit_LoadsBeyondLocal_1 : ∃ (i : Instr) (g : Guard) (w n : Nat) (sg : Bool) (d : SReg) (ea : Regs → Word) (s u : State) (pl : Place) (pa : Nat),
    loadRow i = some (g, w, n, sg, d, ea) ∧ i.wf = true ∧ Ready g w i.bytes s ∧ (ea s.core.regs).toNat % n = 0 ∧ s.overtakes (ea s.core.regs) n = false
      ∧ s.core.posted = [] ∧ s.pkg.badUnits = [] ∧ placeOf s (ea s.core.regs) = some pl
      ∧ ((∃ va, pl = .inter va ∧ s.translate .read va = some (pa, u)) ∨ (pl = .linear pa ∧ u = s)) :=
  ⟨.ldd m9, _, _, _, _, _, _, mapped 0x1000000000000100, _, _, _, rfl, by decide, ready_mapped _ _, by decide, by decide, rfl, rfl, rfl, .inl ⟨_, rfl, rfl⟩⟩

theorem wit_LoadsBeyondLocal_1b : ∃ (i : Instr) (g : Guard) (w n : Nat) (sg : Bool) (d : SReg) (ea : Regs → Word) (s u : State) (pl : Place) (pa : Nat),
    loadRow i = some (g, w, n, sg, d, ea) ∧ i.wf = true ∧ Ready g w i.bytes s ∧ (ea s.core.regs).toNat % n = 0 ∧ s.overtakes (ea s.core.regs) n = false
      ∧ s.core.posted = [] ∧ s.pkg.badUnits = [] ∧ placeOf s (ea s.core.regs) = some pl
      ∧ ((∃ va, pl = .inter va ∧ s.translate .read va = some (pa, u)) ∨ (pl = .linear pa ∧ u = s)) :=
  ⟨.ldd m9, _, _, _, _, _, _, at9 0x2000000000BFFFF8, _, _, _, rfl, by decide, ready_at9 _ _, by decide, by decide, rfl, rfl, rfl, .inr ⟨rfl, rfl⟩⟩

theorem wit_LoadsBeyondLocal_2 : ∃ (i : Instr) (g : Guard) (w n : Nat) (sg : Bool) (d : SReg) (ea : Regs → Word) (s : State) (pk : Option Nat) (aid : BitVec 24) (off : Nat),
    (loadRow i = some (g, w, n, sg, d, ea) ∧ i.wf = true ∧ Ready g w i.bytes s ∧ (ea s.core.regs).toNat % n = 0 ∧ s.overtakes (ea s.core.regs) n = false
      ∧ s.core.posted = [] ∧ s.queueing (ea s.core.regs) = false ∧ placeOf s (ea s.core.regs) = some (.actor pk aid off))
      ∧ s.reach pk aid off n .load = .at_ 0 0x1040 ∧ (focus 0 s).core.calm :=
  ⟨.ldd m9, _, _, _, _, _, _, besideActor in5, _, _, _, ⟨rfl, by decide, ready_beside _ _, by decide, by decide, rfl, by decide +kernel, rfl⟩, by decide +kernel, ⟨rfl, by decide⟩⟩

theorem wit_LoadsBeyondLocal_2b : ∃ (i : Instr) (g : Guard) (w n : Nat) (sg : Bool) (d : SReg) (ea : Regs → Word) (s : State) (pk : Option Nat) (aid : BitVec 24) (off : Nat) (near : Bool),
    (loadRow i = some (g, w, n, sg, d, ea) ∧ i.wf = true ∧ Ready g w i.bytes s ∧ (ea s.core.regs).toNat % n = 0 ∧ s.overtakes (ea s.core.regs) n = false
      ∧ s.core.posted = [] ∧ s.queueing (ea s.core.regs) = false ∧ placeOf s (ea s.core.regs) = some (.actor pk aid off)) ∧ s.reach pk aid off n .load = .away near
      ∧ s.addrHeld (ea s.core.regs) = false :=
  ⟨.ldd m9, _, _, _, _, _, _, actorAway in5, _, _, _, false, ⟨rfl, by decide, ready_away _ _, by decide, by decide, rfl, by decide +kernel, rfl⟩, by decide +kernel, by decide +kernel⟩

/-- A load that waits for its answer. -/
def waitsFor5 : State := (actorAway in5).mapCore fun c => { c with await := some { kind := .load 8 true 3, addr := in5, len := 4 } }

theorem wit_LoadsBeyondLocal_3 : ∃ (n : Nat) (sg : Bool) (d : SReg) (a : Word) (len : Nat) (near : Bool) (pk : Option Nat) (aid : BitVec 24) (off : Nat) (s : State) (v : Word),
    s.core.ganged = false ∧ s.core.mgmt = false ∧ s.core.await = some { kind := .load n sg d, addr := a, len := len } ∧ placeOf s a = some (.actor pk aid off)
      ∧ s.place pk aid = .away near ∧ runsOff s.core len = false ∧ v.toNat < 256 ^ n :=
  ⟨8, true, 3, in5, 4, false, none, 5, 0x40, waitsFor5, 0xFFFFFFFFFFFFFFFF, rfl, rfl, rfl, by decide +kernel, by decide +kernel, rfl, by decide⟩

theorem wit_StoreResults_1 : ∃ (i : Instr) (g : Guard) (w n : Nat) (d : SReg) (ea : Regs → Word) (s : State),
    storeRow i = some (g, w, n, d, ea) ∧ i.wf = true ∧ Ready g w i.bytes s ∧ s.core.calm ∧ s.core.scratch.wf = true ∧ localReady s (ea s.core.regs) n true :=
  ⟨.std m9, _, _, _, _, _, at9 0x3FF8, rfl, by decide, ready_at9 _ _, ⟨rfl, by decide⟩, rfl, ⟨by decide, by decide⟩⟩

theorem wit_StoreResults_2 : ∃ (i : Instr) (g : Guard) (w n : Nat) (d : SReg) (ea : Regs → Word) (s u : State) (pl : Place) (pa : Nat),
    storeRow i = some (g, w, n, d, ea) ∧ i.wf = true ∧ Ready g w i.bytes s ∧ (ea s.core.regs).toNat % n = 0 ∧ placeOf s (ea s.core.regs) = some pl
      ∧ (∃ va, pl = .inter va ∧ s.translate .write va = some (pa, u)) :=
  ⟨.std m9, _, _, _, _, _, mapped 0x100000000000FFF8, _, _, _, rfl, by decide, ready_mapped _ _, by decide, rfl, ⟨_, rfl, rfl⟩⟩

theorem wit_StoreResults_2b : ∃ (i : Instr) (g : Guard) (w n : Nat) (d : SReg) (ea : Regs → Word) (s u : State) (pl : Place) (pa : Nat),
    storeRow i = some (g, w, n, d, ea) ∧ i.wf = true ∧ Ready g w i.bytes s ∧ (ea s.core.regs).toNat % n = 0 ∧ placeOf s (ea s.core.regs) = some pl ∧ (pl = .linear pa ∧ u = s) :=
  ⟨.std m9, _, _, _, _, _, at9 0x2000000000BFFFF8, _, _, _, rfl, by decide, ready_at9 _ _, by decide, rfl, rfl, rfl⟩

theorem wit_StoreResults_2c : ∃ (i : Instr) (g : Guard) (w n : Nat) (d : SReg) (ea : Regs → Word) (s u : State) (pl : Place) (pa : Nat),
    storeRow i = some (g, w, n, d, ea) ∧ i.wf = true ∧ Ready g w i.bytes s ∧ (ea s.core.regs).toNat % n = 0 ∧ placeOf s (ea s.core.regs) = some pl
      ∧ ((∃ pk aid off, pl = .actor pk aid off) ∧ pa = 0 ∧ u = s) :=
  ⟨.std m9, _, _, _, _, _, besideActor in5, _, _, _, rfl, by decide, ready_beside _ _, by decide, rfl, ⟨_, _, _, rfl⟩, rfl, rfl⟩

/-- A store of the bytes of 0xA1B2 to device memory on its way. -/
def post7 : Posted := postedStore (mapped 0) false 0x1000000000000100 0x1000000000000100 0x100 8 0xA1B2

/-- The task with a posted access. -/
def posts (p : Posted) (s : State) : State := s.mapCore fun c => { c with posted := [p], postId := 1 }

theorem wit_StoreResults_3 : ∃ (p : Posted) (n : Nat) (w : Word) (s : State), s.core.posted.find? (fun x => x.id == p.id) = some p ∧ mayArrive s p = true
    ∧ p.kind = .store ((List.range n).map fun j => byteOf w j) ∧ ((∃ va, placeOf s p.addr = some (.inter va)) ∨ placeOf s p.addr = some (.linear p.pa)) ∧ s.pkg.dmem.wf = true :=
  ⟨post7, 8, 0xA1B2, posts post7 (mapped 0), rfl, by decide +kernel, rfl, .inl ⟨_, rfl⟩, rfl⟩

theorem wit_StoreResults_4 : ∃ (p : Posted) (f : Flags) (s : State), s.core.posted.find? (fun x => x.id == p.id) = some p ∧ p.stage = .performed f :=
  ⟨{ post7 with stage := .performed {} }, {}, posts { post7 with stage := .performed {} } (mapped 0), rfl, rfl⟩

theorem wit_AccessFaults_aspace : ∃ (i : Instr) (g : Guard) (w n : Nat) (ea : Regs → Word) (s : State),
    ((∃ sg d, loadRow i = some (g, w, n, sg, d, ea)) ∨ ∃ d, storeRow i = some (g, w, n, d, ea)) ∧ i.wf = true ∧ Issues g w s ∧ placeOf s (ea s.core.regs) = none :=
  ⟨.ldd m9, _, _, _, _, at9 0x3000000000000000, .inl ⟨_, _, rfl⟩, by decide, (ready_at9 _ 4).toIssues, rfl⟩

theorem wit_AccessFaults_align : ∃ (i : Instr) (g : Guard) (w n : Nat) (ea : Regs → Word) (s : State),
    ((∃ sg d, loadRow i = some (g, w, n, sg, d, ea)) ∨ ∃ d, storeRow i = some (g, w, n, d, ea)) ∧ i.wf = true ∧ Issues g w s
      ∧ (placeOf s (ea s.core.regs)).isSome ∧ (ea s.core.regs).toNat % n ≠ 0 :=
  ⟨.sth m9, _, _, _, _, at9 0x3FFF, .inr ⟨_, rfl⟩, by decide, (ready_at9 _ 4).toIssues, by decide⟩

theorem wit_AccessFaults_lrange : ∃ (i : Instr) (g : Guard) (w n : Nat) (ea : Regs → Word) (s : State),
    ((∃ sg d, loadRow i = some (g, w, n, sg, d, ea)) ∨ ∃ d, storeRow i = some (g, w, n, d, ea)) ∧ i.wf = true ∧ Issues g w s
      ∧ (ea s.core.regs).toNat < 2 ^ 60 ∧ (ea s.core.regs).toNat % n = 0 ∧ s.core.span.2 < (ea s.core.regs).toNat + n ∧ s.overtakes (ea s.core.regs) n = false :=
  ⟨.stb m9, _, _, _, _, at9 0x4000, .inr ⟨_, rfl⟩, by decide, (ready_at9 _ 4).toIssues, by decide⟩

/-- The premises of a load's faults at its destination. -/
def loadAsks (i : Instr) (g : Guard) (w n : Nat) (sg : Bool) (d : SReg) (ea : Regs → Word) (s : State) : Prop :=
  loadRow i = some (g, w, n, sg, d, ea) ∧ i.wf = true ∧ Issues g w s ∧ (ea s.core.regs).toNat % n = 0 ∧ s.overtakes (ea s.core.regs) n = false
    ∧ s.queueing (ea s.core.regs) = false ∧ s.core.posted = []

theorem wit_AccessFaults_xfault : ∃ i g w n sg d ea s va, loadAsks i g w n sg d ea s ∧ placeOf s (ea s.core.regs) = some (.inter va) ∧ s.translate .read va = none ∧ s.tableLost va = false :=
  ⟨.ldd m9, _, _, _, _, _, _, at9 0x1000000000000100, 0x100, ⟨rfl, by decide, (ready_at9 _ 4).toIssues, by decide, by decide, by decide +kernel, rfl⟩, rfl, by decide +kernel⟩

theorem wit_AccessFaults_tableLost : ∃ i g w n sg d ea s va, loadAsks i g w n sg d ea s ∧ placeOf s (ea s.core.regs) = some (.inter va) ∧ s.translate .read va = none
    ∧ tlbFind s.grove.tlb s.core.tenant va = none ∧ s.tableLost va = true :=
  ⟨.ldd m9, _, _, _, _, _, _, { at9 0x1000000000000100 with pkg := { runs.pkg with badUnits := [0] } }, 0x100,
    ⟨rfl, by decide, ⟨rfl, rfl, rfl, fun _ => rfl, rfl⟩, by decide, by decide, by decide +kernel, rfl⟩, rfl, by decide +kernel⟩

theorem wit_AccessFaults_adead : ∃ i g w n sg d ea s pk aid off, loadAsks i g w n sg d ea s ∧ placeOf s (ea s.core.regs) = some (.actor pk aid off)
    ∧ s.reach pk aid off n .load = .no .adead :=
  ⟨.ldd m9, _, _, _, _, _, _, at9 in5, none, 5, 0x40, ⟨rfl, by decide, (ready_at9 _ 4).toIssues, by decide, by decide, by decide +kernel, rfl⟩, by decide +kernel⟩

theorem wit_AccessFaults_wnack : ∃ i g w n sg d ea s pk aid off, loadAsks i g w n sg d ea s ∧ placeOf s (ea s.core.regs) = some (.actor pk aid off)
    ∧ s.reach pk aid off n .load = .no .wnack :=
  ⟨.ldd m9, _, _, _, _, _, _, besideActor (actorAddr 5 0x1000), none, 5, 0x1000, ⟨rfl, by decide, (ready_beside _ 4).toIssues, by decide, by decide, by decide +kernel, rfl⟩,
    by decide +kernel, by decide +kernel⟩

/-- Device memory whose first units are lost. -/
def lostUnits (s : State) : State := { s with pkg := { s.pkg with badUnits := [8] } }

theorem wit_AccessFaults_memerr : ∃ i g w n sg d ea s va pa u, loadAsks i g w n sg d ea s ∧ placeOf s (ea s.core.regs) = some (.inter va)
    ∧ s.translate .read va = some (pa, u) ∧ s.pkg.memLost pa n = true :=
  ⟨.ldd m9, _, _, _, _, _, _, lostUnits (mapped 0x1000000000000100), 0x100, 0x100, _,
    ⟨rfl, by decide, ⟨rfl, rfl, rfl, fun _ => rfl, rfl⟩, by decide, by decide, by decide +kernel, rfl⟩, rfl, rfl, by decide⟩

theorem wit_AccessFaults_memerrLinear : ∃ i g w n sg d ea s pa, loadAsks i g w n sg d ea s ∧ placeOf s (ea s.core.regs) = some (.linear pa) ∧ s.pkg.memLost pa n = true :=
  ⟨.ldd m9, _, _, _, _, _, _, lostUnits (at9 0x2000000000000100), 0x100, ⟨rfl, by decide, ⟨rfl, rfl, rfl, fun _ => rfl, rfl⟩, by decide, by decide, by decide +kernel, rfl⟩, rfl, by decide⟩

/-- A scratchpad with three failing symbols in one codeword. -/
def lostBytes (s : State) : State := s.mapCore fun c => { c with health := { c.health with bad := codeword 0x3C000 |>.take 3 } }

theorem wit_AccessFaults_memerrLocal : ∃ i g w n sg d ea s, loadAsks i g w n sg d ea s ∧ localReady s (ea s.core.regs) n false
    ∧ s.core.health.lostIn (s.core.span.1 + (ea s.core.regs).toNat) n = true :=
  ⟨.ldd m9, _, _, _, _, _, _, lostBytes (at9 0), ⟨rfl, by decide, ⟨rfl, rfl, rfl, fun _ => rfl, rfl⟩, by decide, by decide, by decide +kernel, rfl⟩,
    ⟨by decide, by decide⟩, by decide +kernel⟩

theorem wit_AccessFaults_storeXfault : ∃ (i : Instr) (g : Guard) (w n : Nat) (d : SReg) (ea : Regs → Word) (s : State) (va : Nat),
    storeRow i = some (g, w, n, d, ea) ∧ i.wf = true ∧ Issues g w s ∧ (ea s.core.regs).toNat % n = 0 ∧ placeOf s (ea s.core.regs) = some (.inter va) ∧ s.translate .write va = none :=
  ⟨.std m9, _, _, _, _, _, at9 0x1000000000000100, 0x100, rfl, by decide, (ready_at9 _ 4).toIssues, by decide, rfl, by decide +kernel⟩

/-! ### Witnesses: branches, loops, tasks -/

/-- A branch four words back. -/
def back4 : BrF := { g := always, off := 0xFFFFC }

/-- The task at a program counter. -/
def atPc (pc : Word) : State := runsWith fun r => { r with pc := pc }

theorem issues_atPc (pc : Word) : Issues always 0 (atPc pc) := ⟨rfl, rfl, rfl, fun _ => rfl, rfl⟩

theorem wit_Branches_1 : ∃ (i : Instr) (g : Guard) (target : Regs → Word) (link : Regs → Regs) (s : State),
    branchRow i = some (g, target, link) ∧ i.wf = true ∧ Issues g 0 s ∧ targetFault s.core (target s.core.regs) = none :=
  ⟨.brl back4, _, _, _, atPc 0x1000000000000010, rfl, by decide, issues_atPc _, by decide⟩

theorem wit_Branches_ialign : ∃ (i : Instr) (g : Guard) (target : Regs → Word) (link : Regs → Regs) (s : State),
    branchRow i = some (g, target, link) ∧ i.wf = true ∧ Issues g 0 s ∧ s.core.regs.gangix = 0 ∧ (target s.core.regs).toNat % 4 ≠ 0 :=
  ⟨.jr { h := h0, d := 0, a := 9 }, _, _, _, at9 0x1000000000000002, rfl, by decide, (ready_at9 _ 4).toIssues, rfl, by decide⟩

/-- The task as one that runs carried code. -/
def carried : State := runs.mapCore fun c => { c with regs := { c.regs with pc := 0x1010 }, act := some { act0 with carried := some { lo := 0x1010, hi := 0x1040 } } }

theorem wit_Branches_ccode : ∃ (i : Instr) (g : Guard) (target : Regs → Word) (link : Regs → Regs) (s : State) (b : Range),
    branchRow i = some (g, target, link) ∧ i.wf = true ∧ Issues g 0 s ∧ s.core.regs.gangix = 0 ∧ (target s.core.regs).toNat % 4 = 0 ∧ s.core.block = some b
      ∧ ¬(b.lo ≤ (target s.core.regs).toNat ∧ (target s.core.regs).toNat < b.hi) :=
  ⟨.br back4, _, _, _, carried, _, rfl, by decide, ⟨rfl, rfl, rfl, fun _ => rfl, rfl⟩, rfl, by decide, rfl, by decide⟩

theorem wit_Branches_runsOff : ∃ (b : Range) (i : Instr) (g : Guard) (d : SReg) (f : Regs → Word) (s : State), s.core.block = some b ∧ aluRow i = some (g, d, f) ∧ i.wf = true ∧ Issues g 0 s
    ∧ b.hi ≤ (s.core.regs.pc + BitVec.ofNat 64 i.bytes).toNat :=
  ⟨_, .add { h := h0, d := 3, a := 4, b := 5 }, _, _, _, carried.mapRegs fun r => { r with pc := 0x103C }, rfl, rfl, by decide, ⟨rfl, rfl, rfl, fun _ => rfl, rfl⟩, by decide⟩
theorem wit_Branches_noFork : ∃ (b : Range) (s : State) (a : Activation), s.core.block = some b ∧ (Instr.fork { h := h0, a := 9, off := 8 }).wf = true ∧ (Instr.join { lit := none, a := 9, off := 8 }).wf = true
    ∧ (Instr.yield { h := h0 }).wf = true ∧ Issues always 0 s ∧ Issues Guard.none 0 s ∧ s.core.act = some a ∧ a.src = .message 5 0 :=
  ⟨_, carried.mapCore fun c => { c with act := some { act0 with src := .message 5 0, carried := some { lo := 0x1010, hi := 0x1040 } } }, _, rfl, by decide, by decide, by decide,
    ⟨rfl, rfl, rfl, fun _ => rfl, rfl⟩, ⟨rfl, rfl, rfl, fun _ => rfl, rfl⟩, rfl, rfl⟩

theorem wit_Branches_aspace : ∃ (i : Instr) (g : Guard) (target : Regs → Word) (link : Regs → Regs) (s : State),
    branchRow i = some (g, target, link) ∧ i.wf = true ∧ Issues g 0 s ∧ s.core.regs.gangix = 0 ∧ (target s.core.regs).toNat % 4 = 0 ∧ s.core.block = none
      ∧ (target s.core.regs).toNat / 2 ^ 48 ≠ 0x1000 :=
  ⟨.jr { h := h0, d := 0, a := 9 }, _, _, _, at9 0x1001000000000000, rfl, by decide, (ready_at9 _ 4).toIssues, rfl, by decide, rfl, by decide⟩

/-- A loop of eight words on lc1, its count in s9. -/
def lp : LpF := { lit := none, lc := 1, a := 9, off := 8 }

/-- A register file in which lc0 loops over a range. -/
def loops (start exit : Word) (cnt : BitVec 32) (r : Regs) : Regs := { r with lc := r.lc.set 0 { cnt := cnt, start := start, exit := exit, active := true, ord := 1 } }

theorem wit_Loops_start : ∃ (x : LpF) (s : State), (Instr.loop x).wf = true ∧ Issues Guard.none 0 s ∧ (∀ b, s.core.block = some b → (s.core.regs.pc + x.off.signExtend 64 * 4).toNat + 4 ≤ b.hi)
    ∧ (∀ k : Fin 4, s.core.regs.lc[k].active = true → s.core.regs.lc[k].start ≤ s.core.regs.pc → s.core.regs.pc < s.core.regs.lc[k].exit
        → ¬(s.core.regs.lc[k].exit < s.core.regs.pc + x.off.signExtend 64 * 4)) ∧ (s.core.regs.rs x.a).setWidth 32 ≠ 0 :=
  ⟨lp, (at9 3).mapRegs (loops pc0 (pc0 + 32) 4), by decide, ⟨rfl, rfl, rfl, fun _ => rfl, rfl⟩, nofun, by decide⟩

theorem wit_Loops_skip : ∃ (x : LpF) (s : State), (Instr.loop x).wf = true ∧ Issues Guard.none 0 s ∧ (∀ b, s.core.block = some b → (s.core.regs.pc + x.off.signExtend 64 * 4).toNat + 4 ≤ b.hi)
    ∧ (∀ k : Fin 4, s.core.regs.lc[k].active = true → s.core.regs.lc[k].start ≤ s.core.regs.pc → s.core.regs.pc < s.core.regs.lc[k].exit
        → ¬(s.core.regs.lc[k].exit < s.core.regs.pc + x.off.signExtend 64 * 4)) ∧ (s.core.regs.rs x.a).setWidth 32 = 0 :=
  ⟨lp, at9 0x100000000, by decide, (ready_at9 _ 4).toIssues, nofun, by decide⟩

theorem wit_Loops_ccode : ∃ (x : LpF) (s : State) (b : Range), (Instr.loop x).wf = true ∧ Issues Guard.none 0 s ∧ s.core.block = some b
    ∧ b.hi < (s.core.regs.pc + x.off.signExtend 64 * 4).toNat + 4 ∧ ∀ k : Fin 4, s.core.regs.lc[k].active = false :=
  ⟨lp, carried.mapRegs fun r => { r with pc := 0x1020 }, _, by decide, ⟨rfl, rfl, rfl, fun _ => rfl, rfl⟩, rfl, by decide, by decide⟩

theorem wit_Loops_nested : ∃ (x : LpF) (s : State), (Instr.loop x).wf = true ∧ Issues Guard.none 0 s ∧ (∀ b, s.core.block = some b → (s.core.regs.pc + x.off.signExtend 64 * 4).toNat + 4 ≤ b.hi)
    ∧ ¬(∀ k : Fin 4, s.core.regs.lc[k].active = true → s.core.regs.lc[k].start ≤ s.core.regs.pc → s.core.regs.pc < s.core.regs.lc[k].exit
        → ¬(s.core.regs.lc[k].exit < s.core.regs.pc + x.off.signExtend 64 * 4)) :=
  ⟨lp, (at9 3).mapRegs (loops pc0 (pc0 + 28) 4), by decide, ⟨rfl, rfl, rfl, fun _ => rfl, rfl⟩, nofun, by decide⟩

theorem wit_Loops_exit (n : BitVec 32) : ∃ (r : Regs) (len : Nat) (k : Fin 4), r.lc[k].active = true ∧ r.lc[k].exit = r.pc + BitVec.ofNat 64 len ∧ r.lc[k].cnt = n
    ∧ ∀ j : Fin 4, j ≠ k → r.lc[j].active = true → r.lc[j].exit = r.pc + BitVec.ofNat 64 len → r.lc[j].ord < r.lc[k].ord :=
  ⟨loops pc0 (pc0 + 4) n { pc := pc0 }, 4, 0, rfl, rfl, rfl, fun j hj ha => by
    match j, hj, ha with
    | 0, h, _ => exact absurd rfl h
    | 1, _, a => exact absurd a (by show ¬(false = true); decide)
    | 2, _, a => exact absurd a (by show ¬(false = true); decide)
    | 3, _, a => exact absurd a (by show ¬(false = true); decide)⟩

theorem wit_End_quiet : ∃ (x : SysF) (s : State), (Instr.endAct x).wf = true ∧ Issues x.h.g 0 s ∧ s.core.cmds = [] ∧ s.core.drained = true :=
  ⟨{ h := h0 }, runs, by decide, issues_runs, rfl, by decide⟩
theorem wit_End_holds : ∃ (x : SysF) (s : State), (Instr.endAct x).wf = true ∧ Issues x.h.g 0 s ∧ ¬(s.core.cmds = [] ∧ s.core.drained = true) :=
  ⟨{ h := h0 }, posts post7 runs, by decide, ⟨rfl, rfl, rfl, fun _ => rfl, rfl⟩, by decide⟩
theorem wit_Yield_task : ∃ (x : SysF) (s : State) (a : Activation) (r : TaskRec), (Instr.yield x).wf = true ∧ Issues x.h.g 0 s ∧ s.core.act = some a ∧ a.src = .task r
    ∧ s.recRoom ∧ s.core.cmds = [] ∧ s.core.drained = true :=
  ⟨{ h := h0 }, runs, _, _, by decide, issues_runs, rfl, rfl, .inl (by decide), rfl, by decide⟩
theorem wit_Yield_waits : ∃ (x : SysF) (s : State) (a : Activation) (r : TaskRec), (Instr.yield x).wf = true ∧ Issues x.h.g 0 s ∧ s.core.act = some a ∧ a.src = .task r
    ∧ s.recRoom ∧ a.carried = none ∧ ¬(s.core.cmds = [] ∧ s.core.drained = true) :=
  ⟨{ h := h0 }, posts post7 runs, _, _, by decide, ⟨rfl, rfl, rfl, fun _ => rfl, rfl⟩, rfl, rfl, .inl (by decide), rfl, by decide⟩
theorem wit_Yield_ends : ∃ (w : Await) (s : State), s.core.ganged = false ∧ s.core.await = some w ∧ w.kind = .ending ∧ s.core.cmds = [] ∧ s.core.drained = true :=
  ⟨{ kind := .ending, addr := 0, len := 4 }, runs.await .ending 0 4, rfl, rfl, rfl, rfl, by decide⟩

/-- The task as the activation of a message of actor 5. -/
def ofMessage : State := (besideActor 0).mapCore fun c =>
  { c with act := some (newActivation (.message 5 0) 1 0 0x1000 0x2000 1 0), regs := { c.regs with aid := 5 } }

theorem ready_ofMessage (n : Nat) : Ready always 0 n ofMessage := ⟨⟨rfl, rfl, rfl, fun _ => rfl, rfl⟩, rfl⟩

theorem wit_Yield_message : ∃ (x : SysF) (s : State) (a : Activation) (aid : BitVec 24) (off : Nat), (Instr.yield x).wf = true
    ∧ Ready x.h.g 0 (Instr.yield x).bytes s ∧ s.core.act = some a ∧ a.src = .message aid off ∧ a.carried = none :=
  ⟨{ h := h0 }, ofMessage, _, _, _, by decide, ready_ofMessage _, rfl, rfl, rfl⟩

/-- FORK with the join word in s9. -/
def fk : FkF := { h := h0, a := 9, off := 8 }

/-- What every clause of FORK asks. -/
def forkAsks (x : FkF) (s : State) (a : Activation) : Prop :=
  (Instr.fork x).wf = true ∧ Ready x.h.g 0 (Instr.fork x).bytes s ∧ s.core.act = some a ∧ a.carried = none

theorem wit_Fork_detached : ∃ x s a, forkAsks x s a ∧ s.recRoom ∧ s.core.regs.rs x.a = 0 :=
  ⟨fk, at9 0, _, ⟨by decide, ready_at9 _ _, rfl, rfl⟩, .inl (by decide), rfl⟩
theorem wit_Fork_joined : ∃ (x : FkF) (s : State) (a : Activation) (pl : Place) (pa : Nat) (u : State) (va : Nat), forkAsks x s a ∧ s.recRoom ∧ s.core.regs.rs x.a ≠ 0 ∧ joinWordOk (s.core.regs.rs x.a)
    ∧ placeOf s (s.core.regs.rs x.a) = some (.inter va) ∧ pl = .inter va ∧ s.translate .write va = some (pa, u) :=
  ⟨fk, mapped 0x1000000000000100, _, _, _, _, _, ⟨by decide, ready_mapped _ _, rfl, rfl⟩, .inl (by decide), by decide, ⟨by decide, by decide⟩, rfl, rfl, rfl⟩
theorem wit_Fork_jaddr : ∃ x s a, forkAsks x s a ∧ s.core.regs.rs x.a ≠ 0 ∧ ¬joinWordOk (s.core.regs.rs x.a) :=
  ⟨fk, at9 0x2000000000000000, _, ⟨by decide, ready_at9 _ _, rfl, rfl⟩, by decide, fun h => absurd h.1 (by decide)⟩

/-- A grove whose deque 0 is full, and whose overflow ring has no room. -/
def fullDeque (s : State) : State := { s with grove := { s.grove with deques := s.grove.deques.set 0 (List.replicate 256 (.task (hostRecord pc0))) } }

theorem full_recRoom : ¬(fullDeque runs).recRoom := by
  unfold State.recRoom
  decide +kernel
theorem wit_Fork_dqfull (j : Word) (h : j = 0 ∨ joinWordOk j) : ∃ x s a, forkAsks x s a ∧ s.core.regs.rs x.a = j ∧ (j = 0 ∨ joinWordOk j) ∧ ¬s.recRoom :=
  ⟨fk, fullDeque (at9 j), _, ⟨by decide, ⟨⟨rfl, rfl, rfl, fun _ => rfl, rfl⟩, rfl⟩, rfl, rfl⟩, rfl, h, full_recRoom⟩
/-- A grove whose deque 0 is full, with room in the overflow ring. -/
theorem wit_Fork_overflow : ∃ x s a, forkAsks x s a ∧ s.core.regs.rs x.a = 0 ∧ ¬(s.grove.deques[s.core.ix].length < 256) ∧ s.recRoom :=
  ⟨fk, { fullDeque (at9 0) with grove := { (fullDeque (at9 0)).grove with overflowCap := 8 } }, _, ⟨by decide, ⟨⟨rfl, rfl, rfl, fun _ => rfl, rfl⟩, rfl⟩, rfl, rfl⟩, by decide,
    by decide +kernel, .inr (by decide)⟩
theorem wit_Yield_dqfull : ∃ (x : SysF) (s : State) (a : Activation) (r : TaskRec), (Instr.yield x).wf = true ∧ Issues x.h.g 0 s ∧ s.core.act = some a ∧ a.src = .task r
    ∧ ¬s.recRoom := ⟨{ h := h0 }, fullDeque runs, _, _, by decide, ⟨rfl, rfl, rfl, fun _ => rfl, rfl⟩, rfl, rfl, full_recRoom⟩
theorem wit_Fork_aspace : ∃ x s a, forkAsks x s a ∧ s.recRoom ∧ s.core.regs.rs x.a ≠ 0 ∧ joinWordOk (s.core.regs.rs x.a) ∧ placeOf s (s.core.regs.rs x.a) = none :=
  ⟨fk, at9 0x1001000000000000, _, ⟨by decide, ready_at9 _ _, rfl, rfl⟩, .inl (by decide), by decide, ⟨by decide, by decide⟩, rfl⟩
theorem wit_Fork_xfault : ∃ (x : FkF) (s : State) (a : Activation) (va : Nat), forkAsks x s a ∧ s.recRoom ∧ s.core.regs.rs x.a ≠ 0 ∧ joinWordOk (s.core.regs.rs x.a)
    ∧ placeOf s (s.core.regs.rs x.a) = some (.inter va) ∧ s.translate .write va = none ∧ s.tableLost va = false :=
  ⟨fk, at9 0x1000000000000100, _, 0x100, ⟨by decide, ready_at9 _ _, rfl, rfl⟩, .inl (by decide), by decide, ⟨by decide, by decide⟩, rfl, by decide +kernel, by decide +kernel⟩

/-- JOIN of the word that s9 names, eight words ahead. -/
def jn : JnF := { lit := none, a := 9, off := 8 }

theorem wit_Join_jaddr : ∃ (x : JnF) (s : State) (a : Activation) (j : Word), (Instr.join x).wf = true ∧ Issues Guard.none 0 s ∧ s.core.act = some a ∧ a.carried = none
    ∧ (x.a ≠ 0 → j = s.core.regs.rs x.a) ∧ (x.a = 0 → ∀ r, a.src = .task r → j = r.join) ∧ (x.a = 0 → (∃ aid off, a.src = .message aid off) → j = 0) ∧ ¬joinWordOk j :=
  ⟨jn, at9 0, _, 0, by decide, (ready_at9 _ 4).toIssues, rfl, rfl, fun _ => rfl, fun h => absurd h (by decide), fun h => absurd h (by decide), fun h => absurd h.1 (by decide)⟩

/-- What the clauses of JOIN ask of its word. -/
def joinAsks (x : JnF) (s : State) (a : Activation) (j : Word) : Prop :=
  (Instr.join x).wf = true ∧ Issues Guard.none 0 s ∧ s.core.act = some a ∧ a.carried = none ∧ (x.a ≠ 0 → j = s.core.regs.rs x.a)
    ∧ (x.a = 0 → ∀ r, a.src = .task r → j = r.join) ∧ (x.a = 0 → (∃ aid off, a.src = .message aid off) → j = 0) ∧ joinWordOk j
theorem wit_Join_holds : ∃ x s a j, joinAsks x s a j ∧ s.core.drained = false :=
  ⟨jn, posts post7 (at9 0x1000000000000100), _, 0x1000000000000100, ⟨by decide, ⟨rfl, rfl, rfl, fun _ => rfl, rfl⟩, rfl, rfl, fun _ => rfl, fun h => absurd h (by decide), fun h => absurd h (by decide),
    by decide, by decide⟩, by decide⟩
/-- The task beside an actor in whose window stands a join word. -/
def joinBeside (v : Byte) : State := (besideActor in5).mapCore fun c => { c with scratch := [(0x1040, v)] }
theorem wit_Join_actor (v : Byte) (h : v = 1 ∨ v = 7) : ∃ (x : JnF) (s : State) (a : Activation) (j : Word) (pk : Option Nat) (aid : BitVec 24) (off k p : Nat), joinAsks x s a j ∧ s.core.posted = []
    ∧ s.core.cmds = [] ∧ placeOf s j = some (.actor pk aid off) ∧ s.queueing j = false ∧ s.reach pk aid off 8 .atomic = .at_ k p ∧ (focus k s).core.calm ∧ (focus k s).core.scratch.wf = true
    ∧ (focus k s).core.word p = v.setWidth 64 :=
  ⟨jn, joinBeside v, _, in5, none, 5, 0x40, 0, 0x1040, ⟨by decide, ⟨rfl, rfl, rfl, fun _ => rfl, rfl⟩, rfl, rfl, fun _ => rfl, fun h => absurd h (by decide), fun h => absurd h (by decide),
    by decide, by decide⟩, rfl, rfl, rfl, rfl, by obtain rfl | rfl := h <;> decide +kernel, ⟨(by decide : runs.core.health.sound = true), fun k => (by decide : ∀ k : Fin 4, runs.core.dbg.wp[k].getLsbD 63 = false) k⟩, by obtain rfl | rfl := h <;> rfl, by obtain rfl | rfl := h <;> decide +kernel⟩
theorem wit_Join_away : ∃ x s a j pk aid off near, joinAsks x s a j ∧ s.core.posted = [] ∧ s.core.cmds = [] ∧ placeOf s j = some (.actor pk aid off) ∧ s.queueing j = false
    ∧ s.reach pk aid off 8 .atomic = .away near ∧ s.addrHeld j = false :=
  ⟨jn, actorAway in5, _, in5, none, 5, _, false, ⟨by decide, ⟨rfl, rfl, rfl, fun _ => rfl, rfl⟩, rfl, rfl, fun _ => rfl, fun h => absurd h (by decide), fun h => absurd h (by decide), by decide, by decide⟩,
    rfl, rfl, rfl, rfl, by decide +kernel, by decide +kernel⟩

/-- The join word of device address 0x100 with a value. -/
def joinMem (v : Byte) : State := { mapped 0x1000000000000100 with pkg := { (mapped 0).pkg with dmem := [(0x100, v)] } }

theorem wit_Join_counts (v : Byte) : ∃ (x : JnF) (s : State) (a : Activation) (j : Word) (va pa : Nat) (u : State), (Instr.join x).wf = true ∧ Issues Guard.none 0 s
    ∧ s.core.act = some a ∧ a.carried = none ∧ (x.a ≠ 0 → j = s.core.regs.rs x.a) ∧ (x.a = 0 → ∀ r, a.src = .task r → j = r.join)
    ∧ (x.a = 0 → (∃ aid off, a.src = .message aid off) → j = 0) ∧ joinWordOk j ∧ s.core.posted = [] ∧ s.core.cmds = [] ∧ placeOf s j = some (.inter va)
    ∧ s.translate .write va = some (pa, u) ∧ s.pkg.badUnits = [] ∧ (v ≠ 0 → s.pkg.dmem.wf = true) :=
  ⟨jn, joinMem v, _, 0x1000000000000100, _, _, _, by decide, ⟨rfl, rfl, rfl, fun _ => rfl, rfl⟩, rfl, rfl, fun _ => rfl, fun h => absurd h (by decide),
    fun h => absurd h (by decide), ⟨by decide, by decide⟩, rfl, rfl, rfl, rfl, rfl, fun h => by simpa [joinMem, Mem.wf, Mem.wfFrom] using h⟩

/-! ### Witnesses: engine commands -/

/-- A state with one command, as the request of it in that state makes it. -/
def queued (u : Req) (s : State) : State := s.mapCore fun c => { c with cmds := [u.cmd s] }

/-- A state in which 16 commands stand in a queue, each of them gated by a sync word that stands at 0, or not. -/
def filled (q : Queue) (gate : Bool) (s : State) : State :=
  s.mapCore fun c => { c with cmds := (List.range 16).map fun i => { ({ q := q, cls := 0, sub := 0, x := x0, gate := gate } : Req).cmd s with serial := i } }

/-- A vector instruction on FP32 with v9, v10 and d = 3. -/
def v32 : XOp := { x0 with ty := 8, a := 9, b := 10, d := 3 }

/-- The request of an instruction of the V engine. -/
def ofV (cls sub : Nat) (x : XOp) : Req := { q := .v, cls := cls, sub := sub, x := x }


theorem wit_VCommand_issue : ∃ (x : XOp) (s : State), (Instr.vadd x).wf = true ∧ withinJoint (.vadd x) s = true ∧ Ready x.h.g x.wait.val (Instr.vadd x).bytes s
    ∧ (s.core.queue .v).length < 16 := ⟨v32, runs, by decide, by decide, ready_runs _, by decide⟩
/-- The command of a request in the task. -/
def cmdOf (u : Req) : Cmd := u.cmd runs

theorem wit_VCommand_commit : ∃ (s : State) (k : Cmd), (Instr.vadd v32).wf = true ∧ s.ready .v = some k ∧ k.cls = 1 ∧ k.sub = 0 ∧ k.x = v32 :=
  ⟨queued (ofV 1 0 v32) runs, cmdOf (ofV 1 0 v32), by decide, by decide, rfl, rfl, rfl⟩
theorem wit_VJoint_commit : ∃ (s : State) (k : Cmd), (Instr.vshuf v32).wf = true ∧ s.ready .v = some k ∧ k.cls = 5 ∧ k.sub = 1 ∧ k.x = v32 ∧ k.g ≤ 1 :=
  ⟨queued (ofV 5 1 v32) runs, cmdOf (ofV 5 1 v32), by decide, by decide, rfl, rfl, rfl, by decide⟩
/-- The command of a request, issued by member ix of a gang of two. -/
def cmdIn (u : Req) (ix : Nat) : Cmd := { cmdOf u with g := 2, ix := ix }
/-- Two members of a gang, each with the joint command of one request. -/
def joint (u : Req) : State :=
  let s := runs.mapCore fun c => { c with ganged := true, cmds := [cmdIn u 0] }
  { s with peers := [{ s.core with ix := 1, pkgIx := 1, cmds := [cmdIn u 1] }] }
theorem wit_VJoint_gang : ∃ (s : State) (k : Cmd), (Instr.vshuf v32).wf = true ∧ s.ready .v = some k ∧ k.cls = 5 ∧ k.sub = 1 ∧ k.x = v32 ∧ k.g = 2
    ∧ (∀ c ∈ jointCores k s, c.jointReady k = true) ∧ ∃ d ∈ s.peers, k.inGang s.core d ∧ (d.jointCmd k).isSome :=
  ⟨joint (ofV 5 1 v32), cmdIn (ofV 5 1 v32) 0, by decide, by decide, rfl, rfl, rfl, rfl, by decide, _, .head _, by decide, by decide⟩

theorem wit_VectorCompare_width : ∃ x : XOp, (Instr.vceq x).wf = true ∧ 8 ≤ tyBits x.ty.val ∧ fmtOf x.ty.val = some .fp32 := ⟨v32, by decide, by decide, rfl⟩
theorem wit_VectorCompare_int : ∃ x : XOp, (Instr.vceq x).wf = true ∧ 8 ≤ tyBits x.ty.val ∧ fmtOf x.ty.val = none := ⟨{ v32 with ty := 6 }, by decide, by decide, rfl⟩
/-! ### Witnesses: vector memory and the matrix macro -/

/-- Layout record 1, in s8 to s15. -/
def rec1 (base w1 e1 e2 aux0 aux1 : Word) (s : State) : State :=
  s.mapRegs fun r => (((((r.ws 8 base).ws 9 w1).ws 10 e1).ws 11 e2).ws 14 aux0).ws 15 aux1

/-- The second word of a record: extent 0, type and flags. -/
def w1Of (ty e0 flags : Nat) : Word := BitVec.ofNat 64 (e0 + ty * 2 ^ 56 + flags * 2 ^ 60)

/-- An extended instruction of a type on record 1. -/
def xl (ty : Fin 16) : XOp := { x0 with ty := ty, l := 1 }

theorem ready_rec1 (b w e f a c : Word) (n : Nat) : Ready always 0 n (rec1 b w e f a c runs) := ⟨⟨rfl, rfl, rfl, fun _ => rfl, rfl⟩, rfl⟩

theorem wit_VRow_issue : ∃ (i : Instr) (x : XOp) (wr : Bool) (n : Nat) (s : State), vrowRow i = some (x, wr, n) ∧ i.wf = true
    ∧ (let ea : Word := s.core.regs.rs x.a + x.w2.signExtend 64
       Ready x.h.g x.wait.val i.bytes s ∧ (s.core.queue .v).length < 16 ∧ ea.toNat < 2 ^ 60 ∧ ea.toNat % max 1 (tyBits x.ty.val / 8) = 0 ∧ ea.toNat + n ≤ s.core.span.2) :=
  ⟨.vstr { xl 8 with l := 0, a := 9 }, _, _, _, at9 0x3FC0, rfl, by decide, ready_at9 _ _, by decide⟩
theorem wit_VRow_aspace : ∃ (i : Instr) (x : XOp) (wr : Bool) (n : Nat) (s : State), vrowRow i = some (x, wr, n) ∧ i.wf = true ∧ Issues x.h.g x.wait.val s
    ∧ ¬((s.core.regs.rs x.a + x.w2.signExtend 64).toNat < 2 ^ 60) :=
  ⟨.vldr { xl 8 with l := 0, a := 9 }, _, _, _, at9 0x1000000000000000, rfl, by decide, (ready_at9 _ 4).toIssues, by decide⟩
theorem wit_VRow_align : ∃ (i : Instr) (x : XOp) (wr : Bool) (n : Nat) (s : State), vrowRow i = some (x, wr, n) ∧ i.wf = true ∧ Issues x.h.g x.wait.val s
    ∧ (s.core.regs.rs x.a + x.w2.signExtend 64).toNat < 2 ^ 60 ∧ (s.core.regs.rs x.a + x.w2.signExtend 64).toNat % max 1 (tyBits x.ty.val / 8) ≠ 0 :=
  ⟨.vldr { xl 8 with l := 0, a := 9 }, _, _, _, at9 2, rfl, by decide, (ready_at9 _ 4).toIssues, by decide⟩
theorem wit_VRow_lrange : ∃ (i : Instr) (x : XOp) (wr : Bool) (n : Nat) (s : State), vrowRow i = some (x, wr, n) ∧ i.wf = true ∧ Issues x.h.g x.wait.val s
    ∧ (s.core.regs.rs x.a + x.w2.signExtend 64).toNat < 2 ^ 60 ∧ (s.core.regs.rs x.a + x.w2.signExtend 64).toNat % max 1 (tyBits x.ty.val / 8) = 0
    ∧ s.core.span.2 < (s.core.regs.rs x.a + x.w2.signExtend 64).toNat + n :=
  ⟨.vldr { xl 8 with l := 0, a := 9 }, _, _, _, at9 0x3FC4, rfl, by decide, (ready_at9 _ 4).toIssues, by decide⟩

/-- A command over 64 bytes of the task's scratchpad at offset 0x100. -/
def rowCmd (cls sub : Nat) (x : XOp) (wr : Bool) : Req :=
  { q := .v, cls := cls, sub := sub, x := x, reads := if wr then [] else [{ lo := 0x3C100, hi := 0x3C140 }], writes := if wr then [{ lo := 0x3C100, hi := 0x3C140 }] else [] }

theorem wit_VRow_commit (sub : Fin 3) : ∃ (s : State) (k : Cmd) (rg : Range), s.ready .v = some k ∧ k.cls = 7 ∧ s.core.calm
    ∧ ((sub = 0 ∧ k.sub = 2 ∧ k.reads = [rg]) ∨ (sub = 1 ∧ k.sub = 4 ∧ k.reads = [rg]) ∨ (sub = 2 ∧ k.sub = 3 ∧ k.writes = [rg] ∧ s.core.scratch.wf = true)) := by
  match sub with
  | 0 => exact ⟨queued (rowCmd 7 2 (xl 8) false) runs, cmdOf (rowCmd 7 2 (xl 8) false), _, by decide, rfl, ⟨rfl, by decide⟩, .inl ⟨rfl, rfl, rfl⟩⟩
  | 1 => exact ⟨queued (rowCmd 7 4 (xl 8) false) runs, cmdOf (rowCmd 7 4 (xl 8) false), _, by decide, rfl, ⟨rfl, by decide⟩, .inr (.inl ⟨rfl, rfl, rfl⟩)⟩
  | 2 => exact ⟨queued (rowCmd 7 3 (xl 8) true) runs, cmdOf (rowCmd 7 3 (xl 8) true), _, by decide, rfl, ⟨rfl, by decide⟩, .inr (.inr ⟨rfl, rfl, rfl, rfl⟩)⟩

/-- A legal tile record of two rows of 16 FP32 elements. -/
def tile2 (base : Word) : State := rec1 base (w1Of 8 16 0) 2 1 0 0 runs

/-- What VectorTileMemory calls legal. -/
abbrev tileLegal (x : XOp) (r : LRec) : Prop := r.ty = x.ty.val ∧ r.flagI = false ∧ r.flagS = false ∧ r.rsv = 0 ∧ r.e0 ≤ 512 / tyBits x.ty.val ∧ 1 ≤ r.e1
    ∧ r.e1 ≤ 8 ∧ r.e2 = 1 ∧ x.d.val + r.e1 ≤ 32

theorem wit_VTile_issue : ∃ (i : Instr) (x : XOp) (wr : Bool) (s : State) (g : Option Range), tileRow i = some (x, wr) ∧ i.wf = true ∧ Ready x.h.g x.wait.val i.bytes s
    ∧ (s.core.queue .v).length < 16 ∧ tileLegal x (s.core.regs.lrec x.l.val) ∧ localRec s (s.core.regs.lrec x.l.val) x.ty.val 0 = .ok g :=
  ⟨.vld { xl 8 with d := 30 }, _, _, tile2 0x3FC0, _, rfl, by decide, ready_rec1 _ _ _ _ _ _ _, by decide, by decide, rfl⟩
theorem wit_VTile_illop : ∃ (i : Instr) (x : XOp) (wr : Bool) (s : State), tileRow i = some (x, wr) ∧ i.wf = true ∧ Issues x.h.g x.wait.val s
    ∧ ¬tileLegal x (s.core.regs.lrec x.l.val) :=
  ⟨.vst { xl 8 with d := 31 }, _, _, tile2 0x3FC0, rfl, by decide, (ready_rec1 _ _ _ _ _ _ 12).toIssues, by decide⟩
theorem wit_VTile_fault : ∃ (i : Instr) (x : XOp) (wr : Bool) (s : State), tileRow i = some (x, wr) ∧ i.wf = true ∧ Issues x.h.g x.wait.val s
    ∧ tileLegal x (s.core.regs.lrec x.l.val) ∧ ∃ c, localRec s (s.core.regs.lrec x.l.val) x.ty.val 0 = .error c :=
  ⟨.vld { xl 8 with d := 30 }, _, _, tile2 0x3FC4, rfl, by decide, (ready_rec1 _ _ _ _ _ _ 12).toIssues, by decide, .lrange, rfl⟩

/-- A command with the record that the task's s8 to s15 hold. -/
def recCmd (q : Queue) (cls sub : Nat) (x : XOp) (s : State) : Req := { q := q, cls := cls, sub := sub, x := x, lrec := some (s.core.regs.lrec 1) }

theorem wit_VTile_commit (wr : Bool) : ∃ (s : State) (k : Cmd) (r : LRec), s.ready .v = some k ∧ k.cls = 7 ∧ k.lrec = some r ∧ s.core.calm ∧ k.x.d.val + r.e1 ≤ 32
    ∧ r.e0 ≤ 512 / tyBits k.x.ty.val ∧ k.sub = (if wr then 1 else 0) ∧ s.core.scratch.wf = true := by
  cases wr
  · exact ⟨queued (recCmd .v 7 0 { xl 8 with d := 30 } (tile2 0)) (tile2 0), _, _, rfl, rfl, rfl, ⟨rfl, by decide⟩, by decide, by decide, rfl, rfl⟩
  · exact ⟨queued (recCmd .v 7 1 { xl 8 with d := 30 } (tile2 0)) (tile2 0), _, _, rfl, rfl, rfl, ⟨rfl, by decide⟩, by decide, by decide, rfl, rfl⟩

theorem wit_Commit_off : ∃ (c : Core) (e : Effect), c.stats.off.getLsbD e.hist = true := ⟨{ runs.core with stats := { runs.core.stats with off := 1 } }, { hist := 0 }, by decide⟩
theorem wit_Commit_on : ∃ (c : Core) (e : Effect), c.stats.off.getLsbD e.hist = false ∧ e.prov = none ∧ (∀ x ∈ e.seen, x.val.isNan = false → magUp x.val ≤ 0x7F800000)
    ∧ c.stats.maxmag[e.hist].getLsbD 31 = false :=
  ⟨runs.core, { seen := [seenOf 8 0x3F800000, seenOf 8 0x7F800000, seenOf 8 0x7FC00000] }, by decide, rfl, by decide, by decide⟩

/-- A legal MATRIX record of rows of int8 in record 1. -/
def rows8 (base : Word) (e0 : Nat) (e1 : Word) : State := rec1 base (w1Of 2 e0 0) e1 1 0 0 runs

/-- A macro with an owner. -/
def owned (o : Option (BitVec 24)) (sh : Bool) (s : State) : State := s.mapCore fun c => { c with mac := { c.mac with owner := o, shared := sh } }

theorem wit_Matrix_mldb : ∃ (x : XOp) (s : State) (g : Option Range), (Instr.mldb x).wf = true ∧ Ready x.h.g x.wait.val (Instr.mldb x).bytes s
    ∧ (s.core.queue .m).length < 16 ∧ matrixLegal x (s.core.regs.lrec x.l.val) 0 128 ∧ mayUse s.core ∧ matrixRange s x (s.core.regs.lrec x.l.val) = .ok g :=
  ⟨xl 2, rows8 0 128 128, _, by decide, ready_rec1 _ _ _ _ _ _ _, by decide, by unfold matrixLegal; decide, by unfold mayUse; decide, rfl⟩
theorem wit_Matrix_mldb0 : ∃ (x : XOp) (s : State) (g : Option Range), (Instr.mldb x).wf = true ∧ Ready x.h.g x.wait.val (Instr.mldb x).bytes s
    ∧ (s.core.queue .m).length < 16 ∧ matrixLegal x (s.core.regs.lrec x.l.val) 0 128 ∧ mayUse s.core ∧ matrixRange s x (s.core.regs.lrec x.l.val) = .ok g :=
  ⟨xl 2, rows8 0 0 0, _, by decide, ready_rec1 _ _ _ _ _ _ _, by decide, by unfold matrixLegal; decide, by unfold mayUse; decide, rfl⟩
theorem wit_Matrix_pass : ∃ (i : Instr) (x : XOp) (sub : Nat) (s : State) (g : Option Range), ((i = .mmul x ∧ sub = 1) ∨ (i = .mmac x ∧ sub = 2)) ∧ i.wf = true
    ∧ Ready x.h.g x.wait.val i.bytes s ∧ (s.core.queue .m).length < 16 ∧ matrixLegal x (s.core.regs.lrec x.l.val) 1 4 ∧ mayUse s.core
    ∧ matrixRange s x (s.core.regs.lrec x.l.val) = .ok g
    ∧ ¬((s.core.mac.planes[planeIx x]).issuedTy = 14 ∧ 8 < (if x.ty = 15 then 4 + 4 * x.aw.val else tyBits x.ty.val)) :=
  ⟨.mmac (xl 2), _, 2, rows8 0 128 4, _, .inr ⟨rfl, rfl⟩, by decide, ready_rec1 _ _ _ _ _ _ _, by decide, by unfold matrixLegal; decide, by unfold mayUse; decide, rfl, by decide⟩
theorem wit_Matrix_mrd : ∃ (x : XOp) (s : State) (g : Option Range), (Instr.mrd x).wf = true ∧ Ready x.h.g x.wait.val (Instr.mrd x).bytes s
    ∧ (s.core.queue .m).length < 16 ∧ matrixLegal x (s.core.regs.lrec x.l.val) 1 1 ∧ matrixRange s x (s.core.regs.lrec x.l.val) = .ok g :=
  ⟨xl 8, rec1 0 (w1Of 8 128 0) 1 1 0 0 runs, _, by decide, ready_rec1 _ _ _ _ _ _ _, by decide, by unfold matrixLegal; decide, rfl⟩
theorem wit_Matrix_vscalc (e : Nat) (he : e = 0 ∨ e = 1) : ∃ (x : XOp) (s : State) (g : Option Range), (Instr.vscalc x).wf = true
    ∧ Ready x.h.g x.wait.val (Instr.vscalc x).bytes s ∧ (s.core.queue .m).length < 16
    ∧ matrixLegal x { s.core.regs.lrec x.l.val with e1 := max 1 (s.core.regs.lrec x.l.val).e1, e2 := max 1 (s.core.regs.lrec x.l.val).e2 } 1 1
    ∧ matrixRange s x (s.core.regs.lrec x.l.val) = .ok g ∧ (s.core.regs.lrec x.l.val).e1 = e := by
  obtain rfl | rfl := he
  · exact ⟨{ xl 8 with w2 := 3 }, rec1 0 (w1Of 8 128 0) 0 1 0 0 runs, none, by decide, ready_rec1 _ _ _ _ _ _ _, by decide,
      by unfold matrixLegal; decide, rfl, rfl⟩
  · exact ⟨{ xl 8 with w2 := 3 }, rec1 0 (w1Of 8 128 0) 1 1 0 0 runs, _, by decide, ready_rec1 _ _ _ _ _ _ _, by decide,
      by unfold matrixLegal; decide, rfl, rfl⟩
theorem wit_Matrix_mclr : ∃ (x : XOp) (s : State), (Instr.mclr x).wf = true ∧ Ready x.h.g x.wait.val (Instr.mclr x).bytes s ∧ (s.core.queue .m).length < 16 :=
  ⟨{ x0 with w2 := 15 }, runs, by decide, ready_runs _, by decide⟩
theorem wit_Matrix_mshr (o : Option (BitVec 24)) (ho : o = none ∨ o = some 0) : ∃ (i : Instr) (x : XOp) (s : State), i = .mshr x ∧ i.wf = true
    ∧ Ready x.h.g x.wait.val i.bytes s ∧ (s.core.queue .m).length < 16 ∧ (s.core.mac.owner = none ∨ s.core.mac.owner = some s.core.regs.aid) :=
  ⟨.mshr { x0 with w2 := 1 }, _, owned o false runs, rfl, by decide, ⟨⟨rfl, rfl, rfl, fun _ => rfl, rfl⟩, rfl⟩, (by show 0 < 16; decide), ho⟩

theorem wit_MatrixOwnership_mldb (legal : Bool) : ∃ (i : Instr) (x : XOp) (o : BitVec 24) (s : State), i.wf = true ∧ Issues x.h.g x.wait.val s ∧ s.core.mac.owner = some o
    ∧ o ≠ s.core.regs.aid ∧ i = .mldb x ∧ s.core.mac.shared = false ∧ (matrixLegal x (s.core.regs.lrec x.l.val) 0 128 ↔ legal = true) := by
  cases legal
  · exact ⟨.mldb (xl 2), _, 9, owned (some 9) false (rows8 0 128 129), by decide, ⟨rfl, rfl, rfl, fun _ => rfl, rfl⟩, rfl, by decide, rfl, rfl, by unfold matrixLegal; decide⟩
  · exact ⟨.mldb (xl 2), _, 9, owned (some 9) false (rows8 0 128 128), by decide, ⟨rfl, rfl, rfl, fun _ => rfl, rfl⟩, rfl, by decide, rfl, rfl, by unfold matrixLegal; decide⟩
theorem wit_MatrixOwnership_pass (legal : Bool) : ∃ (i : Instr) (x : XOp) (o : BitVec 24) (s : State), i.wf = true ∧ Issues x.h.g x.wait.val s ∧ s.core.mac.owner = some o
    ∧ o ≠ s.core.regs.aid ∧ (i = .mmul x ∨ i = .mmac x) ∧ s.core.mac.shared = false ∧ (s.core.mac.planes[planeIx x]).issuedTy ≠ 14
    ∧ (matrixLegal x (s.core.regs.lrec x.l.val) 1 4 ↔ legal = true) := by
  cases legal
  · exact ⟨.mmul (xl 2), _, 9, owned (some 9) false (rows8 0 128 5), by decide, ⟨rfl, rfl, rfl, fun _ => rfl, rfl⟩, rfl, by decide, .inl rfl, rfl, by decide, by unfold matrixLegal; decide⟩
  · exact ⟨.mmac (xl 2), _, 9, owned (some 9) false (rows8 0 128 1), by decide, ⟨rfl, rfl, rfl, fun _ => rfl, rfl⟩, rfl, by decide, .inr rfl, rfl, by decide, by unfold matrixLegal; decide⟩
theorem wit_MatrixOwnership_mrel : ∃ (i : Instr) (x : XOp) (o : BitVec 24) (s : State), i.wf = true ∧ Issues x.h.g x.wait.val s ∧ s.core.mac.owner = some o
    ∧ o ≠ s.core.regs.aid ∧ (i = .mshr x ∨ i = .mrel x) :=
  ⟨.mrel x0, _, 9, owned (some 9) true runs, by decide, ⟨rfl, rfl, rfl, fun _ => rfl, rfl⟩, rfl, by decide, .inr rfl⟩

/-- A matrix command over a record of the task. -/
def mHead (sub : Nat) (x : XOp) (s : State) : State := queued (recCmd .m 8 sub x s) s

theorem wit_MatrixLoad : ∃ (k : Cmd) (r : LRec) (s : State), MatrixHead k r s ∧ k.sub = 0 ∧ ∀ i < r.e1, (srcOf k r s i).plain ∧ (srcOf k r s i).nv = false :=
  ⟨_, _, mHead 0 (xl 2) (rows8 0 4 2), ⟨rfl, rfl, by decide, rfl, ⟨rfl, by decide⟩, rfl⟩, rfl, by
    unfold SrcRow.plain; decide +kernel⟩
theorem wit_MatrixLoad_e2 : ∃ (k : Cmd) (r : LRec) (s : State), MatrixHead k r s ∧ k.sub = 0 ∧ (∀ i < r.e1, (srcOf k r s i).plain ∧ (srcOf k r s i).nv = false) ∧ k.x.ty = 13 :=
  ⟨_, _, mHead 0 (xl 13) (rec1 0 (w1Of 13 32 0) 1 1 0 0 runs), ⟨rfl, rfl, by decide, rfl, ⟨rfl, by decide⟩, rfl⟩, rfl, by
    unfold SrcRow.plain; decide +kernel, rfl⟩
theorem wit_MatrixPass (sub : Fin 2) : ∃ (k : Cmd) (r : LRec) (s : State), MatrixHead k r s ∧ k.sub = sub.val + 1 ∧ r.e0 ≠ 0 ∧ r.e2 ≠ 0 ∧ r.e0 ≤ 128 ∧ 1 ≤ r.e1 ∧ r.e1 ≤ 4
    ∧ (∀ i < r.e1, (srcOf k r s i).plain ∧ (srcOf k r s i).cells.length ≤ 128)
    ∧ ∀ n < 128, (((s.core.mac.planes[planeIx k.x]).col n).cells.length ≤ 128 ∧ ∀ c ∈ ((s.core.mac.planes[planeIx k.x]).col n).cells, c.mark = .none) := by
  match sub with
  | 0 => exact ⟨_, _, mHead 1 (xl 2) (rows8 0 4 4), ⟨rfl, rfl, by decide, rfl, ⟨rfl, by decide⟩, rfl⟩, rfl, by decide, by decide, by decide, by decide, by decide,
      by unfold SrcRow.plain; decide +kernel, by decide +kernel⟩
  | 1 => exact ⟨_, _, mHead 2 (xl 2) (rows8 0 4 1), ⟨rfl, rfl, by decide, rfl, ⟨rfl, by decide⟩, rfl⟩, rfl, by decide, by decide, by decide, by decide, by decide,
      by unfold SrcRow.plain; decide +kernel, by decide +kernel⟩
theorem wit_MatrixReadOut (sub : Fin 2) : ∃ (k : Cmd) (r : LRec) (s : State), MatrixHead k r s ∧ r.e0 ≤ 128 ∧ r.e1 = 1 ∧ r.e2 = 1 ∧ s.core.scratch.wf = true
    ∧ k.x.ty.val = 8 ∧ k.x.sat = false ∧ k.sub = 4 * sub.val + 3 := by
  match sub with
  | 0 => exact ⟨_, _, mHead 3 (xl 8) (rec1 0 (w1Of 8 128 0) 1 1 0 0 runs), ⟨rfl, rfl, by decide, rfl, ⟨rfl, by decide⟩, rfl⟩, by decide, by decide, by decide, rfl, rfl, rfl, rfl⟩
  | 1 => exact ⟨_, _, mHead 7 (xl 8) (rec1 0 (w1Of 8 128 0) 1 1 0 0 runs), ⟨rfl, rfl, by decide, rfl, ⟨rfl, by decide⟩, rfl⟩, by decide, by decide, by decide, rfl, rfl, rfl, rfl⟩
theorem wit_MatrixReadOut_own (sub : Fin 3) : ∃ (k : Cmd) (s : State), s.ready .m = some k ∧ k.cls = 8 ∧ k.sub = sub.val + 4 := by
  match sub with
  | 0 => exact ⟨_, queued { q := .m, cls := 8, sub := 4, x := x0 } runs, rfl, rfl, rfl⟩
  | 1 => exact ⟨_, queued { q := .m, cls := 8, sub := 5, x := x0 } runs, rfl, rfl, rfl⟩
  | 2 => exact ⟨_, queued { q := .m, cls := 8, sub := 6, x := x0 } runs, rfl, rfl, rfl⟩
/-! ### Witnesses: atomics, sync words, barriers, engine commands -/

/-- An atomic of a type at s9 with b in s2. -/
def xa (ty : Fin 16) : XOp := { x0 with ty := ty, a := 9, b := 2, d := 3 }

theorem wit_LocalAtomics (ret : Bool) : ∃ (i : Instr) (x : XOp) (sub : Nat) (s : State), atomRow i = some (x, sub, ret) ∧ i.wf = true
    ∧ Ready x.h.g x.wait.val i.bytes s ∧ s.core.calm ∧ s.core.scratch.wf = true ∧ localReady s (wordAddr x s.core.regs) (tyBits x.ty.val / 8) true := by
  cases ret
  · exact ⟨.amaxup { xa 6 with x := true, d := 0 }, _, _, at9 0x3FF8, rfl, by decide, ready_at9 _ _, ⟨rfl, by decide⟩, rfl, ⟨by decide, by decide⟩⟩
  · exact ⟨.acas { xa 4 with c := 1 }, _, _, at9 0x3FFC, rfl, by decide, ready_at9 _ _, ⟨rfl, by decide⟩, rfl, ⟨by decide, by decide⟩⟩
theorem wit_LocalAtomics_float (ret : Bool) : ∃ (i : Instr) (x : XOp) (s : State), (i = if ret then .afadd x else .afaddp x) ∧ i.wf = true
    ∧ Ready x.h.g x.wait.val i.bytes s ∧ s.core.calm ∧ s.core.scratch.wf = true ∧ localReady s (wordAddr x s.core.regs) (tyBits x.ty.val / 8) true := by
  cases ret
  · exact ⟨.afaddp { xa 8 with x := true, d := 0 }, _, at9 0x3FFC, rfl, by decide, ready_at9 _ _, ⟨rfl, by decide⟩, rfl, ⟨by decide, by decide⟩⟩
  · exact ⟨.afadd (xa 8), _, at9 0x3FFC, rfl, by decide, ready_at9 _ _, ⟨rfl, by decide⟩, rfl, ⟨by decide, by decide⟩⟩

/-- What DeviceAtomicResults asks beside its place. -/
def devAtomAsks (i : Instr) (x : XOp) (sub : Nat) (s : State) (pl : Place) : Prop :=
  atomRow i = some (x, sub, true) ∧ i.wf = true ∧ Ready x.h.g x.wait.val i.bytes s ∧ s.core.posted = [] ∧ s.pkg.badUnits = [] ∧ s.pkg.dmem.wf = true
    ∧ (wordAddr x s.core.regs).toNat % (tyBits x.ty.val / 8) = 0
    ∧ placeOf s (wordAddr x s.core.regs) = some pl

theorem wit_DeviceAtomics_inter : ∃ i x sub s pl va pa u, devAtomAsks i x sub s pl ∧ pl = .inter va ∧ s.translate .write va = some (pa, u)
    ∧ s.atomicHeld (normal pl (wordAddr x s.core.regs)) pa (tyBits x.ty.val / 8) = false :=
  ⟨.aadd (xa 6), _, _, mapped 0x100000000000FFF8, _, _, _, _, ⟨rfl, by decide, ready_mapped _ _, rfl, rfl, rfl, by decide, rfl⟩, rfl, rfl, by decide +kernel⟩
theorem wit_DeviceAtomics_linear : ∃ i x sub s pl q, devAtomAsks i x sub s pl ∧ pl = .linear q
    ∧ s.atomicHeld (normal pl (wordAddr x s.core.regs)) q (tyBits x.ty.val / 8) = false :=
  ⟨.aadd (xa 6), _, _, at9 0x2000000000BFFFF8, _, _, ⟨rfl, by decide, ready_at9 _ _, rfl, rfl, rfl, by decide, rfl⟩, rfl, by decide +kernel⟩

/-- What it asks of an atomic in an actor's window. -/
def actorAtomAsks (i : Instr) (x : XOp) (sub : Nat) (s : State) (pk : Option Nat) (aid : BitVec 24) (off : Nat) : Prop :=
  let ea := wordAddr x s.core.regs
  atomRow i = some (x, sub, true) ∧ i.wf = true ∧ Ready x.h.g x.wait.val i.bytes s ∧ s.core.posted = [] ∧ ea.toNat % (tyBits x.ty.val / 8) = 0
    ∧ placeOf s ea = some (.actor pk aid off) ∧ s.atomicHeld (normal (.actor pk aid off) ea) 0 (tyBits x.ty.val / 8) = false
theorem wit_DeviceAtomics_actor : ∃ i x sub s pk aid off k p, actorAtomAsks i x sub s pk aid off ∧ s.reach pk aid off (tyBits x.ty.val / 8) .atomic = .at_ k p
    ∧ (focus k s).core.calm ∧ (focus k s).core.scratch.wf = true :=
  ⟨.aadd (xa 6), _, _, besideActor in5, none, 5, 0x40, 0, 0x1040, ⟨rfl, by decide, ready_beside _ _, rfl, by decide, rfl, by decide +kernel⟩, by decide +kernel, ⟨rfl, by decide⟩, rfl⟩
theorem wit_DeviceAtomics_away : ∃ i x sub s pk aid off near, actorAtomAsks i x sub s pk aid off ∧ s.reach pk aid off (tyBits x.ty.val / 8) .atomic = .away near
    ∧ s.addrHeld (wordAddr x s.core.regs) = false :=
  ⟨.aadd (xa 6), _, _, actorAway in5, none, 5, 0x40, false, ⟨rfl, by decide, ready_away _ _, rfl, by decide, rfl, by decide +kernel⟩, by decide +kernel, by decide +kernel⟩

/-- What PostedAtomicResults asks at issue beside its place. -/
def postAtomAsks (i : Instr) (x : XOp) (sub : Nat) (s : State) (pl : Place) : Prop :=
  (atomRow i = some (x, sub, false) ∨ i = .afaddp x ∧ sub = 10) ∧ i.wf = true ∧ Ready x.h.g x.wait.val i.bytes s ∧ (s.core.queue .e).length < 16
    ∧ (wordAddr x s.core.regs).toNat % (tyBits x.ty.val / 8) = 0 ∧ placeOf s (wordAddr x s.core.regs) = some pl

theorem wit_PostedAtomics_inter : ∃ i x sub s pl va pa u, postAtomAsks i x sub s pl ∧ pl = .inter va ∧ s.translate .write va = some (pa, u) :=
  ⟨.aaddp { xa 6 with x := true, d := 0 }, _, _, mapped 0x100000000000FFF8, _, _, _, _, ⟨.inl rfl, by decide, ready_mapped _ _, by decide, by decide, rfl⟩, rfl, rfl⟩
theorem wit_PostedAtomics_linear : ∃ i x sub s pl q, postAtomAsks i x sub s pl ∧ pl = .linear q :=
  ⟨.afaddp { xa 8 with x := true, d := 0 }, _, 10, at9 0x2000000000BFFFFC, _, _, ⟨.inr ⟨rfl, rfl⟩, by decide, ready_at9 _ _, by decide, by decide, rfl⟩, rfl⟩
theorem wit_PostedAtomics_actor : ∃ i x sub s pl, postAtomAsks i x sub s pl ∧ ∃ pk aid off, pl = .actor pk aid off :=
  ⟨.aaddp { xa 6 with x := true, d := 0 }, _, _, besideActor in5, _, ⟨.inl rfl, by decide, ready_beside _ _, by decide, by decide, rfl⟩, _, _, _, rfl⟩
theorem wit_PostedAtomics_commit : ∃ (k : Cmd) (s u : State) (va pa : Nat), s.ready .e = some k ∧ k.cls = 10
    ∧ placeOf s (k.sa + k.x.w2.signExtend 64) = some (.inter va) ∧ s.lookup k.pages .write va = .hit pa u :=
  ⟨_, queued { q := .e, cls := 10, sub := 0, x := { xa 6 with x := true, d := 0 } } (mapped 0x1000000000000100), _, _, _, rfl, rfl, rfl, rfl⟩

/-- An atomic on its way to device address 0x100. -/
def flies : Posted := { post7 with kind := .atomic { op := 9, ty := 4, b := 5, c := 0, rm := 0, u := 0 } 4 }

theorem wit_PostedAtomics_arrival : ∃ (p : Posted) (a : AtomicArgs) (n : Nat) (s : State), s.core.posted.find? (fun e => e.id == p.id) = some p ∧ mayArrive s p = true
    ∧ p.kind = .atomic a n ∧ ((∃ va, placeOf s p.addr = some (.inter va)) ∨ placeOf s p.addr = some (.linear p.pa)) ∧ s.pkg.badUnits = [] ∧ s.pkg.dmem.wf = true
    ∧ (a.ty = 4 ∨ a.ty = 5 ∨ a.ty = 6) ∧ a.op.val ≤ 9 :=
  ⟨flies, _, _, posts flies (mapped 0), rfl, by decide +kernel, rfl, .inl ⟨_, rfl⟩, rfl, rfl, .inl rfl, by decide⟩

/-- The task with a sync word of a count and a target at local offset 0x3FF0, and b in s2. -/
def syncAt (count target : Nat) (b : Word) : State :=
  ((at9 0x3FF0).mapRegs fun r => r.ws 2 b).mapCore fun c => c.setSync 0x3FFF0 { count := count, target := target, gen := 0, ovf := false }

theorem ready_syncAt (k t : Nat) (b : Word) (n : Nat) : Ready always 0 n (syncAt k t b) := ⟨⟨rfl, rfl, rfl, fun _ => rfl, rfl⟩, rfl⟩

theorem wit_Sync_expect (busy : Bool) : ∃ (x : XOp) (s : State), syncReady s (wordAddr x s.core.regs) true ∧ (Instr.expect x).wf = true ∧ s.core.calm ∧ s.core.scratch.wf = true
    ∧ Ready x.h.g x.wait.val (Instr.expect x).bytes s
    ∧ (if busy then (s.core.sync (s.core.span.1 + (wordAddr x s.core.regs).toNat)).target ≠ 0
       else ((s.core.regs.rs x.b).setWidth 32).toNat ≠ 0 ∧ (s.core.sync (s.core.span.1 + (wordAddr x s.core.regs).toNat)).target = 0) := by
  cases busy
  · exact ⟨{ xa 0 with }, syncAt 3 0 4, ⟨by decide, by decide⟩, by decide, ⟨rfl, by decide⟩, by decide, ready_syncAt _ _ _ _, by decide⟩
  · exact ⟨{ xa 0 with }, syncAt 3 9 4, ⟨by decide, by decide⟩, by decide, ⟨rfl, by decide⟩, by decide, ready_syncAt _ _ _ _, by decide⟩
theorem wit_Sync_swinit : ∃ (x : XOp) (s : State), syncReady s (wordAddr x s.core.regs) true ∧ (Instr.swinit x).wf = true ∧ s.core.calm ∧ s.core.scratch.wf = true
    ∧ Ready x.h.g x.wait.val (Instr.swinit x).bytes s :=
  ⟨{ xa 0 with d := 0 }, syncAt 3 9 4, ⟨by decide, by decide⟩, by decide, ⟨rfl, by decide⟩, by decide, ready_syncAt _ _ _ _⟩
theorem wit_Sync_waitg (b : Fin 3) : ∃ (x : XOp) (s : State), syncReady s (wordAddr x s.core.regs) false ∧ (Instr.waitg x).wf = true ∧ s.core.calm ∧ Ready x.h.g x.wait.val (Instr.waitg x).bytes s
    ∧ (BitVec.ofNat 32 (s.core.sync (s.core.span.1 + (wordAddr x s.core.regs).toNat)).gen - BitVec.ofNat 32 ((s.core.regs.rs x.b).setWidth 32).toNat).toNat
      = (match b with | 0 => 0 | 1 => 1 | 2 => 2 ^ 31) := by
  match b with
  | 0 => exact ⟨xa 0, syncAt 3 0 0, ⟨by decide, by decide⟩, by decide, ⟨rfl, by decide⟩, ready_syncAt _ _ _ _, by decide⟩
  | 1 => exact ⟨xa 0, syncAt 3 0 0xFFFFFFFF, ⟨by decide, by decide⟩, by decide, ⟨rfl, by decide⟩, ready_syncAt _ _ _ _, by decide⟩
  | 2 => exact ⟨xa 0, syncAt 3 0 0x80000000, ⟨by decide, by decide⟩, by decide, ⟨rfl, by decide⟩, ready_syncAt _ _ _ _, by decide⟩
theorem wit_Sync_faults (f : Fin 3) : ∃ (x : XOp) (s : State), (Instr.swinit x).wf = true ∧ Issues x.h.g x.wait.val s
    ∧ (let ea := wordAddr x s.core.regs
       match f with
       | 0 => ¬(ea.toNat < 2 ^ 60)
       | 1 => ea.toNat < 2 ^ 60 ∧ ea.toNat % 16 ≠ 0
       | 2 => ea.toNat < 2 ^ 60 ∧ ea.toNat % 16 = 0 ∧ s.core.span.2 < ea.toNat + 16) := by
  match f with
  | 0 => exact ⟨{ xa 0 with d := 0 }, at9 0x1000000000000000, by decide, (ready_at9 _ 12).toIssues, by decide⟩
  | 1 => exact ⟨{ xa 0 with d := 0 }, at9 0x3FF8, by decide, (ready_at9 _ 12).toIssues, by decide⟩
  | 2 => exact ⟨{ xa 0 with d := 0 }, at9 0x4000, by decide, (ready_at9 _ 12).toIssues, by decide⟩
theorem wit_SyncWordCounts : ∃ (c : Core) (p : Nat), c.scratch.wf = true ∧ c.health.lostIn p 16 = false := ⟨runs.core, 0, rfl, rfl⟩

/-- The activation of actor 5, which has arrived n times at barrier 3, of which so many phases are released. -/
def atBar (n phase : Nat) (broken : Bool) : State :=
  let s := ofMessage.mapCore fun c => c.mapActor 5 fun a => { a with bars := if n = 0 then [] else [{ idx := 3, arrived := n }] }
  { s with pkg := { s.pkg with bars := [{ slot := 1, idx := 3, share := 0, low := 0, phase := phase, broken := broken, unit := .channel true }] } }

theorem ready_atBar (m p : Nat) (b : Bool) (n : Nat) : Ready always 0 n (atBar m p b) := ⟨⟨rfl, rfl, rfl, fun _ => rfl, rfl⟩, rfl⟩

/-- A barrier instruction of index 3. -/
def x3 : XOp := { x0 with w2 := 3 }

theorem wit_Barrier_arrive : ∃ (x : XOp) (s : State) (b : BarInst), s.barOf (x.w2.toNat % 16) = some b ∧ b.broken = false ∧ (Instr.bararr x).wf = true
    ∧ Ready x.h.g x.wait.val (Instr.bararr x).bytes s ∧ s.core.drained = true ∧ s.core.arrivals (x.w2.toNat % 16) ≤ b.phase :=
  ⟨x3, atBar 1 1 false, _, rfl, rfl, by decide, ready_atBar _ _ _ _, by decide⟩
theorem wit_Barrier_wait (due : Bool) : ∃ (x : XOp) (s : State) (b : BarInst), s.barOf (x.w2.toNat % 16) = some b ∧ b.broken = false ∧ (Instr.barwt x).wf = true
    ∧ Ready x.h.g x.wait.val (Instr.barwt x).bytes s ∧ decide (s.core.arrivals (x.w2.toNat % 16) ≤ b.phase) = due := by
  cases due
  · exact ⟨x3, atBar 2 1 false, _, rfl, rfl, by decide, ready_atBar _ _ _ _, by decide⟩
  · exact ⟨x3, atBar 2 2 false, _, rfl, rfl, by decide, ready_atBar _ _ _ _, by decide⟩
theorem wit_Barrier_bar : ∃ (x : XOp) (s : State) (b : BarInst), s.barOf (x.w2.toNat % 16) = some b ∧ b.broken = false ∧ (Instr.bar x).wf = true
    ∧ Ready x.h.g x.wait.val (Instr.bar x).bytes s ∧ s.core.drained = true ∧ s.core.arrivals (x.w2.toNat % 16) = b.phase
    ∧ ∀ a, s.core.act = some a → a.barHold ≠ x.w2.toNat % 16 + 1 :=
  ⟨x3, atBar 0 0 false, _, rfl, rfl, by decide, ready_atBar _ _ _ _, by decide, by decide, fun a h => by cases h; decide⟩
theorem wit_Barrier_nodecl : ∃ (i : Instr) (x : XOp) (s : State), (i = .bar x ∨ i = .bararr x ∨ i = .barwt x) ∧ i.wf = true ∧ Issues x.h.g x.wait.val s
    ∧ s.barOf (x.w2.toNat % 16) = none :=
  ⟨.bar { x0 with w2 := 4 }, _, atBar 0 0 false, .inl rfl, by decide, (ready_atBar _ _ _ 12).toIssues, rfl⟩
theorem wit_Barrier_broken : ∃ (i : Instr) (x : XOp) (s : State) (b : BarInst), (i = .bar x ∨ i = .bararr x ∨ i = .barwt x) ∧ i.wf = true ∧ Issues x.h.g x.wait.val s
    ∧ s.barOf (x.w2.toNat % 16) = some b ∧ b.broken = true :=
  ⟨.barwt x3, _, atBar 1 0 true, _, .inr (.inr rfl), by decide, (ready_atBar _ _ _ 12).toIssues, rfl, rfl⟩
theorem wit_Barrier_release : ∃ (ix : Nat) (b : BarInst) (s : State), s.barDue ix = some b := ⟨3, _, atBar 1 0 false, rfl⟩
theorem wit_Fence (q : Bool) : ∃ (x : XOp) (s : State), (Instr.qfence x).wf = true ∧ Ready x.h.g x.wait.val (Instr.qfence x).bytes s
    ∧ (if q then ∃ q : Queue, x.w2.getLsbD (queueNum q) = true ∧ s.core.queue q ≠ [] else ∀ q : Queue, x.w2.getLsbD (queueNum q) = true → s.core.queue q = []) := by
  cases q
  · exact ⟨{ x0 with w2 := 0xFE }, queued (ofV 5 0 v32) runs, by decide, ⟨⟨rfl, rfl, rfl, fun _ => rfl, rfl⟩, rfl⟩, fun q => by cases q <;> decide⟩
  · exact ⟨{ x0 with w2 := 1 }, queued (ofV 5 0 v32) runs, by decide, ⟨⟨rfl, rfl, rfl, fun _ => rfl, rfl⟩, rfl⟩, .v, by decide⟩

/-- Two rows of 32 bytes at offset 0 pushed to an address, with a sync word at local offset 0x200 or none. -/
def pushes (dst : Word) (sync : Bool) : State := rec1 0 (w1Of 2 16 (if sync then 2 else 0)) 2 1 dst (if sync then 0x200 else 0) runs

theorem wit_Push_empty : ∃ i x sub r d o s, pushRow i s = some (x, sub, r, d, o) ∧ i.wf = true ∧ Ready x.h.g x.wait.val i.bytes s
    ∧ (s.core.queue .e).length < 16 ∧ pushLegal x sub r d ∧ gateFound x s ∧ r.empty = true :=
  ⟨.send (xl 2), _, _, _, _, _, rec1 0 (w1Of 2 0 0) 2 1 0 0 runs, rfl, by decide, ready_rec1 _ _ _ _ _ _ _, by decide, by unfold pushLegal; decide, by unfold gateFound; decide, by decide⟩
theorem wit_Push_local (sync : Bool) : ∃ (i : Instr) (x : XOp) (sub : Nat) (r d : LRec) (o : Option LRec) (s : State) (src dst y : Option Range),
    pushRow i s = some (x, sub, r, d, o) ∧ i.wf = true ∧ Ready x.h.g x.wait.val i.bytes s
    ∧ (s.core.queue .e).length < 16 ∧ pushLegal x sub r d ∧ gateFound x s ∧ r.empty = false ∧ (d.flagS = true → syncPlaced s d.base d.aux1 = true)
    ∧ localRec s r r.ty 0 = .ok src ∧ destRange s d = .ok dst ∧ (if d.flagS then syncRange s d.aux1 else .ok none) = .ok y
    ∧ (∀ g h, dst = some g → y = some h → g.meets h = false) ∧ d.flagS = sync := by
  cases sync
  · exact ⟨.send (xl 2), _, _, _, _, _, pushes 0x3FC0 false, _, _, _, rfl, by decide, ready_rec1 _ _ _ _ _ _ _, by decide, by unfold pushLegal; decide, by unfold gateFound; decide,
      by decide, by decide, rfl, rfl, rfl, (fun g h e f => nomatch f), rfl⟩
  · exact ⟨.send (xl 2), _, _, _, _, _, pushes 0x1C0 true, _, _, _, rfl, by decide, ready_rec1 _ _ _ _ _ _ _, by decide, by unfold pushLegal; decide, by unfold gateFound; decide,
      by decide, by decide, rfl, rfl, rfl, (fun g h e f => by cases e; cases f; decide), rfl⟩
/-- The same with a record of its destination in s16 to s23. -/
def copies : State := (pushes 0 false).mapRegs fun r => (((((r.ws 16 0x1000).ws 17 (w1Of 2 16 0)).ws 18 2).ws 19 1).ws 20 64).ws 22 0

theorem wit_Push_records : ∃ i x sub r d o s, pushRow i s = some (x, sub, r, d, o) ∧ sub = 1 ∧ i.wf = true ∧ Ready x.h.g x.wait.val i.bytes s
    ∧ (s.core.queue .e).length < 16 ∧ pushLegal x sub r d ∧ gateFound x s :=
  ⟨.sendl { xl 2 with w2 := 2 }, _, _, _, _, _, copies, rfl, rfl, by decide, ⟨⟨rfl, rfl, rfl, fun _ => rfl, rfl⟩, rfl⟩, by decide, by unfold pushLegal; decide, by unfold gateFound; decide⟩

/-- Two rows of 32 bytes of a table in bank 0, dense at local offset 0x100; with an index list at 0x300 or without. -/
def tables (indexed : Bool) : State :=
  (rec1 0x2000000000000000 (w1Of 2 16 (if indexed then 1 else 0)) 2 (if indexed then 4 else 1) (if indexed then 0x300 else 0x100) 0 runs).mapRegs fun r => (r.ws 2 0x100).ws 12 32

theorem ready_tables (b : Bool) (n : Nat) : Ready always 0 n (tables b) := ⟨⟨rfl, rfl, rfl, fun _ => rfl, rfl⟩, rfl⟩

theorem wit_Table (indexed : Bool) : ∃ (i : Instr) (x : XOp) (sub : Nat) (s : State) (ix g : Range), tableInstr i = some (x, sub) ∧ i.wf = true ∧ Ready x.h.g x.wait.val i.bytes s
    ∧ (s.core.queue .g).length < 16
    ∧ (let r := s.core.regs.lrec x.l.val
       let b := LRec.bounds { r with e1 := if r.flagI then r.e2 else r.e1, e2 := 1 } r.ty 0
       r.ty = x.ty.val ∧ r.rsv = 0 ∧ (r.flagI = false → r.e2 ≤ 1) ∧ ¬(r.ty = 7 ∧ r.e0 % 2 = 1) ∧ gateFound x s ∧ r.empty = false
         ∧ ((∃ va, placeOf s r.base = some (.inter va)) ∨ ∃ pa, placeOf s r.base = some (.linear pa)) ∧ spanFault s r.base b.1 b.2 (baseAlign r.ty 0) = none
         ∧ (r.flagI = true → localSpan s r.aux0 (4 * r.e1) 4 = .ok ix)
         ∧ localSpan s (if r.flagI then s.core.regs.rs x.b else r.aux0) (r.rowLen * r.e1) (baseAlign r.ty 0) = .ok g
         ∧ (r.flagS = true → ∃ y, localSpan s r.aux1 16 16 = .ok y) ∧ r.flagI = indexed) := by
  cases indexed
  · exact ⟨.scat (xl 2), _, _, tables false, { lo := 0, hi := 0 }, _, rfl, by decide, ready_tables _ _, by decide, by decide, by decide, by decide, by decide, by unfold gateFound; decide,
      by decide, .inr ⟨_, rfl⟩, by decide, fun h => absurd h (by decide), rfl, fun h => absurd h (by decide), rfl⟩
  · exact ⟨.gath { xl 2 with b := 2 }, _, _, tables true, _, _, rfl, by decide, ready_tables _ _, by decide, by decide, by decide, by decide, by decide, by unfold gateFound; decide,
      by decide, .inr ⟨_, rfl⟩, by decide, fun _ => rfl, rfl, fun h => absurd h (by decide), rfl⟩

/-- The activation of actor 5 in launch 1, whose tree 2 is declared, with its contributions. -/
def atTree (parts : List (Nat × Word × VWord)) : State :=
  let l : Launch := { launch1 (hdrPol 0) with trees := [{ fan := 2, ty := 6, op := 0, level := 0, result := 0, sync := 0 }, { fan := 2, ty := 6, op := 0, level := 0, result := 0, sync := 0 },
    { fan := 2, ty := 6, op := 0, level := 0, result := 0x40, sync := 0x80 }] }
  { ofMessage with pkg := { ofMessage.pkg with launches := [l], trees := [{ slot := 1, idx := 2, share := 0, low := 0, parts := parts, rounds := 0 }] } }

theorem ready_atTree (l) (n : Nat) : Ready always 0 n (atTree l) := ⟨⟨rfl, rfl, rfl, fun _ => rfl, rfl⟩, rfl⟩

theorem wit_Treduce (decl : Bool) : ∃ (x : XOp) (s : State) (a : Activation) (me : Actor), (Instr.treduce x).wf = true ∧ s.core.act = some a
    ∧ (∃ aid off, a.src = .message aid off) ∧ s.core.self = some me ∧ gateFound x s ∧ Ready x.h.g x.wait.val (Instr.treduce x).bytes s ∧ (s.core.queue .e).length < 16
    ∧ (if decl then ∃ t d, s.treeOf a.slot me.wid (x.w2f 0 4) = some (t, d) ∧ d.ty = x.ty.val else s.treeOf a.slot me.wid (x.w2f 0 4) = none) := by
  cases decl
  · exact ⟨{ x0 with ty := 6, w2 := 3 }, atTree [], _, _, by decide, rfl, ⟨_, _, rfl⟩, rfl, by unfold gateFound; decide, ready_atTree _ _, by decide, rfl⟩
  · exact ⟨{ x0 with ty := 6, w2 := 2 }, atTree [], _, _, by decide, rfl, ⟨_, _, rfl⟩, rfl, by unfold gateFound; decide, ready_atTree _ _, by decide, _, _, rfl, rfl⟩

/-- An engine command over a record of the task. -/
def eHead (q : Queue) (sub : Nat) (s : State) : State := queued (recCmd q 12 sub { xl 2 with b := 2 } s) s

/-- One row of 32 bytes pushed. -/
def push1 (dst : Word) : State := rec1 0 (w1Of 2 16 0) 1 1 dst 0 runs

theorem wit_PushResult_local : ∃ (k : Cmd) (r : LRec) (s : State), EngineHead .e k r s ∧ k.sub ≤ 1 ∧ r.e1 = 1 ∧ r.e2 = 1 ∧ (k.dest r).e1 = 1 ∧ (k.dest r).e2 = 1
    ∧ (∃ off, placeOf s (k.dest r).base = some (.loc off)) ∧ (k.dest r).flagS = false :=
  ⟨_, _, eHead .e 0 (push1 0x3FE0), ⟨rfl, rfl, rfl, by decide, by decide, by decide, ⟨rfl, by decide⟩, rfl, rfl⟩, by decide, by decide, by decide, by decide, by decide, ⟨_, rfl⟩, by decide⟩
/-- The same beside actor 5, with page 0 of the interleaved view in the cache. -/
def pushTo1 (dst : Word) : State :=
  { rec1 0 (w1Of 2 16 0) 1 1 dst 0 (besideActor 0) with grove := (mapped 0).grove }
theorem wit_PushResult_posted : ∃ (k : Cmd) (r : LRec) (s : State), EngineHead .e k r s ∧ k.sub ≤ 1 ∧ r.e1 = 1 ∧ r.e2 = 1 ∧ (k.dest r).e1 = 1 ∧ (k.dest r).e2 = 1
    ∧ ∃ near size addr pa, pushTo s (k.dest r).base r.rowLen near size addr pa :=
  ⟨_, _, eHead .e 0 (pushTo1 0x2000000000BFFFE0), ⟨rfl, rfl, rfl, by decide, by decide, by decide, ⟨rfl, by decide⟩, rfl, rfl⟩, by decide, by decide, by decide, by decide, by decide,
    _, _, _, _, .inl ⟨_, rfl, by decide, rfl, rfl, rfl, rfl⟩⟩
theorem wit_PushResult_inter : ∃ (k : Cmd) (r : LRec) (s : State), EngineHead .e k r s ∧ k.sub ≤ 1 ∧ r.e1 = 1 ∧ r.e2 = 1 ∧ (k.dest r).e1 = 1 ∧ (k.dest r).e2 = 1
    ∧ ∃ near size addr pa, pushTo s (k.dest r).base r.rowLen near size addr pa :=
  ⟨_, _, eHead .e 0 (pushTo1 0x100000000000FFE0), ⟨rfl, rfl, rfl, by decide, by decide, by decide, ⟨rfl, by decide⟩, rfl, rfl⟩, by decide, by decide, by decide, by decide, by decide,
    _, _, _, _, .inr (.inl ⟨_, _, rfl, by decide, rfl, rfl, rfl, rfl, rfl, rfl⟩)⟩
theorem wit_PushResult_actor : ∃ (k : Cmd) (r : LRec) (s : State), EngineHead .e k r s ∧ k.sub ≤ 1 ∧ r.e1 = 1 ∧ r.e2 = 1 ∧ (k.dest r).e1 = 1 ∧ (k.dest r).e2 = 1
    ∧ ∃ near size addr pa, pushTo s (k.dest r).base r.rowLen near size addr pa :=
  ⟨_, _, eHead .e 0 (pushTo1 (actorAddr 5 0x50)), ⟨rfl, rfl, rfl, by decide, by decide, by decide, ⟨rfl, by decide⟩, rfl, rfl⟩, by decide, by decide, by decide, by decide, by decide,
    _, _, _, _, .inr (.inr ⟨none, 5, 0x50, by decide +kernel, by decide, rfl, rfl, rfl, rfl⟩)⟩
/-- The tables in page 0 of the interleaved view. -/
def tablesIn (indexed : Bool) : State := ({ tables indexed with grove := (mapped 0).grove }).mapRegs fun r => r.ws 8 0x1000000000000100
theorem wit_TableResult_inter (sub : Fin 2) : ∃ (k : Cmd) (r : LRec) (s : State) (va : Nat → Nat) (e : TlbEntry), EngineHead .g k r s ∧ k.counted = [] ∧ r.flagS = false
    ∧ tableIn k r s va e ∧ (r.flagI = true → ∀ i < r.e1, tableRow k r s.core i < r.e2)
    ∧ k.sub = sub.val + 2 ∧ e.w = true ∧ ∃ v, placeOf s r.base = some (.inter v) := by
  match sub with
  | 0 => exact ⟨_, _, eHead .g 2 (tablesIn true), fun _ => 0x100, { tenant := 0, vpage := 0, big := false, pbase := 0, w := true, x := true }, ⟨rfl, rfl, rfl, by decide, by decide, by decide, ⟨rfl, by decide⟩, rfl, rfl⟩, rfl, by decide,
      by unfold tableIn; decide +kernel, by decide, rfl, rfl, ⟨_, rfl⟩⟩
  | 1 => exact ⟨_, _, eHead .g 3 (tablesIn true), fun _ => 0x100, { tenant := 0, vpage := 0, big := false, pbase := 0, w := true, x := true }, ⟨rfl, rfl, rfl, by decide, by decide, by decide, ⟨rfl, by decide⟩, rfl, rfl⟩, rfl, by decide,
      by unfold tableIn; decide +kernel, by decide, rfl, rfl, ⟨_, rfl⟩⟩
theorem wit_TableResult (sub : Fin 2) : ∃ (k : Cmd) (r : LRec) (s : State) (pa : Nat → Nat), EngineHead .g k r s ∧ k.counted = [] ∧ r.flagS = false
    ∧ (∀ i < r.e1, placeOf s (tableAddr k r s.core i) = some (.linear (pa i))) ∧ (r.flagI = true → ∀ i < r.e1, tableRow k r s.core i < r.e2)
    ∧ k.sub = sub.val + 2 ∧ (s.core.queue .g).head? = some k ∧ s.core.startable k = true ∧ gateOpen s.core k = true
    ∧ (∃ q, placeOf s r.base = some (.linear q)) ∧ ∀ i < r.e1, (tableAddr k r s.core i).toNat % 2 ^ 24 + r.rowLen ≤ 0xC00000 := by
  match sub with
  | 0 => exact ⟨_, _, eHead .g 2 (tables true), fun _ => runs.core.sliceBase, ⟨rfl, rfl, rfl, by decide, by decide, by decide, ⟨rfl, by decide⟩, rfl, rfl⟩, rfl, by decide,
      by decide, by decide, rfl, rfl, by decide, by decide, ⟨_, rfl⟩, by decide⟩
  | 1 => exact ⟨_, _, eHead .g 3 (tables true), fun _ => runs.core.sliceBase, ⟨rfl, rfl, rfl, by decide, by decide, by decide, ⟨rfl, by decide⟩, rfl, rfl⟩, rfl, by decide,
      by decide, by decide, rfl, rfl, by decide, by decide, ⟨_, rfl⟩, by decide⟩
/-- The indexed table whose first index is one past the table. -/
def badTable : State := (tables true).mapCore fun c => c.writeScratch 0x3C300 [4]
theorem wit_TableResult_idxr : ∃ (k : Cmd) (r : LRec) (s : State) (i : Nat), EngineHead .g k r s ∧ (k.sub = 2 ∨ k.sub = 3) ∧ r.flagI = true ∧ i < r.e1
    ∧ r.e2 ≤ tableRow k r s.core i ∧ ∀ j < i, tableRow k r s.core j < r.e2 :=
  ⟨_, _, eHead .g 2 badTable, 0, ⟨rfl, rfl, rfl, by decide, by decide, by decide, ⟨rfl, by decide⟩, by decide, rfl⟩, .inl rfl, by decide, by decide, by decide +kernel, by decide⟩
theorem wit_TreeResult_commit : ∃ (k : Cmd) (s : State) (t : TreeInst) (d : TreeDecl), s.ready .e = some k ∧ k.cls = 12 ∧ k.sub = 4 ∧ s.core.calm ∧ vPending s.core k k.x.a = false
    ∧ s.treeOf k.slot k.wid (k.x.w2f 0 4) = some (t, d) :=
  ⟨_, queued { q := .e, cls := 12, sub := 4, x := { x0 with ty := 6, w2 := 2 } } (atTree []), _, _, rfl, rfl, rfl, ⟨rfl, by decide⟩, by decide, rfl⟩
theorem wit_TreeResult_round : ∃ (i : Nat) (l : List VWord) (s : State) (tr : TreeInst) (n : Launch) (d : TreeDecl) (root : DirEnt) (a : Actor),
    s.pkg.trees.find? (fun t => t.idx == i && !s.itemsDue t.slot t.low t.share && (t.parts.any fun p => p.1 == t.rounds) && partsAgree s t (s.treeMembers t) l) = some tr ∧ s.pkg.launch tr.slot = some n
    ∧ n.trees[i]? = some d ∧ (s.treeMembers tr).head? = some root ∧ residentAt root.aid s.cores 0 = some (0, a) ∧ s.core.calm ∧ s.core.scratch.wf = true
    ∧ (d.result + 64 ≤ d.sync ∨ d.sync + 16 ≤ d.result) :=
  ⟨2, [7], atTree [(0, 0, 7)], { slot := 1, idx := 2, share := 0, low := 0, parts := [(0, 0, 7)], rounds := 0 }, _, _, _, _, by decide +kernel, rfl, rfl, rfl, rfl, ⟨rfl, by decide⟩, rfl, .inl (by decide)⟩
/-! ### Witnesses: scans and law state -/

/-- An addition on one state component, whose result is its output. -/
def opAdd : OpSlot :=
  { valid := true, nst := 1, nin := 1, out := 1, ops := (Vector.replicate 16 {}).set 0 { op := 2, c := 0, b := 4, a := 0, t := 0 } }

/-- The activation of actor 5, a member of chain 0 of launch 1 with the place given, with an operator in slot 2. -/
def chained (r : Option Ride) : State :=
  let l : Launch := launch1 { hdrPol 0 with ride := [some 0, none] }
  let s := ofMessage.mapCore fun c => { (c.mapActor 5 fun a => { a with rides := a.rides.set 0 r }) with slots := c.slots.set 2 opAdd }
  { s with pkg := { s.pkg with launches := [l] } }

/-- The same with a tile of rows of 16 lanes in record 1: input at 0, output at 0x800, carry record at 0xC00. -/
def scans (r : Option Ride) (steps : Word) : State := (rec1 0 (w1Of 8 16 0) steps 1 0x800 0xC00 (chained r)).mapRegs fun r => r.ws 12 64

/-- A place on a chain. -/
def place0 (pos : Nat) (hop : List (List (List (BitVec 32)))) : Ride := { pos := pos, len := 4, rounds := 0, arrived := 0, released := 0, hop := hop }

theorem ready_scans (r) (n : Word) (k : Nat) : Ready always 0 k (scans r n) := ⟨⟨rfl, rfl, rfl, fun _ => rfl, rfl⟩, rfl⟩
theorem ready_chained (r) (k : Nat) : Ready always 0 k (chained r) := ⟨⟨rfl, rfl, rfl, fun _ => rfl, rfl⟩, rfl⟩

/-- A scan instruction of record 1 and slot 2. -/
def xs (w2 : BitVec 32) : XOp := { xl 8 with w2 := w2 }

theorem wit_Scop : ∃ (i : Instr) (x : XOp) (f : Regs → OpSlot → OpSlot) (s : State), scopRow i = some (x, f) ∧ i.wf = true ∧ Ready x.h.g x.wait.val i.bytes s :=
  ⟨.scophdr { x0 with w2 := 0xC1110007 }, _, _, runs, rfl, by decide, ready_runs _⟩
theorem wit_Scan_issue (chain : Bool) : ∃ (i : Instr) (x : XOp) (sub : Nat) (s : State) (rd wr : List Range), scanRow i = some (x, sub) ∧ i.wf = true
    ∧ (sub = 2 → (s.core.myRide (x.w2f 5 1)).isSome = true) ∧ scanLegal (s.core.regs.lrec x.l.val) ∧ Ready x.h.g x.wait.val i.bytes s ∧ (s.core.queue .s).length < 16
    ∧ (let r := s.core.regs.lrec x.l.val
       let o := s.core.slots[(Fin.ofNat 8 (x.w2f 0 3) : Fin 8)]
       o.ok = true ∧ r.e2 = o.nin ∧ scanOverlap r { r with base := r.aux0, e2 := o.outs.length } = false
         ∧ scanRanges x r { r with base := r.aux0, e2 := o.outs.length } s = .ok (rd, wr) ∧ r.empty = false) ∧ (chain = true → sub = 2) := by
  cases chain
  · exact ⟨.scan (xs 2), _, _, scans none 2, _, _, rfl, by decide, (fun h => absurd h (by decide)), by unfold scanLegal; decide, ready_scans _ _ _, by decide,
      ⟨by decide, by decide, by decide, rfl, by decide⟩, fun h => absurd h (by decide)⟩
  · exact ⟨.scanc (xs 0xA), _, _, scans (some (place0 0 [])) 2, _, _, rfl, by decide, (fun _ => by decide), by unfold scanLegal; decide, ready_scans _ _ _, by decide,
      ⟨by decide, by decide, by decide, rfl, by decide⟩, fun _ => rfl⟩
theorem wit_Scan_empty : ∃ (i : Instr) (x : XOp) (sub : Nat) (s : State), scanRow i = some (x, sub) ∧ i.wf = true ∧ (sub = 2 → (s.core.myRide (x.w2f 5 1)).isSome = true)
    ∧ scanLegal (s.core.regs.lrec x.l.val) ∧ (s.core.regs.lrec x.l.val).empty = true ∧ Ready x.h.g x.wait.val i.bytes s ∧ (s.core.queue .s).length < 16
    ∧ (s.core.slots[(Fin.ofNat 8 (x.w2f 0 3) : Fin 8)]).ok = true ∧ (s.core.regs.lrec x.l.val).e2 = (s.core.slots[(Fin.ofNat 8 (x.w2f 0 3) : Fin 8)]).nin :=
  ⟨.scanc (xs 0xA), _, _, scans (some (place0 0 [])) 0, rfl, by decide, (fun _ => by decide), by unfold scanLegal; decide, by decide, ready_scans _ _ _, by decide, by decide, by decide⟩
theorem wit_Scan_slot : ∃ (i : Instr) (x : XOp) (sub : Nat) (s : State), scanRow i = some (x, sub) ∧ i.wf = true
    ∧ (sub = 2 → (s.core.myRide (x.w2f 5 1)).isSome = true) ∧ scanLegal (s.core.regs.lrec x.l.val) ∧ Issues x.h.g x.wait.val s
    ∧ (s.core.slots[(Fin.ofNat 8 (x.w2f 0 3) : Fin 8)]).ok = false :=
  ⟨.scan (xs 3), _, _, scans none 2, rfl, by decide, (fun h => absurd h (by decide)), by unfold scanLegal; decide, (ready_scans _ _ 12).toIssues, by decide⟩
theorem wit_Scan_nodecl : ∃ (i : Instr) (x : XOp) (ch : Nat) (s : State), ((i = .scanc x ∧ ch = x.w2f 5 1) ∨ (i = .rbar x ∧ ch = x.w2f 0 1)) ∧ i.wf = true
    ∧ Issues x.h.g x.wait.val s ∧ s.core.myRide ch = none :=
  ⟨.rbar { x0 with w2 := 1 }, _, _, chained none, .inr ⟨rfl, rfl⟩, by decide, (ready_chained _ 12).toIssues, rfl⟩
theorem wit_Ride (member : Bool) : ∃ (x : XOp) (s : State) (act : Activation) (me : Actor) (h : Header) (lv : Nat), (Instr.ride x).wf = true
    ∧ Ready x.h.g x.wait.val (Instr.ride x).bytes s ∧ s.core.act = some act ∧ (∃ aid off, act.src = .message aid off) ∧ s.core.self = some me
    ∧ s.rideLevel me.slot (x.w2f 0 1) = some (h, lv) ∧ h.item me.wid (s.core.regs.gangix == 0) = true ∧ (me.ride (x.w2f 0 1)).isSome = member := by
  cases member
  · exact ⟨x0, chained none, _, _, _, _, by decide, ready_chained _ _, rfl, ⟨_, _, rfl⟩, rfl, rfl, by decide, rfl⟩
  · exact ⟨x0, chained (some (place0 0 [])), _, _, _, _, by decide, ready_chained _ _, rfl, ⟨_, _, rfl⟩, rfl, rfl, by decide, rfl⟩
theorem wit_Rbar (arrived : Bool) : ∃ (x : XOp) (s : State) (r : Ride), (Instr.rbar x).wf = true ∧ Ready x.h.g x.wait.val (Instr.rbar x).bytes s
    ∧ s.core.myRide (x.w2f 0 1) = some r
    ∧ (if arrived then ∃ p, s.core.rbarPhase (x.w2f 0 1) = some p ∧ p ≤ r.released
       else s.core.rbarPhase (x.w2f 0 1) = none ∧ s.core.queue .s = [] ∧ r.released ≤ r.arrived) := by
  cases arrived
  · exact ⟨x0, chained (some (place0 0 [])), _, by decide, ready_chained _ _, rfl, rfl, rfl, by decide⟩
  · exact ⟨x0, (chained (some { place0 0 [] with arrived := 1, released := 1 })).mapCore fun c => c.setRbar 0 (some 1), _, by decide,
      ⟨⟨rfl, rfl, rfl, fun _ => rfl, rfl⟩, rfl⟩, rfl, 1, rfl, by decide⟩
theorem wit_Scwait (busy : Bool) : ∃ (x : XOp) (s : State), (Instr.scwait x).wf = true ∧ Ready x.h.g x.wait.val (Instr.scwait x).bytes s
    ∧ decide (s.core.queue .s ≠ []) = busy := by
  cases busy
  · exact ⟨{ x0 with d := 3 }, runs, by decide, ready_runs _, by decide⟩
  · exact ⟨{ x0 with d := 3 }, queued { q := .s, cls := 13, sub := 1, x := xs 2 } runs, by decide, ⟨⟨rfl, rfl, rfl, fun _ => rfl, rfl⟩, rfl⟩, by decide⟩

/-- A scan of so many steps queued over record 1 with the operator of slot 2, its work as it stands. -/
def scanning (sub : Nat) (r : Option Ride) (steps : Word := 2) (w : Option ScanWork := none) : State :=
  (queued { recCmd .s 13 sub (xs (if sub = 1 then 2 else 0xA)) (scans r steps) with op := some opAdd } (scans r steps)).mapCore fun c =>
    { c with cmds := c.cmds.map fun k => { k with scan := w } }

theorem apart (k : Cmd) (r : LRec) (o : OpSlot) (c : Bool) (h1 : r.e1 = 2) (h0 : o.outs.length = 1)
    (ha : k.tile { r with base := r.aux0 } 0 0 + 4 * r.e0 ≤ k.tile { r with base := r.aux0 } 1 0)
    (hc : k.tile { r with base := r.aux0 } 1 0 + 4 * r.e0 ≤ k.base + r.aux1.toNat) : scanApart k r o c := by
  refine ⟨fun s q s' q' a b a' b' ne => ?_, fun _ s q a b => ?_⟩
  · rw [h1] at a a'; rw [h0] at b b'
    obtain rfl : q = 0 := by omega
    obtain rfl : q' = 0 := by omega
    have h : (s = 0 ∧ s' = 0) ∨ (s = 1 ∧ s' = 1) ∨ (s = 0 ∧ s' = 1) ∨ (s = 1 ∧ s' = 0) := by omega
    obtain ⟨rfl, rfl⟩ | ⟨rfl, rfl⟩ | ⟨rfl, rfl⟩ | ⟨rfl, rfl⟩ := h
    · exact absurd rfl ne
    · exact absurd rfl ne
    · exact .inl ha
    · exact .inr ha
  · rw [h1] at a; rw [h0] at b
    obtain rfl : q = 0 := by omega
    have h : s = 0 ∨ s = 1 := by omega
    obtain rfl | rfl := h
    · exact .inl (by omega)
    · exact .inl hc

theorem apartEmpty (k : Cmd) (r : LRec) (o : OpSlot) (c : Bool) (h : r.e1 = 0) : scanApart k r o c :=
  ⟨fun s q s' q' a => by omega, fun _ s q a => by omega⟩

/-- What every clause about a scan's commit asks. -/
def scanAsks (k : Cmd) (r : LRec) (o : OpSlot) (s : State) : Prop :=
  s.ready .s = some k ∧ k.cls = 13 ∧ k.lrec = some r ∧ k.op = some o ∧ scanLegal r ∧ r.e2 ≤ o.nst ∧ o.nst ≤ 4 ∧ s.core.calm ∧ s.core.scratch.wf = true
    ∧ scanApart k r o (k.x.w2f 3 1 == 1)

theorem wit_ScanResults_scan (empty : Bool) : ∃ k r o s, scanAsks k r o s ∧ k.sub = 1 ∧ r.empty = empty := by
  cases empty
  · exact ⟨_, _, _, scanning 1 none, ⟨rfl, rfl, rfl, rfl, by unfold scanLegal; decide, by decide, by decide, ⟨rfl, by decide⟩, rfl,
      apart _ _ _ _ (by decide) (by decide) (by decide) (by decide)⟩, rfl, by decide⟩
  · exact ⟨_, _, _, scanning 1 none 0, ⟨rfl, rfl, rfl, rfl, by unfold scanLegal; decide, by decide, by decide, ⟨rfl, by decide⟩, rfl, apartEmpty _ _ _ _ (by decide)⟩, rfl, by decide⟩
theorem wit_ScanResults_begins (empty : Bool) : ∃ k r o s a rd, scanAsks k r o s ∧ k.sub = 2 ∧ s.core.actor k.aid = some a ∧ a.ride (k.x.w2f 5 1) = some rd ∧ k.scan = none
    ∧ r.empty = empty := by
  cases empty
  · exact ⟨_, _, _, scanning 2 (some (place0 0 [])), _, _, ⟨rfl, rfl, rfl, rfl, by unfold scanLegal; decide, by decide, by decide, ⟨rfl, by decide⟩, rfl,
      apart _ _ _ _ (by decide) (by decide) (by decide) (by decide)⟩, rfl, rfl, rfl, rfl, by decide⟩
  · exact ⟨_, _, _, scanning 2 (some (place0 0 [])) 0, _, _, ⟨rfl, rfl, rfl, rfl, by unfold scanLegal; decide, by decide, by decide, ⟨rfl, by decide⟩, rfl,
      apartEmpty _ _ _ _ (by decide)⟩, rfl, rfl, rfl, rfl, by decide⟩
/-- The work of a scan after pass 1, over the zeros of its tile. -/
def work0 : ScanWork := { lanes := List.replicate 16 (2, [[0], [0]]), fl := noFlags }
theorem wit_ScanResults_carries (first : Bool) : ∃ k r o s a rd w, scanAsks k r o s ∧ k.sub = 2 ∧ s.core.actor k.aid = some a ∧ a.ride (k.x.w2f 5 1) = some rd ∧ k.scan = some w
    ∧ w.cin = none ∧ rideWaits s k = false ∧ decide (rd.pos = 0) = first := by
  cases first
  · exact ⟨_, _, _, scanning 2 (some (place0 3 [[]])) 2 (some work0), _, _, _, ⟨rfl, rfl, rfl, rfl, by unfold scanLegal; decide, by decide, by decide, ⟨rfl, by decide⟩, rfl,
      apart _ _ _ _ (by decide) (by decide) (by decide) (by decide)⟩, rfl, rfl, rfl, rfl, rfl, by decide +kernel, by decide⟩
  · exact ⟨_, _, _, scanning 2 (some (place0 0 [])) 2 (some work0), _, _, _, ⟨rfl, rfl, rfl, rfl, by unfold scanLegal; decide, by decide, by decide, ⟨rfl, by decide⟩, rfl,
      apart _ _ _ _ (by decide) (by decide) (by decide) (by decide)⟩, rfl, rfl, rfl, rfl, rfl, by decide +kernel, by decide⟩
theorem wit_ScanResults_ends : ∃ k r o s a rd w cin, scanAsks k r o s ∧ k.sub = 2 ∧ s.core.actor k.aid = some a ∧ a.ride (k.x.w2f 5 1) = some rd ∧ k.scan = some w ∧ w.cin = some cin
    ∧ r.empty = false ∧ ScanPrefixes k r o s w.lanes := by
  refine ⟨_, _, _, scanning 2 (some (place0 0 [])) 2 (some { work0 with cin := some (List.replicate 16 [0]) }), _, _, _, _, ⟨rfl, rfl, rfl, rfl, by unfold scanLegal; decide, by decide, by decide,
    ⟨rfl, by decide⟩, rfl, apart _ _ _ _ (by decide) (by decide) (by decide) (by decide)⟩, rfl, rfl, rfl, rfl, rfl, by decide, by decide, fun l h => ⟨(2, [[0], [0]]), ?_⟩⟩
  revert l
  decide +kernel
/-- Actor 5 as member 3 of its chain, its three predecessors on another grove. -/
def third (r : Option Ride) : State :=
  let s := (chained r).mapCore fun c => c.mapActor 5 fun a => { a with wid := 3 }
  { s with pkg := { s.pkg with dir := { aid := 5, wid := 3, slot := 1, at_ := .here, ringK := 10 } ::
      ((List.range 3).map fun j => { aid := BitVec.ofNat 24 (10 + j), wid := BitVec.ofNat 64 j, slot := 1, at_ := .away false, ringK := 10 }) } }

theorem wit_ScanResults_arrival (rode : Bool) : ∃ (aid : Nat) (ch : Fin 2) (carry : List (List (BitVec 32))) (s : State) (a : Actor) (h : Header) (lv : Nat),
    s.heldActors.find? (fun b => b.aid == BitVec.ofNat 24 aid) = some a ∧ s.rideLevel a.slot ch = some (h, lv) ∧ h.item a.wid false = true ∧ h.chainPos lv a.wid ≠ 0 ∧ carry.length = 16
    ∧ (a.hopOf ch).length < 4 ∧ s.holdsPredecessor a ch = false ∧ s.headless a ch = false ∧ (a.ride ch).isSome = rode := by
  cases rode
  · exact ⟨5, 0, List.replicate 16 [], third none, _, _, _, rfl, rfl, by decide +kernel, by decide +kernel, by decide, by decide, by decide +kernel, by decide +kernel, rfl⟩
  · exact ⟨5, 0, List.replicate 16 [], third (some (place0 3 [[], [], []])), _, _, _, rfl, rfl, by decide +kernel, by decide +kernel, by decide, by decide, by decide +kernel, by decide +kernel, rfl⟩
theorem wit_ScanResults_release : ∃ (aid : Nat) (ch : Fin 2) (s : State) (a : Actor) (r : Ride) (h : Header) (lv : Nat), s.rider (BitVec.ofNat 24 aid) ch = some (a, r)
    ∧ s.rideLevel a.slot ch = some (h, lv)
    ∧ ∀ w ∈ h.chainWids lv a.wid, s.passes a.slot w = true ∨ ∃ e, s.actorOfWid a.slot w = some e
        ∧ ∀ b, s.heldActors.find? (fun c => c.aid == e.aid) = some b → b.hopOf ch = [] ∧ (w % h.gang = 0 → ∃ q, b.ride ch = some q ∧ r.released < q.arrived) := by
  refine ⟨5, 0, third (some { place0 3 [] with arrived := 1 }), _, _, _, _, rfl, rfl, fun w h => ?_⟩
  obtain rfl | rfl | rfl | rfl : w = 0 ∨ w = 1 ∨ w = 2 ∨ w = 3 := by
    have e : (Header.chainWids (hdrPol 0) 0 3) = [0, 1, 2, 3] := by decide +kernel
    have h : w ∈ Header.chainWids (hdrPol 0) 0 3 := h
    rw [e] at h
    simpa using h
  · exact .inr ⟨_, rfl, fun b h => nomatch h⟩
  · exact .inr ⟨_, rfl, fun b h => nomatch h⟩
  · exact .inr ⟨_, rfl, fun b h => nomatch h⟩
  · refine .inr ⟨_, rfl, fun b h => ?_⟩
    obtain rfl := Option.some.inj h
    exact ⟨rfl, fun _ => ⟨_, rfl, by decide⟩⟩

/-- A law instruction at s9 with b in s2. -/
def xw (w2 : BitVec 32) : XOp := { x0 with ty := 8, a := 9, b := 2, d := 3, w2 := w2 }

theorem wit_Law_issue (wide : Bool) : ∃ (i : Instr) (x : XOp) (sub n : Nat) (wr : Bool) (lanes : Nat) (dst : List SReg) (s : State), lawRow i = some (x, sub, n, wr, lanes, dst) ∧ i.wf = true
    ∧ (let ea : Word := s.core.regs.rs x.a + (x.w2.extractLsb' 16 16).signExtend 64
       Ready x.h.g x.wait.val i.bytes s ∧ (s.core.queue .l).length < 16 ∧ ea.toNat < 2 ^ 60 ∧ ea.toNat % n = 0 ∧ ea.toNat + n ≤ s.core.span.2) ∧ n = (if wide then 16 else 8) := by
  cases wide
  · exact ⟨.ladd (xw 0xFFF80000), _, _, _, _, _, _, at9 0x4000, rfl, by decide, ⟨ready_at9 _ _, by decide⟩, rfl⟩
  · exact ⟨.lld { xw 0x00000001 with b := 0, d := 30 }, _, _, _, _, _, _, at9 0x3FF0, rfl, by decide, ⟨ready_at9 _ _, by decide⟩, rfl⟩
theorem wit_Law_faults (f : Fin 3) : ∃ (i : Instr) (x : XOp) (sub n : Nat) (wr : Bool) (lanes : Nat) (dst : List SReg) (s : State), lawRow i = some (x, sub, n, wr, lanes, dst) ∧ i.wf = true
    ∧ Issues x.h.g x.wait.val s
    ∧ (let ea : Word := s.core.regs.rs x.a + (x.w2.extractLsb' 16 16).signExtend 64
       match f with
       | 0 => ¬(ea.toNat < 2 ^ 60)
       | 1 => ea.toNat < 2 ^ 60 ∧ ea.toNat % n ≠ 0
       | 2 => ea.toNat < 2 ^ 60 ∧ ea.toNat % n = 0 ∧ s.core.span.2 < ea.toNat + n) := by
  match f with
  | 0 => exact ⟨.lset { xw 0 with ty := 0, b := 0, d := 0 }, _, _, _, _, _, _, at9 0x1000000000000000, rfl, by decide, (ready_at9 _ 12).toIssues, by decide⟩
  | 1 => exact ⟨.lset { xw 0 with ty := 0, b := 0, d := 0 }, _, _, _, _, _, _, at9 0x3FF0, rfl, by decide, (ready_at9 _ 12).toIssues, by decide⟩
  | 2 => exact ⟨.lget { xw 0 with ty := 0, b := 0, d := 0 }, _, _, _, _, _, _, at9 0x4000, rfl, by decide, (ready_at9 _ 12).toIssues, by decide⟩
theorem wit_Law_plain : ∃ (i : Instr) (x : XOp) (sub : Nat) (dst : List SReg) (s : State), lawPlain i = some (x, sub, dst) ∧ i.wf = true ∧ Ready x.h.g x.wait.val i.bytes s
    ∧ (s.core.queue .l).length < 16 :=
  ⟨.lregf { x0 with a := 9, w2 := 2 }, _, _, _, runs, rfl, by decide, ready_runs _, by decide⟩

/-- The task with a base in s9 and a length in s2. -/
def region (base len : Word) : State := (at9 base).mapRegs fun r => r.ws 2 len
theorem ready_region (b l : Word) (n : Nat) : Ready always 0 n (region b l) := ⟨⟨rfl, rfl, rfl, fun _ => rfl, rfl⟩, rfl⟩

theorem wit_Lreg (f : Fin 4) : ∃ (x : XOp) (s : State), (Instr.lreg x).wf = true ∧ Ready x.h.g x.wait.val (Instr.lreg x).bytes s ∧ (s.core.queue .l).length < 16
    ∧ (let base := s.core.regs.rs x.a
       let len := s.core.regs.rs x.b
       let aligned : Prop := base.toNat % 8 = 0 ∧ len.toNat % 8 = 0
       let inside : Prop := len ≠ 0 ∧ base.toNat + len.toNat ≤ s.core.span.2
       match f with
       | 0 => base.toNat < 2 ^ 60 ∧ aligned ∧ inside
       | 1 => ¬(base.toNat < 2 ^ 60)
       | 2 => base.toNat < 2 ^ 60 ∧ ¬aligned
       | 3 => base.toNat < 2 ^ 60 ∧ aligned ∧ ¬inside) := by
  match f with
  | 0 => exact ⟨{ xw 0 with ty := 0 }, region 0x3FF8 8, by decide, ready_region _ _ _, by decide⟩
  | 1 => exact ⟨{ xw 0 with ty := 0 }, region 0x1000000000000000 8, by decide, ready_region _ _ _, by decide⟩
  | 2 => exact ⟨{ xw 0 with ty := 0 }, region 0x3FF8 4, by decide, ready_region _ _ _, by decide⟩
  | 3 => exact ⟨{ xw 0 with ty := 0 }, region 0x3FF8 0, by decide, ready_region _ _ _, by decide⟩

/-- A law command at the local address of s9, of an actor's activation with its grove. -/
def lawQueued (sub : Nat) (x : XOp) (a b : Word) (f : Grove → Grove) : State :=
  let s := ofMessage.mapRegs fun r => (r.ws 9 a).ws 2 b
  let s : State := { s with grove := f s.grove }
  queued { q := .l, cls := 14, sub := sub, x := x } s

/-- The table's entry 0 with a kind. -/
def kind0 (n : Nat) (g : Grove) : Grove := { g with lawTab := g.lawTab.set 0 (BitVec.ofNat 256 n) }

theorem wit_LawWord (kind : Fin 4) (rd : Bool) : ∃ (k : Cmd) (s : State), LawHead k k.sub s ∧ k.sub = (if rd then 2 else 1)
    ∧ (let ea : Word := k.sa + (k.x.w2.extractLsb' 16 16).signExtend 64
       (lawOf s.grove.lawTab[(Fin.ofNat 256 (s.core.word (k.base + ea.toNat)).toNat : Fin 256)]).wide = decide (1 < kind.val)
         ∧ k.x.w2.getLsbD 0 = decide (kind.val % 2 = 1) ∧ s.grove.crossings.length < 16) := by
  match kind, rd with
  | 0, false => exact ⟨_, lawQueued 1 (xw 0) 0x100 5 (kind0 1), ⟨rfl, rfl, rfl, ⟨rfl, by decide⟩, rfl⟩, rfl, by decide +kernel⟩
  | 1, false => exact ⟨_, lawQueued 1 (xw 1) 0x100 5 (kind0 1), ⟨rfl, rfl, rfl, ⟨rfl, by decide⟩, rfl⟩, rfl, by decide +kernel⟩
  | 2, false => exact ⟨_, lawQueued 1 (xw 0) 0x100 5 (kind0 3), ⟨rfl, rfl, rfl, ⟨rfl, by decide⟩, rfl⟩, rfl, by decide +kernel⟩
  | 3, false => exact ⟨_, lawQueued 1 (xw 1) 0x100 5 (kind0 3), ⟨rfl, rfl, rfl, ⟨rfl, by decide⟩, rfl⟩, rfl, by decide +kernel⟩
  | 0, true => exact ⟨_, lawQueued 2 (xw 0) 0x100 5 (kind0 1), ⟨rfl, rfl, rfl, ⟨rfl, by decide⟩, rfl⟩, rfl, by decide +kernel⟩
  | 1, true => exact ⟨_, lawQueued 2 (xw 1) 0x100 5 (kind0 1), ⟨rfl, rfl, rfl, ⟨rfl, by decide⟩, rfl⟩, rfl, by decide +kernel⟩
  | 2, true => exact ⟨_, lawQueued 2 (xw 0) 0x100 5 (kind0 3), ⟨rfl, rfl, rfl, ⟨rfl, by decide⟩, rfl⟩, rfl, by decide +kernel⟩
  | 3, true => exact ⟨_, lawQueued 2 (xw 1) 0x100 5 (kind0 3), ⟨rfl, rfl, rfl, ⟨rfl, by decide⟩, rfl⟩, rfl, by decide +kernel⟩

theorem wit_LawTable_lset (ok : Bool) : ∃ (k : Cmd) (s : State), LawHead k 4 s
    ∧ lawOk (BitVec.ofNat 256 (leNat (s.core.readScratch (k.base + (k.sa + (k.x.w2.extractLsb' 16 16).signExtend 64 : Word).toNat) 32))) = ok := by
  cases ok
  · exact ⟨_, (lawQueued 4 (xw 0) 0x100 5 id).mapCore fun c => c.writeScratch 0x1100 [0x10], ⟨rfl, rfl, rfl, ⟨rfl, by decide⟩, by decide⟩, by decide +kernel⟩
  · exact ⟨_, lawQueued 4 (xw 0) 0x100 5 id, ⟨rfl, rfl, rfl, ⟨rfl, by decide⟩, rfl⟩, by decide +kernel⟩
theorem wit_LawTable_lget : ∃ (k : Cmd) (s : State), LawHead k 5 s := ⟨_, lawQueued 5 (xw 0) 0x100 5 id, rfl, rfl, rfl, ⟨rfl, by decide⟩, rfl⟩
theorem wit_LawTable_ltick (n : Fin 4) : ∃ (k : Cmd) (s : State), LawHead k 6 s ∧
    (match n with
     | 0 => k.sa = 0
     | 1 => 1 ≤ k.sa.toNat ∧ k.sa.toNat ≤ 65536 ∧ s.grove.lawMode = .ltickOnly ∧ s.tickFree k.sa.toNat = true
     | 2 => 65536 < k.sa.toNat
     | 3 => k.sa ≠ 0 ∧ s.grove.lawMode ≠ .ltickOnly) := by
  match n with
  | 0 => exact ⟨_, lawQueued 6 (xw 0) 0 5 id, ⟨rfl, rfl, rfl, ⟨rfl, by decide⟩, rfl⟩, rfl⟩
  | 1 => exact ⟨_, lawQueued 6 (xw 0) 65536 5 fun g => { g with lawMode := .ltickOnly }, ⟨rfl, rfl, rfl, ⟨rfl, by decide⟩, rfl⟩, by decide, by decide, rfl, by decide +kernel⟩
  | 2 => exact ⟨_, lawQueued 6 (xw 0) 65537 5 id, ⟨rfl, rfl, rfl, ⟨rfl, by decide⟩, rfl⟩, by decide⟩
  | 3 => exact ⟨_, lawQueued 6 (xw 0) 1 5 fun g => { g with lawMode := .divider 1 }, ⟨rfl, rfl, rfl, ⟨rfl, by decide⟩, rfl⟩, by decide⟩
theorem wit_LawTable_lnow : ∃ (k : Cmd) (s : State), LawHead k 7 s := ⟨_, lawQueued 7 (xw 0) 0 5 id, rfl, rfl, rfl, ⟨rfl, by decide⟩, rfl⟩

/-- A sweep region of actor 5 on 64 bytes at 0x1100. -/
def sweep5 : Sweep := { core := 0, aid := 5, base := 0x1000, bytes := { lo := 0x1100, hi := 0x1140 } }

theorem wit_LawTable_lreg (f : Fin 4) : ∃ (k : Cmd) (s : State) (i : Fin 16), LawHead k 8 s ∧
    (match f with
     | 0 => k.x.w2.getLsbD 1 = false ∧ s.grove.sweeps[i] = none ∧ (∀ j < i, s.grove.sweeps[j] ≠ none) ∧ k.aid ≠ 0 ∧ (s.core.actor k.aid).isSome = true
     | 1 => k.x.w2.getLsbD 1 = false ∧ ∀ j : Fin 16, s.grove.sweeps[j] ≠ none
     | 2 => k.x.w2.getLsbD 1 = true ∧ i = Fin.ofNat 16 k.sa.toNat ∧ ∃ w, s.grove.sweeps[i] = some w ∧ w.aid = k.aid ∧ k.aid ≠ 0
     | 3 => k.x.w2.getLsbD 1 = true ∧ s.grove.sweeps[(Fin.ofNat 16 k.sa.toNat : Fin 16)] = none) := by
  match f with
  | 0 => exact ⟨_, lawQueued 8 (xw 0) 0x100 64 fun g => { g with sweeps := (Vector.replicate 16 (some sweep5)).set 15 none }, 15, ⟨rfl, rfl, rfl, ⟨rfl, by decide⟩, rfl⟩,
      rfl, rfl, by decide, by decide, rfl⟩
  | 1 => exact ⟨_, lawQueued 8 (xw 0) 0x100 64 fun g => { g with sweeps := Vector.replicate 16 (some sweep5) }, 0, ⟨rfl, rfl, rfl, ⟨rfl, by decide⟩, rfl⟩, rfl, by decide⟩
  | 2 => exact ⟨_, lawQueued 8 (xw 2) 15 0 fun g => { g with sweeps := Vector.replicate 16 (some sweep5) }, 15, ⟨rfl, rfl, rfl, ⟨rfl, by decide⟩, rfl⟩,
      rfl, by decide, _, rfl, rfl, by decide⟩
  | 3 => exact ⟨_, lawQueued 8 (xw 2) 15 0 id, 15, ⟨rfl, rfl, rfl, ⟨rfl, by decide⟩, rfl⟩, rfl, rfl⟩
theorem wit_LawTime_divider : ∃ (s : State) (d : Nat), s.grove.lawMode = .divider d := ⟨{ runs with grove := { runs.grove with lawMode := .divider 7 } }, 7, rfl⟩

/-- A grove at a time whose region 0 is actor 5's, on an entry of kind 0 without threshold. -/
def swept (now : BitVec 48) : State := { ofMessage with grove := { ofMessage.grove with lawnow := now, sweeps := (Vector.replicate 16 none).set 0 (some sweep5) } }

theorem wit_LawTime_sweep (old : Bool) : ∃ (off : Nat) (s : State) (w : Sweep), off < 2 ^ 18 ∧ s.core.ix = 0 ∧ s.core.scratch.wf = true ∧ w.core = 0 ∧ w.bytes.lo ≤ off ∧ off < w.bytes.hi
    ∧ off % 16 = 0 ∧ s.grove.sweeps[(0 : Fin 16)] = some w ∧ w.parked = none ∧ s.core.calm
    ∧ (let lo := s.core.word off
       let l := lawOf s.grove.lawTab[(Fin.ofNat 256 lo.toNat : Fin 256)]
       l.wide = false ∧ l.dir = 0 ∧ decide (2 ^ 21 ≤ (s.grove.lawnow.setWidth 23 - (lo >>> 9).setWidth 23).toNat) = old) := by
  cases old
  · exact ⟨0x1130, swept 0x1FFFFF, sweep5, by decide, rfl, rfl, rfl, by decide, by decide, by decide, rfl, rfl, ⟨rfl, by decide⟩, by decide +kernel⟩
  · exact ⟨0x1130, swept 0x200000, sweep5, by decide, rfl, rfl, rfl, by decide, by decide, by decide, rfl, rfl, ⟨rfl, by decide⟩, by decide +kernel⟩
theorem wit_LawTime_search : ∃ (x : Crossing) (l : List Crossing) (s : State), s.grove.crossings = x :: l :=
  ⟨{ lo := 0, hi := 0, entry := 0, age := 1, lawnow := 9, offset := 0, owner := 5, slot := 1, sweep := false }, [], { ofMessage with grove := { ofMessage.grove with
      crossings := [{ lo := 0, hi := 0, entry := 0, age := 1, lawnow := 9, offset := 0, owner := 5, slot := 1, sweep := false }] } }, rfl⟩
/-! ### Witnesses: actors, messages, near memory -/

/-- The activation of actor 5 with s9. -/
def actor9 (a : Word) : State := ofMessage.mapRegs fun r => r.ws 9 a

theorem ready_actor9 (a : Word) (n : Nat) : Ready always 0 n (actor9 a) := ⟨⟨rfl, rfl, rfl, fun _ => rfl, rfl⟩, rfl⟩

/-- An instruction of an actor, with s9. -/
def x9 (w2 : BitVec 32) : XOp := { x0 with a := 9, w2 := w2 }

theorem wit_Actor_self : ∃ i x ok c v f s a, selfRow i = some (x, ok, c, v, f) ∧ i.wf = true ∧ Ready x.h.g x.wait.val i.bytes s ∧ s.core.self = some a ∧ ok s.core.regs a :=
  ⟨.hset { x9 31 with b := 2 }, _, _, _, _, _, actor9 0x1000, _, rfl, by decide, ready_actor9 _ _, rfl, by decide⟩
theorem wit_Actor_window : ∃ i x ok c v f s a, selfRow i = some (x, ok, c, v, f) ∧ i.wf = true ∧ Ready x.h.g x.wait.val i.bytes s ∧ s.core.self = some a ∧ ok s.core.regs a :=
  ⟨.wset (x9 0), _, _, _, _, _, actor9 0x7000000000000000, _, rfl, by decide, ready_actor9 _ _, rfl, fun h => absurd h (by decide)⟩
theorem wit_Actor_hbad : ∃ i x ok c v f s a, selfRow i = some (x, ok, c, v, f) ∧ i.wf = true ∧ Issues x.h.g x.wait.val s ∧ s.core.self = some a ∧ ¬ok s.core.regs a :=
  ⟨.hset { x9 31 with b := 2 }, _, _, _, _, _, actor9 0x1002, _, rfl, by decide, (ready_actor9 _ 12).toIssues, rfl, by decide⟩
theorem wit_Actor_wbad : ∃ i x ok c v f s a, selfRow i = some (x, ok, c, v, f) ∧ i.wf = true ∧ Issues x.h.g x.wait.val s ∧ s.core.self = some a ∧ ¬ok s.core.regs a :=
  ⟨.wset (x9 0), _, _, _, _, _, actor9 0x8000000000000000, _, rfl, by decide, (ready_actor9 _ 12).toIssues, rfl, fun h => absurd (h (by decide)).2.2.2.1 (by decide)⟩
theorem wit_Actor_noact : ∃ i x ok c v f s, selfRow i = some (x, ok, c, v, f) ∧ i.wf = true ∧ Issues x.h.g x.wait.val s ∧ s.core.self = none :=
  ⟨.maskc { x0 with w2 := 1 }, _, _, _, _, _, runs, rfl, by decide, issues_runs, rfl⟩
theorem wit_Mbox : ∃ (x : XOp) (s : State) (a : Actor), (Instr.mbox x).wf = true ∧ Ready x.h.g x.wait.val (Instr.mbox x).bytes s ∧ s.core.self = some a ∧ a.fits :=
  ⟨{ x0 with d := 3, w2 := 2 }, actor9 0, _, by decide, ready_actor9 _ _, rfl, by unfold Actor.fits; decide⟩
theorem wit_Mbox_noact : ∃ (x : XOp) (s : State), (Instr.mbox x).wf = true ∧ Issues x.h.g x.wait.val s ∧ s.core.self = none := ⟨{ x0 with d := 3, w2 := 2 }, runs, by decide, issues_runs, rfl⟩
theorem wit_Widf : ∃ (x : XOp) (s : State) (l : Launch), (Instr.widf x).wf = true ∧ Ready x.h.g x.wait.val (Instr.widf x).bytes s ∧ s.myLaunch = some l :=
  ⟨{ x9 8 with d := 3 }, chained none, _, by decide, ready_chained _ _, rfl⟩
theorem wit_Widf_none : ∃ (x : XOp) (s : State), (Instr.widf x).wf = true ∧ Ready x.h.g x.wait.val (Instr.widf x).bytes s ∧ s.myLaunch = none :=
  ⟨{ x9 7 with d := 3 }, runs, by decide, ready_runs _, rfl⟩
theorem wit_Adest : ∃ (x : XOp) (s : State), (Instr.adest x).wf = true ∧ Ready x.h.g x.wait.val (Instr.adest x).bytes s ∧ (s.core.queue .e).length < 16
    ∧ ∃ pk aid off, placeOf s (s.core.regs.rs x.a) = some (.actor pk aid off) := ⟨x9 0, actor9 in5, by decide, ready_actor9 _ _, by decide, _, _, _, rfl⟩
theorem wit_Adest_aspace : ∃ (x : XOp) (s : State), (Instr.adest x).wf = true ∧ Issues x.h.g x.wait.val s
    ∧ ∀ pk aid off, placeOf s (s.core.regs.rs x.a) ≠ some (.actor pk aid off) := ⟨x9 0, actor9 0x1000, by decide, (ready_actor9 _ 12).toIssues, fun _ _ _ h => nomatch h⟩

/-- A header of 256 bytes: code at the interleaved view's start, and the bytes given at 8 and from 0x10 up. -/
def header (b8 w : Byte) (cnt : Byte) (rest : List Byte) : List Byte :=
  [0, 0, 0, 0, 0, 0, 0, 0x10, b8, 0, 0, 0, 0, 0, 0, 0, w] ++ List.replicate 15 0 ++ [cnt] ++ List.replicate 79 0 ++ rest ++ List.replicate (256 - 112 - rest.length) 0

/-- A header of a SPAWN: a ring of 2^10 bytes and a region of 8 KiB. -/
def spawnHeader : List Byte := header 1 0 0 [2, 5]
/-- A header of a launch of two tasks. -/
def launchHeader : List Byte := header 0x40 1 2 []

/-- Bytes at device address 0x100, and its interleaved address in s9. -/
def device (bs : List Byte) : State :=
  { mapped 0x1000000000000100 with pkg := { (mapped 0).pkg with dmem := ((List.range bs.length).map fun i => (0x100 + i, bs.getD i 0)).filter fun c => c.2 != 0 } }

theorem ready_device (bs : List Byte) (n : Nat) : Ready always 0 n (device bs) := ⟨⟨rfl, rfl, rfl, fun _ => rfl, rfl⟩, rfl⟩

/-- SPAWN and LAUNCH of the header at s9. -/
def xh : XOp := { x9 0 with b := 2, d := 3 }

/-- What a read answers, without the state after it. -/
theorem reads {ε : Type} {x : Except ε (Option (List Byte) × State)} {r : Option (List Byte)} (h : x.toOption.map Prod.fst = some r) : ∃ t, x = .ok (r, t) := by
  cases x with
  | error => simp [Except.toOption] at h
  | ok v => obtain ⟨a, t⟩ := v; simp [Except.toOption] at h; exact ⟨t, by rw [h]⟩

theorem reads_spawn : ∃ t, readHeader ((device spawnHeader).core.regs.rs 9) (device spawnHeader) = .ok (some spawnHeader, t) := reads (by decide +kernel)
theorem reads_launch : ∃ t, readHeader ((device launchHeader).core.regs.rs 9) (device launchHeader) = .ok (some launchHeader, t) := reads (by decide +kernel)

theorem wit_Spawn : ∃ (x : XOp) (s t : State) (raw : List Byte) (act : Activation), (Instr.spawn x).wf = true ∧ Ready x.h.g x.wait.val (Instr.spawn x).bytes s
    ∧ s.core.act = some act ∧ readHeader (s.core.regs.rs x.a) s = .ok (some raw, t) ∧ (parseSpawn raw).isSome = true ∧ s.widHeld act.slot (s.core.regs.rs x.b) = false :=
  reads_spawn.elim fun t h => ⟨xh, device spawnHeader, t, spawnHeader, _, by decide, ready_device _ _, rfl, h, by decide +kernel⟩
theorem wit_Spawn_refused : ∃ (x : XOp) (s t : State) (raw : List Byte) (act : Activation), (Instr.spawn x).wf = true ∧ Ready x.h.g x.wait.val (Instr.spawn x).bytes s
    ∧ s.core.act = some act ∧ readHeader (s.core.regs.rs x.a) s = .ok (some raw, t) ∧ (parseSpawn raw).isSome = false :=
  reads_launch.elim fun t h => ⟨xh, device launchHeader, t, launchHeader, _, by decide, ready_device _ _, rfl, h, by decide +kernel⟩
theorem wit_Launch : ∃ (x : XOp) (s t : State) (raw : List Byte) (h : Header) (tr : List TreeDecl) (br : List Nat) (v : State), (Instr.launch x).wf = true ∧ Ready x.h.g x.wait.val (Instr.launch x).bytes s
    ∧ launchFault s (s.core.regs.rs x.b) (s.core.regs.rs x.c) = none ∧ readHeader (s.core.regs.rs x.a) s = .ok (some raw, t) ∧ parseLaunch raw = some h ∧ declsOf h t = some (tr, br, v) :=
  reads_launch.elim fun t h => ⟨xh, device launchHeader, t, launchHeader, headerOf launchHeader, [], [], t, by decide, ready_device _ _, by decide, h, by decide +kernel, rfl⟩
theorem wit_Launch_refused : ∃ (x : XOp) (s t : State) (raw : List Byte), (Instr.launch x).wf = true ∧ Ready x.h.g x.wait.val (Instr.launch x).bytes s
    ∧ launchFault s (s.core.regs.rs x.b) (s.core.regs.rs x.c) = none ∧ readHeader (s.core.regs.rs x.a) s = .ok (some raw, t) ∧ parseLaunch raw = none :=
  reads_spawn.elim fun t h => ⟨xh, device spawnHeader, t, spawnHeader, by decide, ready_device _ _, by decide, h, by decide +kernel⟩

/-- The activation of actor 5 in launch 1, which waits for an answer. -/
def awaits (k : AwaitKind) : State := (chained none).mapCore fun c => { c with await := some { kind := k, addr := 0, len := 12 } }

theorem wit_Answer_refuse : ∃ (s : State) (w : Await) (d : SReg) (raw : List Byte) (wid : Word), s.core.await = some w ∧ s.core.ganged = false ∧ s.core.mgmt = false
    ∧ runsOff s.core w.len = false ∧ w.kind = .spawn d raw wid := ⟨awaits (.spawn 3 spawnHeader 7), _, _, _, _, rfl, rfl, rfl, rfl, rfl⟩
theorem wit_Answer_away (near : Bool) : ∃ (s : State) (w : Await) (d : SReg) (raw : List Byte) (wid : Word) (aid : Nat) (h : Header) (l : Launch), s.core.await = some w ∧ s.core.ganged = false
    ∧ s.core.mgmt = false ∧ runsOff s.core w.len = false ∧ w.kind = .spawn d raw wid ∧ parseSpawn raw = some h ∧ s.myLaunch = some l ∧ s.widHeld l.slot wid = false
    ∧ s.newAid aid = true ∧ s.gangAway l wid near = true ∧ (near = true → s.nearTakes l = true)
    ∧ ((makeAway h l.slot wid (BitVec.ofNat 24 aid) near (if near then joinGrove l s else s)).seated l wid near).isSome = true :=
  ⟨awaits (.spawn 3 spawnHeader 7), _, _, spawnHeader, _, 0xFFFFFF, headerOf spawnHeader, _, rfl, rfl, rfl, rfl, rfl, by decide +kernel, rfl, by cases near <;> decide +kernel⟩
theorem wit_Answer_slot : ∃ (s : State) (w : Await) (d : SReg) (raw : List Byte) (comp notify : Word) (ntype n : Nat) (h : Header) (tr : List TreeDecl) (br : List Nat) (v : State),
    s.core.await = some w ∧ s.core.ganged = false ∧ s.core.mgmt = false ∧ runsOff s.core w.len = false ∧ w.kind = .launch d raw comp notify ntype ∧ parseLaunch raw = some h
    ∧ declsOf h s = some (tr, br, v) ∧ v.pkg.slotFree n = true
    ∧ ({ v.pkg with launches := v.pkg.launches ++ [newLaunch n s.core.tenant h tr br true comp notify ntype s.core.sliceBase none] } : Pkg).unitsFit = true :=
  ⟨awaits (.launch 3 launchHeader 0 0 0), _, _, launchHeader, _, _, _, 4095, headerOf launchHeader, [], [], _, rfl, rfl, rfl, rfl, rfl, by decide +kernel, rfl, by decide +kernel⟩

/-- SENDM to s9 of so many bytes at s2. -/
def xm (n : Nat) : XOp := { x9 (BitVec.ofNat 32 (n * 2 ^ 16)) with b := 2 }

theorem wit_Sendm (f : Fin 3) : ∃ (x : XOp) (s : State) (pk : Option Nat) (aid : BitVec 24) (off : Nat) (g : Range), (Instr.sendm x).wf = true
    ∧ placeOf s (s.core.regs.rs x.a) = some (.actor pk aid off) ∧ (x.w2f 16 10 ≠ 0 → localSpan s (s.core.regs.rs x.b) (x.w2f 16 10) 16 = .ok g)
    ∧ Ready x.h.g x.wait.val (Instr.sendm x).bytes s ∧ (s.core.queue .e).length < 16
    ∧ (match f with
       | 0 => ∃ k t, s.ringSize pk aid (ringKey (.actor pk aid off) (s.core.regs.rs x.a)) = .is k t ∧ 16 + (x.w2f 16 10 + 15) / 16 * 16 + 16 ≤ 2 ^ k
       | 1 => ∃ k t, s.ringSize pk aid (ringKey (.actor pk aid off) (s.core.regs.rs x.a)) = .is k t ∧ 2 ^ k < 16 + (x.w2f 16 10 + 15) / 16 * 16 + 16
       | 2 => s.ringSize pk aid (ringKey (.actor pk aid off) (s.core.regs.rs x.a)) = .gone) := by
  match f with
  | 0 => exact ⟨xm 992, actor9 in5, _, _, _, _, by decide, rfl, (fun _ => rfl), ready_actor9 _ _, by decide, 10, _, rfl, by decide⟩
  | 1 => exact ⟨xm 993, actor9 in5, _, _, _, _, by decide, rfl, (fun _ => rfl), ready_actor9 _ _, by decide, 10, _, rfl, by decide⟩
  | 2 => exact ⟨xm 0, actor9 (actorAddr 6 0), _, _, _, { lo := 0, hi := 0 }, by decide, rfl, (fun h => absurd rfl h), ready_actor9 _ _, by decide, rfl⟩
theorem wit_Sendm_aspace : ∃ (x : XOp) (s : State), (Instr.sendm x).wf = true ∧ Issues x.h.g x.wait.val s ∧ ∀ pk aid off, placeOf s (s.core.regs.rs x.a) ≠ some (.actor pk aid off) :=
  ⟨xm 0, actor9 0x1000, by decide, (ready_actor9 _ 12).toIssues, fun _ _ _ h => nomatch h⟩
theorem wit_Sendm_commit (cls : Fin 2) : ∃ (k : Cmd) (s : State) (pk : Option Nat) (aid : BitVec 24) (off : Nat), s.ready .e = some k ∧ s.core.calm
    ∧ placeOf s k.sa = some (.actor pk aid off) ∧ k.cls = 15 + cls.val ∧ k.sub = 5 * cls.val := by
  match cls with
  | 0 => exact ⟨_, queued { q := .e, cls := 15, sub := 0, x := xm 8 } (actor9 in5), _, _, _, rfl, ⟨rfl, by decide⟩, rfl, rfl, rfl⟩
  | 1 => exact ⟨_, queued { q := .e, cls := 16, sub := 5, x := x9 0 } (actor9 in5), _, _, _, rfl, ⟨rfl, by decide⟩, rfl, rfl, rfl⟩

/-- A message of 8 bytes to actor 5, and one posted. -/
def msg8 : MsgArgs := { h0 := header0 0xFF 5 8 0 false false 3, h1 := 9, payload := [1, 2, 3, 4, 5, 6, 7, 8] }
def flies8 : Posted := { post7 with addr := in5, pa := 0, kind := .msg msg8 }

/-- Actor 5 changed, beside the task. -/
def beside5 (f : Actor → Actor) : State := posts flies8 ((besideActor 0).mapCore fun c => c.mapActor 5 f)

theorem wit_Message_arrives (full : Bool) : ∃ (p : Posted) (m : MsgArgs) (s : State) (pk : Option Nat) (aid : BitVec 24) (a : Actor) (off : Nat),
    s.core.posted.find? (fun e => e.id == p.id) = some p ∧ p.kind = .msg m ∧ mayArrive s p = true ∧ placeOf s p.addr = some (.actor pk aid off) ∧ s.place pk aid = .at_ 0 0
    ∧ s.core.actor aid = some a ∧ m.h1.getLsbD 36 = false
    ∧ (if full then reserve a m (some (s.core.pkgIx, p.id)) = none ∧ s.core.room = [] else ∃ b o, reserve a m (some (s.core.pkgIx, p.id)) = some (b, o, none)) := by
  cases full
  · exact ⟨flies8, _, beside5 id, _, _, _, _, rfl, rfl, by decide +kernel, rfl, by decide +kernel, rfl, rfl, _, _, rfl⟩
  · exact ⟨flies8, _, beside5 fun a => { a with head := 48, tail := 16 }, _, _, _, _, rfl, rfl, by decide +kernel, rfl, by decide +kernel, rfl, rfl, rfl, rfl⟩
/-- A record at an offset that is on its way. -/
def rec8 (off : Nat) : MRec := newRec actor5 off 32 msg8 none
theorem wit_Message_ring (f : Fin 3) : ∃ (a : Actor) (m : MsgArgs), a.recs ≠ [] ∧ a.tail < 2 ^ a.ringK
    ∧ (let n := 16 + (hdrLen m.h0 + 15) / 16 * 16
       let used := (a.tail + 2 ^ a.ringK - a.head) % 2 ^ a.ringK
       match f with
       | 0 => a.tail + n ≤ 2 ^ a.ringK ∧ used + n + 16 ≤ 2 ^ a.ringK
       | 1 => 2 ^ a.ringK < used + n + 16
       | 2 => 2 ^ a.ringK < a.tail + n ∧ used + (2 ^ a.ringK - a.tail) + n + 16 ≤ 2 ^ a.ringK) := by
  match f with
  | 0 => exact ⟨{ actor5 with head := 16, tail := 992, recs := [rec8 16] }, msg8, by decide⟩
  | 1 => exact ⟨{ actor5 with head := 0, tail := 992, recs := [rec8 0] }, msg8, by decide⟩
  | 2 => exact ⟨{ actor5 with head := 64, tail := 1008, recs := [rec8 64] }, msg8, by decide⟩
theorem wit_Message_lands : ∃ (aid : BitVec 24) (a : Actor) (r : MRec) (s : State), residentAt aid s.cores 0 = some (0, a) ∧ a.landing r.off = some r ∧ r.own = none
    ∧ hdrSync r.h1 = none ∧ s.core.calm ∧ s.core.scratch.wf = true :=
  ⟨5, _, rec8 16, (besideActor 0).mapCore fun c => c.mapActor 5 fun a => { a with head := 16, tail := 48, recs := [rec8 16] }, rfl, rfl, rfl, rfl, ⟨rfl, by decide⟩, rfl⟩
/-- The same record with a sync word at offset 0xFF0 of the window, the last that it reaches. -/
def synced8 : MRec := { rec8 16 with h1 := 0x100FF00000 }
theorem wit_Message_counts : ∃ (aid : BitVec 24) (a : Actor) (r : MRec) (s : State) (o p : Nat), residentAt aid s.cores 0 = some (0, a) ∧ a.landing r.off = some r ∧ r.own = none
    ∧ s.core.calm ∧ s.core.scratch.wf = true ∧ hdrSync r.h1 = some o ∧ a.reach o 16 .store = some p ∧ (p + 16 ≤ r.off ∨ r.off + 16 + r.payload.length ≤ p) :=
  ⟨5, _, synced8, (besideActor 0).mapCore fun c => c.mapActor 5 fun a => { a with head := 16, tail := 48, recs := [synced8] }, 0xFF0, 0xFF0, rfl, rfl, rfl, ⟨rfl, by decide⟩, rfl,
    by decide +kernel, by decide +kernel, by decide⟩
theorem wit_Message_notice (other : Bool) : ∃ (v : Nat) (s : State), (v < 2 ^ 24 → s.queueing (actorAddr (BitVec.ofNat 24 v) 0) = false) ∧ s.noticed v = true ∧ decide (2 ^ 24 ≤ v) = other := by
  cases other
  · exact ⟨5, (besideActor 0).mapCore fun c => { c with notices := [5] }, by decide +kernel⟩
  · exact ⟨8 * 2 ^ 24 + 5, posts { flies8 with addr := 0x4070000000500040, stage := .held true } (besideActor 0), by decide +kernel⟩
theorem wit_Message_retry (other : Bool) : ∃ (v : Nat) (s : State), (v < 2 ^ 24 → s.queueing (actorAddr (BitVec.ofNat 24 v) 0) = false)
    ∧ (s.core.posted.any fun p => p.heldFor (noticeKey v) false) = true ∧ decide (2 ^ 24 ≤ v) = other := by
  cases other
  · exact ⟨5, posts { flies8 with stage := .held false } (besideActor 0), by decide +kernel⟩
  · exact ⟨8 * 2 ^ 24 + 5, posts { flies8 with addr := 0x4070000000500040, stage := .held false } (besideActor 0), by decide +kernel⟩

theorem wit_Near_nmld : ∃ (x : XOp) (s : State) (g : Range), (Instr.nmld x).wf = true ∧ Ready x.h.g x.wait.val (Instr.nmld x).bytes s ∧ (s.core.queue .n).length < 16
    ∧ localSpan s (s.core.regs.rs x.a) (4 * x.w2f 0 7) 4 = .ok g := ⟨x9 96, at9 0x3E80, _, by decide, ready_at9 _ _, by decide, rfl⟩
theorem wit_Near_nmrun : ∃ (x : XOp) (s : State), (Instr.nmrun x).wf = true ∧ Ready x.h.g x.wait.val (Instr.nmrun x).bytes s ∧ (s.core.queue .n).length < 16
    ∧ x.w2.getLsbD 11 = true ∧ x.w2f 12 20 + 16 ≤ s.core.span.2 := ⟨{ x9 0x03FF085F with b := 2 }, at9 0, by decide, ready_at9 _ _, by decide⟩
theorem wit_Near_nmrunLrange : ∃ (x : XOp) (s : State), (Instr.nmrun x).wf = true ∧ Issues x.h.g x.wait.val s ∧ x.w2.getLsbD 11 = true ∧ s.core.span.2 < x.w2f 12 20 + 16 :=
  ⟨{ x9 0x0400085F with b := 2 }, at9 0, by decide, (ready_at9 _ 12).toIssues, by decide⟩
theorem wit_Near_wait : ∃ (x : XOp) (s : State), (Instr.nmwait x).wf = true ∧ Ready x.h.g x.wait.val (Instr.nmwait x).bytes s ∧ (s.core.queue .n).length < 16 :=
  ⟨{ x0 with d := 3 }, runs, by decide, ready_runs _, by decide⟩
theorem wit_Near_fence : ∃ (x : XOp) (s : State), (Instr.nmfence x).wf = true ∧ Ready x.h.g x.wait.val (Instr.nmfence x).bytes s ∧ (s.core.queue .n).length < 16 :=
  ⟨x0, runs, by decide, ready_runs _, by decide⟩

/-- An NMRED of 2 bags of 2 rows of 2 elements of a type: indices and offsets at 0, the table at the interleaved view's address 0, results at dst, with a sync word or none. -/
def bagsOf (ty : Nat) (dst sync : Word) (s : State) : State :=
  let s := rec1 0 (w1Of ty 2 (if sync = 0 then 0 else 2)) 2 2 dst sync s
  s.mapRegs fun r => ((r.ws 2 0x1000000000000000).ws 12 8).ws 13 64
/-- INT32 rows, summed at 0x100. -/
def bags : State := bagsOf 4 0x100 0 (mapped 0)

theorem wit_Near_nmred : ∃ (x : XOp) (s : State) (p : Nat) (dst y : Option Range), (Instr.nmred x).wf = true ∧ Ready x.h.g x.wait.val (Instr.nmred x).bytes s ∧ (s.core.queue .n).length < 16
    ∧ (let r := s.core.regs.lrec x.l.val
       let w := (tyBits r.ty + 7) / 8
       (r.ty = x.ty.val ∧ r.flagI = false ∧ r.rsv = 0 ∧ 1 ≤ r.e0 ∧ r.e0 ≤ 32 ∧ 1 ≤ r.e1 ∧ r.e1 ≤ 32 ∧ 1 ≤ r.e2 ∧ r.e2 ≤ 256 ∧ r.st1 % w = 0 ∧ r.st2 % 64 = 0
         ∧ r.flagS = false ∧ r.aux1 = 0 ∧ viewFault s r.base 4 Place.isLoc = none ∧ viewFault s r.aux0 64 Place.locOrActor = none ∧ viewFault s (s.core.regs.rs x.b) w Place.isInter = none)
         ∧ s.localAt r.base.toNat (4 * r.e0 + 2 * r.e1) = some p ∧ destRange s r.results = .ok dst ∧ (if r.flagS then syncRange s r.aux1 else .ok none) = .ok y
         ∧ ∀ g h, dst = some g → y = some h → g.meets h = false) :=
  ⟨{ xl 4 with b := 2 }, bags, _, _, none, by decide, ⟨⟨rfl, rfl, rfl, fun _ => rfl, rfl⟩, rfl⟩, by decide,
    by decide, rfl, rfl, rfl, fun _ _ _ h => nomatch h⟩
theorem wit_Near_tld (big : Bool) : ∃ (x : XOp) (s : State) (g : Range), (Instr.tld x).wf = true ∧ Ready x.h.g x.wait.val (Instr.tld x).bytes s ∧ (s.core.queue .q).length < 16
    ∧ localSpan s (s.core.regs.rs x.a) (tableBytes (x.w2f 0 11)) 64 = .ok g ∧ x.w2.getLsbD 10 = big := by
  cases big
  · exact ⟨{ x9 0x3FF with ty := 3 }, at9 0x3E00, _, by decide, ready_at9 _ _, by decide, rfl, by decide⟩
  · exact ⟨{ x9 0x400 with ty := 3 }, at9 0x2000, _, by decide, ready_at9 _ _, by decide, rfl, by decide⟩
theorem wit_Near_tq (sync : Bool) : ∃ (x : XOp) (s : State) (g : Range) (dst : Option Range), (Instr.tq x).wf = true ∧ Ready x.h.g x.wait.val (Instr.tq x).bytes s ∧ (s.core.queue .q).length < 16
    ∧ localSpan s (s.core.regs.rs x.a) 256 64 = .ok g ∧ tqDest s (s.core.regs.rs x.b) = .ok dst
    ∧ (s.core.regs.rs x.c ≠ 0 → syncPlaced s (s.core.regs.rs x.b) (s.core.regs.rs x.c) = true ∧ ∃ y, syncRange s (s.core.regs.rs x.c) = .ok y) ∧ decide (s.core.regs.rs x.c ≠ 0) = sync := by
  cases sync
  · exact ⟨{ x9 0x3FF with ty := 3, b := 2 }, at9 0x3F00, _, _, by decide, ready_at9 _ _, by decide, rfl, rfl, (fun h => absurd rfl h), by decide⟩
  · exact ⟨{ x9 0x3FF with ty := 3, b := 2, c := 3 }, (at9 0x3F00).mapRegs fun r => r.ws 3 0x3FF0, _, _, by decide, ⟨⟨rfl, rfl, rfl, fun _ => rfl, rfl⟩, rfl⟩, by decide, rfl, rfl,
      (fun _ => ⟨by decide, _, rfl⟩), by decide⟩

/-- A near-memory command of the task. -/
def nearQueued (q : Queue) (u : Req) (s : State) : State := queued { u with q := q, cls := 18 } s

theorem wit_NearResults_nmld : ∃ (k : Cmd) (s : State), NearHead .n k 0 s ∧ k.x.w2f 8 7 + k.x.w2f 0 7 ≤ 96 :=
  ⟨_, queued { q := .n, cls := 18, sub := 0, x := x9 0x0260, reads := [{ lo := 0x3C000, hi := 0x3C180 }] } (at9 0) |>.mapCore fun c => { c with cmds := c.cmds.map fun k => { k with x := x9 0x5E02 } },
    ⟨rfl, rfl, rfl, ⟨rfl, by decide⟩, rfl⟩, by decide⟩
theorem wit_NearResults_wait : ∃ (k : Cmd) (s : State), NearHead .n k 2 s := ⟨_, queued { q := .n, cls := 18, sub := 2, x := { x0 with d := 3 } } runs, rfl, rfl, rfl, ⟨rfl, by decide⟩, rfl⟩
theorem wit_NearResults_fence : ∃ (k : Cmd) (s : State), NearHead .n k 3 s ∧ ∀ id ∈ k.fence, s.core.outstanding id = false :=
  ⟨_, queued { q := .n, cls := 18, sub := 3, x := x0, fence := [7] } runs, ⟨rfl, rfl, rfl, ⟨rfl, by decide⟩, rfl⟩, by decide⟩
theorem wit_NearResults_tld : ∃ (k : Cmd) (s : State) (p : Nat), NearHead .q k 5 s ∧ Cmd.at_ k.reads = p ∧ s.core.coppice.wf = true :=
  ⟨_, queued { q := .q, cls := 18, sub := 5, x := { x9 0x3FF with ty := 3 }, reads := [{ lo := 0x3C000, hi := 0x3C200 }] } (at9 0), _, ⟨rfl, rfl, rfl, ⟨rfl, by decide⟩, rfl⟩, rfl, rfl⟩
/-- A TQ of handle 0x3FF at the head, its results at s2, its sync word in s3. -/
def tqHead (dst sync : Word) (s : State) : State := queued { q := .q, cls := 18, sub := 6, x := { x9 0x3FF with ty := 3, b := 2, c := 3 } } (s.mapRegs fun r => (r.ws 2 dst).ws 3 sync)
theorem wit_NearResults_tq (sync : Bool) : ∃ (k : Cmd) (s : State) (off : Nat), NearHead .q k 6 s ∧ s.core.coppiceBad = [] ∧ placeOf s k.sb = some (.loc off)
    ∧ (k.sc ≠ 0 → k.sc.toNat < 2 ^ 60 ∧ (k.base + off) % 32 = 0 ∧ (k.base + k.sc.toNat + 16 ≤ k.base + off ∨ k.base + off + 256 ≤ k.base + k.sc.toNat)) ∧ decide (k.sc ≠ 0) = sync := by
  cases sync
  · exact ⟨_, tqHead 0x3F00 0 (at9 0), _, ⟨rfl, rfl, rfl, ⟨rfl, by decide⟩, rfl⟩, rfl, rfl, by decide, by decide⟩
  · exact ⟨_, tqHead 0x3E00 0x3F00 (at9 0), _, ⟨rfl, rfl, rfl, ⟨rfl, by decide⟩, rfl⟩, rfl, rfl, by decide, by decide⟩
theorem wit_NearResults_tqActor (sync : Bool) : ∃ (k : Cmd) (s : State) (pk : Option Nat) (aid : BitVec 24) (off : Nat), NearHead .q k 6 s ∧ s.core.coppiceBad = []
    ∧ placeOf s k.sb = some (.actor pk aid off) ∧ off + 256 ≤ 2 ^ 20 ∧ (k.sc = 0 ∨ 2 ^ 60 ≤ k.sc.toNat) ∧ decide (k.sc ≠ 0) = sync := by
  cases sync
  · exact ⟨_, tqHead (actorAddr 5 0xFFF00) 0 (besideActor 0), _, _, _, ⟨rfl, rfl, rfl, ⟨rfl, by decide⟩, rfl⟩, rfl, rfl, by decide, by decide, by decide⟩
  · exact ⟨_, tqHead in5 (actorAddr 5 0x200) (besideActor 0), _, _, _, ⟨rfl, rfl, rfl, ⟨rfl, by decide⟩, rfl⟩, rfl, rfl, by decide, by decide, by decide⟩

/-- The bags' command. -/
def bagged (s : State) (ty : Fin 16 := 4) : State := queued (recCmd .n 18 4 { xl ty with b := 2 } s) s

/-- Ranges are mapped, without the places and the state. -/
theorem maps {x : Except Perf (List (List (Nat × Nat)) × State)} (h : x.toOption.isSome = true) : ∃ ps u, x = .ok (ps, u) := by
  cases x with
  | error => simp [Except.toOption] at h
  | ok v => exact ⟨v.1, v.2, rfl⟩

/-- What the clauses about the sums of an NMRED ask beside its destination. -/
def bagAsks (k : Cmd) (r : LRec) (s u : State) (ps : List (List (Nat × Nat))) : Prop :=
  NearHead .n k 4 s ∧ k.pushed = none ∧ k.lrec = some r ∧ (r.ty = 4 ∨ r.ty = 8 ∨ r.ty = 9 ∨ r.ty = 10) ∧ badBag r.e0 (bagOffs k r s.core) = none ∧ s.pkg.badUnits = []
    ∧ (∀ j < r.e0, nmredRow k r s.core j + tyBits r.ty / 8 * r.e2 ≤ (2 ^ 60 + 2 ^ 48 : Int))
    ∧ mapBatch k.pages .read ((List.range r.e0).map fun j => (BitVec.ofInt 64 (nmredRow k r s.core j), tyBits r.ty / 8 * r.e2)) s = .ok (ps, u)
/-- They are met by the command of two bags of a type. -/
theorem bagAsks_of (ty : Fin 16) (b : State) (r : LRec) (k : Cmd) (_hk : (bagged b ty).core.cmds = [k]) (hr : k.lrec = some r) (n : NearHead .n k 4 (bagged b ty) ∧ k.pushed = none)
    (t : r.ty = 4 ∨ r.ty = 8 ∨ r.ty = 9 ∨ r.ty = 10) (g : badBag r.e0 (bagOffs k r (bagged b ty).core) = none ∧ (bagged b ty).pkg.badUnits = []
      ∧ (∀ j < r.e0, nmredRow k r (bagged b ty).core j + tyBits r.ty / 8 * r.e2 ≤ (2 ^ 60 + 2 ^ 48 : Int)))
    (m : (mapBatch k.pages .read ((List.range r.e0).map fun j => (BitVec.ofInt 64 (nmredRow k r (bagged b ty).core j), tyBits r.ty / 8 * r.e2)) (bagged b ty)).toOption.isSome = true) :
    ∃ u ps, bagAsks k r (bagged b ty) u ps := by
  obtain ⟨ps, u, h⟩ := maps m
  exact ⟨u, ps, n.1, n.2, hr, t, g.1, g.2.1, g.2.2, h⟩

theorem wit_NearResults_nmred (ty : Fin 16) (h : ty = 4 ∨ ty = 8 ∨ ty = 9 ∨ ty = 10) (sync : Bool) : ∃ k r s u ps, bagAsks k r s u ps ∧ (∃ off, placeOf s r.aux0 = some (.loc off))
    ∧ (4 * r.e2 : Int) ≤ r.st2 ∧ (∀ b < r.e1, (r.aux0.toNat + b * r.st2 : Int) < 2 ^ 60)
    ∧ (r.flagS = true → r.aux1.toNat < 2 ^ 60 ∧ ∀ b < r.e1, k.base + r.aux1.toNat + 16 ≤ k.base + (r.aux0.toNat + b * r.st2 : Int).toNat
        ∨ k.base + (r.aux0.toNat + b * r.st2 : Int).toNat + 4 * r.e2 ≤ k.base + r.aux1.toNat)
    ∧ (∀ b < r.e1, (k.base + (r.aux0.toNat + b * r.st2 : Int).toNat) % 32 = 0) ∧ r.flagS = sync ∧ r.ty = ty.val := by
  obtain ⟨u, ps, a⟩ := bagAsks_of ty (bagsOf ty.val 0x100 (if sync then 0x200 else 0) (mapped 0)) _ _ rfl rfl
    (by obtain rfl | rfl | rfl | rfl := h <;> cases sync <;> exact ⟨⟨rfl, rfl, rfl, ⟨rfl, by decide⟩, rfl⟩, rfl⟩)
    (by obtain rfl | rfl | rfl | rfl := h <;> cases sync <;> decide) (by obtain rfl | rfl | rfl | rfl := h <;> cases sync <;> decide +kernel)
    (by obtain rfl | rfl | rfl | rfl := h <;> cases sync <;> decide +kernel)
  exact ⟨_, _, _, u, ps, a, by obtain rfl | rfl | rfl | rfl := h <;> cases sync <;> exact ⟨_, rfl⟩, by obtain rfl | rfl | rfl | rfl := h <;> cases sync <;> decide +kernel⟩
theorem wit_NearResults_nmredActor (ty : Fin 16) (h : ty = 4 ∨ ty = 8 ∨ ty = 9 ∨ ty = 10) : ∃ k r s u ps, bagAsks k r s u ps ∧ 1 ≤ r.e1 ∧ ∃ pk aid, ∃ off : Nat → Nat,
    ∀ b < r.e1, placeOf s (BitVec.ofInt 64 (r.aux0.toNat + b * r.st2)) = some (.actor pk aid (off b)) ∧ off b + 4 * r.e2 ≤ 2 ^ 20 := by
  obtain ⟨u, ps, a⟩ := bagAsks_of ty (bagsOf ty.val in5 0 { besideActor 0 with grove := (mapped 0).grove }) _ _ rfl rfl
    (by obtain rfl | rfl | rfl | rfl := h <;> exact ⟨⟨rfl, rfl, rfl, ⟨rfl, by decide⟩, rfl⟩, rfl⟩)
    (by obtain rfl | rfl | rfl | rfl := h <;> decide) (by obtain rfl | rfl | rfl | rfl := h <;> decide +kernel) (by obtain rfl | rfl | rfl | rfl := h <;> decide +kernel)
  exact ⟨_, _, _, u, ps, a, by obtain rfl | rfl | rfl | rfl := h <;> decide, none, 5, fun b => 0x40 + 64 * b, by obtain rfl | rfl | rfl | rfl := h <;> decide +kernel⟩
theorem wit_NearResults_nmredEnds : ∃ (k : Cmd) (s : State) (fl : Flags), NearHead .n k 4 s ∧ k.pushed = some fl ∧ s.core.flitsOut k = false :=
  ⟨_, (bagged bags).mapCore fun c => { c with cmds := c.cmds.map fun k => { k with pushed := some noFlags } }, _, ⟨rfl, rfl, rfl, ⟨rfl, by decide⟩, rfl⟩, rfl, by decide⟩
theorem wit_NearResults_idxr : ∃ (k : Cmd) (r : LRec) (s : State) (b : Nat), NearHead .n k 4 s ∧ k.lrec = some r ∧ r.ty = 4 ∧ badBag r.e0 (bagOffs k r s.core) = some b :=
  ⟨_, _, bagged (bags.mapCore fun c => c.writeScratch 0x3C00A [3]), 1, ⟨rfl, rfl, rfl, ⟨rfl, by decide⟩, by decide⟩, rfl, by decide, by decide +kernel⟩

/-- A run of the NMU at entry 94, with an argument register of an address. -/
def run94 : NRun := { serial := 0, start := 90, sa := 0, sb := 0, sync := none, entry := 94, base := 0x3C000, size := 0x4000, aid := 0, slot := 0, pushes := 0, counted := 0, replayed := false, waiting := false, ended := false }
def nmuRuns (a0 : BitVec 32) : State := runs.mapNmu fun n => { n with run := some run94, a := n.a.set 0 a0 }

/-- An instruction of the NMU on INT32. -/
def n32 : NaF := { ty := 2, sat := false, rm := 0, d := 3, a := 1, b := 2, x := 0 }

theorem wit_Nmu_elem : ∃ (i : Instr) (x : NaF) (f : Nat → Nat → Nat → Nat × Flags) (s : State) (r : NRun), nmuElemRow i = some (x, f) ∧ i.wf = true ∧ NmuAt s r :=
  ⟨.nadd n32, _, _, nmuRuns 0, _, rfl, by decide, rfl, rfl, rfl⟩
theorem wit_Nmu_other : ∃ (s : State) (r : NRun), (Instr.ncvt { n32 with b := 3 }).wf = true ∧ (Instr.nred { n32 with b := 0 }).wf = true
    ∧ (Instr.nldi { ty := 2, d := 3, imm := 0x8000 }).wf = true ∧ NmuAt s r := ⟨nmuRuns 0, _, by decide, by decide, by decide, rfl, rfl, rfl⟩
theorem wit_Nmu_redSat (sat : Bool) : ∃ x : NaF, (Instr.nred x).wf = true ∧ x.ty.val ≤ 2 ∧ x.sat = sat := by
  cases sat
  · exact ⟨{ n32 with b := 0 }, by decide, by decide, rfl⟩
  · exact ⟨{ n32 with b := 0, sat := true }, by decide, by decide, rfl⟩

/-- A memory instruction of the NMU at a0. -/
def nm0 : NmF := { mode := 0, rm := 0, d := 3, ai := 0, off := 0 }

theorem wit_Nmu_memory (f : Fin 4) : ∃ (x : NmF) (s : State) (r : NRun), (Instr.nldr x).wf = true ∧ NmuAt s r
    ∧ (let ea := nmuAddr x s.core.nmu
       match f with
       | 0 => 2 ^ 27 ≤ ea.toNat
       | 1 => ea.toNat < 2 ^ 27 ∧ ea.toNat % 32 ≠ 0
       | 2 => ea.toNat < 2 ^ 27 ∧ ea.toNat % 32 = 0 ∧ 0xC00000 ≤ ea.toNat % 2 ^ 24
       | 3 => inSlice ea ∧ s.pkg.badUnits = [] ∧ s.pkg.dmem.wf = true) := by
  match f with
  | 0 => exact ⟨nm0, nmuRuns 0x8000000, run94, by decide, ⟨rfl, rfl, rfl⟩, by decide⟩
  | 1 => exact ⟨nm0, nmuRuns 0x10, run94, by decide, ⟨rfl, rfl, rfl⟩, by decide⟩
  | 2 => exact ⟨nm0, nmuRuns 0xC00000, run94, by decide, ⟨rfl, rfl, rfl⟩, by decide⟩
  | 3 => exact ⟨nm0, nmuRuns 0x7BFFFE0, run94, by decide, ⟨rfl, rfl, rfl⟩, ⟨by decide, by decide⟩, rfl, rfl⟩
theorem wit_Nmu_push (ok : Bool) : ∃ (x : NmF) (s : State) (r : NRun), (Instr.npush x).wf = true ∧ NmuAt s r
    ∧ (let ea := nmuAddr x s.core.nmu
       ea.toNat < 2 ^ 27 ∧ ea.toNat % 32 = 0 ∧ (if ok then ea.toNat + 32 ≤ r.size ∧ s.core.calm ∧ s.core.scratch.wf = true ∧ r.sync = none else r.size < ea.toNat + 32)) := by
  cases ok
  · exact ⟨nm0, nmuRuns 0x4000, run94, by decide, ⟨rfl, rfl, rfl⟩, by decide, by decide, (by decide : 0x4000 < 0x4000 + 32)⟩
  · exact ⟨nm0, nmuRuns 0x3FE0, run94, by decide, ⟨rfl, rfl, rfl⟩, by decide, by decide, by decide, ⟨rfl, by decide⟩, rfl, rfl⟩
theorem wit_Nmu_law : ∃ (x : NmF) (s : State) (r : NRun), (Instr.nlaw x).wf = true ∧ NmuAt s r ∧ s.pkg.badUnits = [] ∧ inSlice (nmuAddr x s.core.nmu) ∧ s.pkg.dmem.wf = true
    ∧ ∀ j < 4, (lawOf s.grove.lawTab[(Fin.ofNat 256 (BitVec.ofNat 64 (leNat (s.pkg.dmem.readN
        (slicePa s.core ((nmuAddr x s.core.nmu).toNat / 2 ^ 24) ((nmuAddr x s.core.nmu).toNat % 2 ^ 24) + 8 * j) 8)) : Word).toNat : Fin 256)]).wide = false
      ∧ (lawOf s.grove.lawTab[(Fin.ofNat 256 (BitVec.ofNat 64 (leNat (s.pkg.dmem.readN
        (slicePa s.core ((nmuAddr x s.core.nmu).toNat / 2 ^ 24) ((nmuAddr x s.core.nmu).toNat % 2 ^ 24) + 8 * j) 8)) : Word).toNat : Fin 256)]).dir = 0 :=
  ⟨{ nm0 with mode := 1 }, nmuRuns 0x7BFFFE0, run94, by decide, ⟨rfl, rfl, rfl⟩, rfl, ⟨by decide, by decide⟩, rfl, by decide +kernel⟩
theorem wit_Nmu_table : ∃ (x : NqF) (s : State) (r : NRun), (Instr.ntq x).wf = true ∧ NmuAt s r ∧ s.core.coppiceBad = [] :=
  ⟨{ handle := 0x400, d := 3, a := 1 }, nmuRuns 0, run94, by decide, ⟨rfl, rfl, rfl⟩, rfl⟩

/-- The run inside a level 0 loop up to an entry. -/
def looping (stop left : Nat) : State := (nmuRuns 0).mapNmu fun n => { n with loop0 := some { left := left, start := 80, stop := stop } }

theorem wit_Nmu_loop (f : Fin 4) : ∃ (i : Instr) (x : NlF) (inner : Bool) (s : State) (r : NRun), ((i = .nloop0 x ∧ inner = false) ∨ (i = .nloop1 x ∧ inner = true)) ∧ i.wf = true ∧ NmuAt s r
    ∧ (let n := s.core.nmu
       let c := if x.count = 0 then n.a[(3 : Fin 4)].toNat else x.count.toNat
       let legal : Prop := r.entry + 1 + x.len.toNat ≤ 96 ∧ (inner = false → n.loop0 = none) ∧ (inner = true → ∃ o, n.loop0 = some o ∧ o.start ≤ r.entry + 1 ∧ r.entry + 1 + x.len.toNat ≤ o.stop)
       match f with
       | 0 => ¬legal
       | 1 => legal ∧ c = 0
       | 2 => legal ∧ c ≠ 0 ∧ inner = true
       | 3 => legal ∧ c ≠ 0 ∧ inner = false) := by
  match f with
  | 0 => exact ⟨.nloop0 { count := 1, len := 2 }, _, false, nmuRuns 0, run94, .inl ⟨rfl, rfl⟩, by decide, ⟨rfl, rfl, rfl⟩, fun h => absurd h.1 (by decide)⟩
  | 1 => exact ⟨.nloop0 { count := 0, len := 1 }, _, false, nmuRuns 0, run94, .inl ⟨rfl, rfl⟩, by decide, ⟨rfl, rfl, rfl⟩, ⟨by decide, (fun _ => rfl), fun h => absurd h (by decide)⟩, by decide⟩
  | 2 => exact ⟨.nloop1 { count := 1, len := 1 }, _, true, looping 96 2, run94, .inr ⟨rfl, rfl⟩, by decide, ⟨rfl, rfl, rfl⟩,
      ⟨by decide, (fun h => absurd h (by decide)), fun _ => ⟨_, rfl, by decide⟩⟩, by decide, rfl⟩
  | 3 => exact ⟨.nloop0 { count := 1, len := 1 }, _, false, nmuRuns 0, run94, .inl ⟨rfl, rfl⟩, by decide, ⟨rfl, rfl, rfl⟩,
      ⟨by decide, (fun _ => rfl), fun h => absurd h (by decide)⟩, by decide, rfl⟩
theorem wit_Nmu_at : ∃ (s : State) (r : NRun), NmuAt s r := ⟨nmuRuns 0, run94, rfl, rfl, rfl⟩
theorem wit_Nmu_goOn (f : Fin 4) : ∃ (n : Nmu) (r : NRun) (e : Nat), n.run = some r ∧
    (match f with
     | 0 => n.loop0 = none ∧ n.loop1 = none
     | 1 => ∃ l, n.loop1 = some l ∧ e = l.stop ∧ 1 < l.left
     | 2 => n.loop1 = none ∧ ∃ l, n.loop0 = some l ∧ e = l.stop ∧ 1 < l.left
     | 3 => n.loop1 = none ∧ ∃ l, n.loop0 = some l ∧ e = l.stop ∧ l.left ≤ 1) := by
  match f with
  | 0 => exact ⟨(nmuRuns 0).core.nmu, run94, 95, rfl, rfl, rfl⟩
  | 1 => exact ⟨{ (nmuRuns 0).core.nmu with loop1 := some { left := 2, start := 90, stop := 95 } }, run94, 95, rfl, _, rfl, rfl, by decide⟩
  | 2 => exact ⟨(looping 95 2).core.nmu, run94, 95, rfl, rfl, _, rfl, rfl, by decide⟩
  | 3 => exact ⟨(looping 95 1).core.nmu, run94, 95, rfl, rfl, _, rfl, rfl, by decide⟩
theorem wit_Nmu_ends : ∃ (s : State) (r : NRun), s.core.nmu.run = some r ∧ r.ended = true := ⟨(nmuRuns 0).mapNmu fun n => { n with run := some { run94 with ended := true } }, _, rfl, rfl⟩
theorem wit_Nmu_parity (again : Bool) : ∃ (s : State) (r : NRun), s.core.nmu.run = some r ∧ NmuAt s r ∧ s.core.nmu.parityOk r.entry = false ∧ r.replayed = again := by
  cases again
  · exact ⟨(nmuRuns 0).mapNmu fun n => { n with buf := n.buf.set 94 (0, false) }, run94, rfl, ⟨rfl, rfl, rfl⟩, by decide, rfl⟩
  · exact ⟨(nmuRuns 0).mapNmu fun n => { n with run := some { run94 with replayed := true }, stuck := [94] }, { run94 with replayed := true }, rfl, ⟨rfl, rfl, rfl⟩, by decide, rfl⟩

/-! ### Witnesses: full queues -/

/-- What the clauses on a full queue ask. -/
def fullAsks (q : Queue) (dead : Bool) (i : Instr) (x : XOp) (ok : Prop) (s : State) : Prop :=
  queueRow s i = some (x, q, ok) ∧ ok ∧ i.wf = true ∧ Issues x.h.g x.wait.val s ∧ 16 ≤ (s.core.queue q).length ∧ s.queueDead q = dead

theorem fullOf (q : Queue) (i : Instr) (x : XOp) (ok : Bool → Prop) (s : State) (h : ∀ g, queueRow (filled q g s) i = some (x, q, ok g)) (o : ∀ g, ok g) (w : i.wf = true)
    (d : ∀ g, Issues x.h.g x.wait.val (filled q g s)) (n : ∀ g : Bool, 16 ≤ ((filled q g s).core.queue q).length) (e : ∀ g : Bool, (filled q g s).queueDead q = g) (dead : Bool) :
    ∃ i x ok s, fullAsks q dead i x ok s := ⟨i, x, ok dead, filled q dead s, h dead, o dead, w, d dead, n dead, e dead⟩

theorem wit_FullQueue : ∀ (q : Queue) (dead : Bool), ∃ i x ok s, fullAsks q dead i x ok s
  | .v => fullOf .v (.vadd v32) v32 _ runs (fun _ => rfl) (fun _ => trivial) (by decide) (fun _ => ⟨rfl, rfl, rfl, fun _ => rfl, rfl⟩) (by decide) (by decide +kernel)
  | .m => fullOf .m (.mclr x0) x0 _ runs (fun _ => rfl) (fun _ => trivial) (by decide) (fun _ => ⟨rfl, rfl, rfl, fun _ => rfl, rfl⟩) (by decide) (by decide +kernel)
  | .s => fullOf .s (.scan (xs 2)) (xs 2) _ (scans none 2) (fun _ => rfl) (by intro g; cases g <;> exact ⟨by unfold scanLegal; decide, by decide, by decide, .inr ⟨by decide, _, rfl⟩⟩) (by decide)
      (fun _ => ⟨rfl, rfl, rfl, fun _ => rfl, rfl⟩) (by decide) (by decide +kernel)
  | .e => fullOf .e (.adest (x9 0)) (x9 0) _ (actor9 in5) (fun _ => rfl) (by intro g; cases g <;> exact ⟨_, _, _, rfl⟩) (by decide) (fun _ => ⟨rfl, rfl, rfl, fun _ => rfl, rfl⟩) (by decide) (by decide +kernel)
  | .g => fullOf .g (.gath (xl 4)) (xl 4) _ (rec1 0x1000000000000000 (w1Of 4 0 0) 2 1 0x100 0 runs) (fun _ => rfl)
      (by intro g; cases g <;> exact ⟨by decide, by decide, by decide, by decide, by unfold gateFound; decide, by decide⟩) (by decide) (fun _ => ⟨rfl, rfl, rfl, fun _ => rfl, rfl⟩) (by decide) (by decide +kernel)
  | .l => fullOf .l (.ltick { x9 0 with b := 0 }) { x9 0 with b := 0 } _ runs (fun _ => rfl) (fun _ => trivial) (by decide) (fun _ => ⟨rfl, rfl, rfl, fun _ => rfl, rfl⟩) (by decide) (by decide +kernel)
  | .q => fullOf .q (.tld { x9 0x3FF with ty := 3 }) { x9 0x3FF with ty := 3 } _ (at9 0x3E00) (fun _ => rfl) (by intro g; cases g <;> exact ⟨_, rfl⟩) (by decide) (fun _ => ⟨rfl, rfl, rfl, fun _ => rfl, rfl⟩)
      (by decide) (by decide +kernel)
  | .n => fullOf .n (.nmwait { x0 with d := 3 }) { x0 with d := 3 } _ runs (fun _ => rfl) (fun _ => trivial) (by decide) (fun _ => ⟨rfl, rfl, rfl, fun _ => rfl, rfl⟩) (by decide) (by decide +kernel)
/-! ### Witnesses: debug, privilege, gangs, steps -/

/-- The task with SELF set, and s9. -/
def selfDebug (a : Word) : State := (at9 a).mapCore fun c => { c with dbg := { c.dbg with ctl := 1 } }
theorem ready_selfDebug (a : Word) (n : Nat) : Ready always 0 n (selfDebug a) := ⟨⟨rfl, rfl, rfl, fun _ => rfl, rfl⟩, rfl⟩

theorem wit_Debug : ∃ i x ok f s, debugRow i = some (x, ok, f) ∧ i.wf = true ∧ Ready x.h.g x.wait.val i.bytes s ∧ s.core.dbg.ctl.getLsbD 0 = true ∧ ok s :=
  ⟨.dwset { x9 3 with b := 2 }, _, _, _, selfDebug 0x3FF8, rfl, by decide, ready_selfDebug _ _, by decide⟩
theorem wit_Debug_privop : ∃ i x ok f s, debugRow i = some (x, ok, f) ∧ i.wf = true ∧ Issues x.h.g x.wait.val s ∧ s.core.dbg.ctl.getLsbD 0 = false :=
  ⟨.trctl (x9 0), _, _, _, at9 0x41, rfl, by decide, (ready_at9 _ 12).toIssues, rfl⟩
theorem wit_Debug_align : ∃ i x ok f s, debugRow i = some (x, ok, f) ∧ i.wf = true ∧ Issues x.h.g x.wait.val s ∧ s.core.dbg.ctl.getLsbD 0 = true ∧ i = .dbset x
    ∧ (s.core.regs.rs x.a).toNat % 4 ≠ 0 := ⟨.dbset (x9 0), _, _, _, selfDebug 2, rfl, by decide, (ready_selfDebug _ 12).toIssues, by decide, rfl, by decide⟩
theorem wit_Debug_dwset (f : Fin 3) : ∃ i x ok g s, debugRow i = some (x, ok, g) ∧ i.wf = true ∧ Issues x.h.g x.wait.val s ∧ s.core.dbg.ctl.getLsbD 0 = true ∧ i = .dwset x
    ∧ (let a := s.core.regs.rs x.a
       match f with
       | 0 => ¬(a.toNat < 2 ^ 60)
       | 1 => a.toNat < 2 ^ 60 ∧ a.toNat % 8 ≠ 0
       | 2 => a.toNat < 2 ^ 60 ∧ a.toNat % 8 = 0 ∧ s.core.span.2 < a.toNat + 8) := by
  match f with
  | 0 => exact ⟨.dwset (x9 0), _, _, _, selfDebug 0x1000000000000000, rfl, by decide, (ready_selfDebug _ 12).toIssues, by decide, rfl, by decide⟩
  | 1 => exact ⟨.dwset (x9 0), _, _, _, selfDebug 4, rfl, by decide, (ready_selfDebug _ 12).toIssues, by decide, rfl, by decide⟩
  | 2 => exact ⟨.dwset (x9 0), _, _, _, selfDebug 0x4000, rfl, by decide, (ready_selfDebug _ 12).toIssues, by decide, rfl, by decide⟩
theorem wit_Debug_mark : ∃ (x : XOp) (s : State), (Instr.trmark x).wf = true ∧ Ready x.h.g x.wait.val (Instr.trmark x).bytes s := ⟨x9 0, runs, by decide, ready_runs _⟩
theorem wit_Debug_dacc (i : Fin 3) : ∃ (x : XOp) (s : State), (Instr.dacc x).wf = true ∧ Ready x.h.g x.wait.val (Instr.dacc x).bytes s ∧ x.w2f 0 7 = 63 + i.val := by
  match i with
  | 0 => exact ⟨{ x0 with d := 3, w2 := 63 }, runs, by decide, ready_runs _, rfl⟩
  | 1 => exact ⟨{ x0 with d := 3, w2 := 64 }, runs, by decide, ready_runs _, rfl⟩
  | 2 => exact ⟨{ x0 with d := 3, w2 := 65 }, runs, by decide, ready_runs _, rfl⟩

/-- A halted core with an instruction of the management path, s9 and s2. -/
def pathAt (a b : Word) (s : State) : State :=
  { s with core := { (s.mapRegs fun r => (r.ws 9 a).ws 2 b).core with mgmt := true, halted := true } }
theorem managed_pathAt (a b : Word) : Managed always 0 (pathAt a b (mapped 0)) := ⟨rfl, rfl, rfl, fun _ => rfl, rfl⟩

theorem wit_Priv (f : Fin 4) : ∃ i x ok g s, privRow i = some (x, ok, g) ∧ i.wf = true ∧ Managed x.h.g x.wait.val s ∧ ok s
    ∧ (match f with | 0 => i = .tlbinv x | 1 => i = .clrset x | 2 => i = .ltmode x | 3 => i = .crset x) := by
  match f with
  | 0 => exact ⟨.tlbinv (x9 2), _, _, _, pathAt 0 0 (mapped 0), rfl, by decide, managed_pathAt _ _, by decide, rfl⟩
  | 1 => exact ⟨.clrset { x9 0 with b := 2 }, _, _, _, pathAt 256 1 (mapped 0), rfl, by decide, managed_pathAt _ _, by decide, rfl⟩
  | 2 => exact ⟨.ltmode (x9 1), _, _, _, pathAt 0xFFFF 0 (mapped 0), rfl, by decide, managed_pathAt _ _, by decide, rfl⟩
  | 3 => exact ⟨.crset (x9 0), _, _, _, pathAt 0x1000 0 (mapped 0), rfl, by decide, managed_pathAt _ _, trivial, rfl⟩
theorem wit_Priv_privop : ∃ (i : Instr) (x : XOp) (s : State), privInstr i = some x ∧ i.wf = true ∧ Issues x.h.g x.wait.val s := ⟨.crset (x9 0), _, runs, rfl, by decide, issues_runs⟩

/-- Actor 5 with a region of 4 KiB. -/
def park5 : Actor := { actor5 with size := 0x1000 }

/-- It is resident and runs nothing, beside a mapped page. -/
def parked : State :=
  let s := besideActor 0
  { s with grove := (mapped 0).grove, core := { s.core with act := none, actors := some park5 :: List.replicate 15 none } }

/-- The first part of an image's place, without the state after it. -/
theorem parts_of {ε : Type} {x : Except ε (List (Nat × Nat) × State)} {p : Nat × Nat} (h : x.toOption.bind (fun v => v.1.head?) = some p) :
    ∃ l u, x = .ok (p :: l, u) := by
  cases x with
  | error => simp [Except.toOption] at h
  | ok v =>
    obtain ⟨a, u⟩ := v
    cases a with
    | nil => simp [Except.toOption] at h
    | cons q l => simp [Except.toOption] at h; exact ⟨l, u, by rw [h]⟩

theorem image_write : ∃ n l u, imageAt .write ((pathAt 0x1000000000000100 5 parked).core.regs.rs 9)
    (((pathAt 0x1000000000000100 5 parked).image 5 false).bytes (((pathAt 0x1000000000000100 5 parked).image 5 false).parts.toNat &&& 0))
      (pathAt 0x1000000000000100 5 parked) = .ok ((0x100, n) :: l, u) := ⟨64, parts_of (by decide +kernel)⟩

theorem wit_Ctxsv : ∃ (x : XOp) (s u : State) (a : Actor) (pa n : Nat) (l : List (Nat × Nat)), (Instr.ctxsv x).wf = true ∧ Managed x.h.g x.wait.val s
    ∧ s.core.regs.rs x.b = a.aid.setWidth 64 ∧ a.aid ≠ 0 ∧ s.core.actor a.aid = some a ∧ s.core.runs a.aid = false
    ∧ imageAt .write (s.core.regs.rs x.a) ((s.image a.aid false).bytes ((s.image a.aid false).parts.toNat &&& x.w2f 0 6)) s = .ok ((pa, n) :: l, u) :=
  image_write.elim fun _ h => h.elim fun _ h => h.elim fun _ h =>
    ⟨{ x9 0 with b := 2 }, pathAt 0x1000000000000100 5 parked, _, park5, _, _, _, by decide, ⟨rfl, rfl, rfl, fun _ => rfl, rfl⟩, by decide, by decide, rfl, by decide, h⟩

/-- A saved image of a region of 4 KiB, its parts given, at device address 0x100; pages 0 and 1 are mapped. -/
def saved (parts : BitVec 6) (at_ : Nat := 0x100) : State :=
  let s := pathAt (BitVec.ofNat 64 (2 ^ 60 + at_)) 5 parked
  { s with grove := { s.grove with tlb := s.grove.tlb ++ [{ tenant := 0, vpage := 1, big := false, pbase := 0x10000, w := true, x := true }] }, pkg := { s.pkg with images := [(at_, { s.image 5 false with parts := parts, region := List.replicate 0x1000 7, regions := [], ganged := false })] } }

/-- The saved image. -/
def im5 (parts : BitVec 6) : Image := { (pathAt 0x1000000000000100 5 parked).image 5 false with parts := parts, region := List.replicate 0x1000 7, regions := [], ganged := false }

/-- What a read of the whole image comes to after that of its header. -/
def reread (a : Word) (n : Nat) (s : State) (p : Nat) : Option (Option Cause) :=
  match readParts a 64 s with
  | .ok (l, u) => if firstPart l = p then some (match readParts a n u with | .ok _ => none | .error e => some e.1) else none
  | _ => none
theorem reread_of {a : Word} {n p : Nat} {s : State} {c : Option Cause} (h : reread a n s p = some c) : ∃ l u, readParts a 64 s = .ok (l, u) ∧ firstPart l = p
    ∧ (c = none → ∃ m v, readParts a n u = .ok (m, v)) ∧ ∀ d, c = some d → ∃ v, readParts a n u = .error (d, v) := by
  unfold reread at h
  split at h
  · next l u e =>
    split at h
    · next q =>
      have g := Option.some.inj h
      refine ⟨l, u, e, q, fun c => ?_, fun d c => ?_⟩ <;> subst c
      · split at g
        · next v x => exact ⟨_, _, x⟩
        · nomatch g
      · split at g
        · nomatch g
        · next v x => exact ⟨v.2, by rw [x, ← Option.some.inj g]⟩
    · nomatch h
  · nomatch h

/-- What CTXLD's clauses ask of the actor and of the image's header. -/
def loadsImage (x : XOp) (s u : State) (a : Actor) (im : Image) (l : List (Nat × Nat)) : Prop :=
  (Instr.ctxld x).wf = true ∧ Managed x.h.g x.wait.val s ∧ s.core.regs.rs x.b = a.aid.setWidth 64 ∧ a.aid ≠ 0 ∧ s.core.actor a.aid = some a ∧ s.core.scratch.wf = true
    ∧ readParts (s.core.regs.rs x.a) 64 s = .ok (l, u) ∧ s.pkg.images.find? (fun p => p.1 == firstPart l) = some (firstPart l, im) ∧ im.region.length = a.size
theorem wit_Ctxld : ∃ x s u a im l m v, loadsImage x s u a im l ∧ x.w2f 0 6 &&& im.parts.toNat = x.w2f 0 6 ∧ im.regions = [] ∧ im.ganged = false
    ∧ readParts (s.core.regs.rs x.a) (im.bytes im.parts.toNat) u = .ok (m, v) := by
  obtain ⟨l, u, h, e, g, -⟩ := reread_of (a := (saved 0x33).core.regs.rs 9) (n := (im5 0x33).bytes 0x33) (p := 0x100) (s := saved 0x33) (c := none) (by decide +kernel)
  obtain ⟨m, v, g⟩ := g rfl
  exact ⟨{ x9 0x31 with b := 2 }, saved 0x33, u, park5, im5 0x33, l, m, v, ⟨by decide, ⟨rfl, rfl, rfl, fun _ => rfl, rfl⟩, by decide, by decide, rfl, rfl, h, by rw [e]; rfl,
    List.length_replicate⟩, by decide, rfl, rfl, g⟩
theorem wit_Ctxld_fault : ∃ x s u a im l c v, loadsImage x s u a im l ∧ x.w2f 0 6 &&& im.parts.toNat = x.w2f 0 6
    ∧ readParts (s.core.regs.rs x.a) (im.bytes im.parts.toNat) u = .error (c, v) := by
  obtain ⟨l, u, h, e, -, g⟩ := reread_of (a := (saved 0x33 0xFFC0).core.regs.rs 9) (n := (im5 0x33).bytes 0x33) (p := 0xFFC0) (s := saved 0x33 0xFFC0) (c := some .xfault) (by decide +kernel)
  obtain ⟨v, g⟩ := g _ rfl
  exact ⟨{ x9 0x31 with b := 2 }, saved 0x33 0xFFC0, u, park5, im5 0x33, l, _, v, ⟨by decide, ⟨rfl, rfl, rfl, fun _ => rfl, rfl⟩, by decide, by decide, rfl, rfl, h, by rw [e]; rfl,
    List.length_replicate⟩, by decide, g⟩
theorem wit_Ctxld_lacks : ∃ x s u a im l, loadsImage x s u a im l ∧ x.w2f 0 6 &&& im.parts.toNat ≠ x.w2f 0 6 := by
  obtain ⟨l, u, h, e, _⟩ := reread_of (a := (saved 0x0F).core.regs.rs 9) (n := 64) (p := 0x100) (s := saved 0x0F) (c := none) (by decide +kernel)
  exact ⟨{ x9 0x3F with b := 2 }, saved 0x0F, u, park5, im5 0x0F, l, ⟨by decide, ⟨rfl, rfl, rfl, fun _ => rfl, rfl⟩, by decide, by decide, rfl, rfl, h, by rw [e]; rfl,
    List.length_replicate⟩, by decide⟩

/-- The task with a gang of its own size declared. -/
def asGang (g : Nat) (tag : Option (BitVec 16)) (s : State) : State := s.mapCore fun c => { c with act := some { act0 with g := g, split := 0x1000000000000200, arrived := tag } }

theorem wit_Gang (g : Fin 2) : ∃ (x : XOp) (s : State) (a : Activation), (Instr.gang x).wf = true ∧ Ready x.h.g x.wait.val (Instr.gang x).bytes s ∧ s.core.act = some a ∧ a.g = g.val + 1 := by
  match g with
  | 0 => exact ⟨x9 8, asGang 1 none runs, _, by decide, ⟨⟨rfl, rfl, rfl, fun _ => rfl, rfl⟩, rfl⟩, rfl, rfl⟩
  | 1 => exact ⟨x9 8, asGang 2 none runs, _, by decide, ⟨⟨rfl, rfl, rfl, fun _ => rfl, rfl⟩, rfl⟩, rfl, rfl⟩
theorem wit_Split : ∃ (x : XOp) (s : State), (Instr.split x).wf = true ∧ Ready x.h.g x.wait.val (Instr.split x).bytes s := ⟨x0, runs, by decide, ready_runs _⟩

/-- Two cores of a gang, the second a follower. -/
def pair : State :=
  let s := (asGang 2 none runs).mapCore fun c => { c with ganged := true }
  { s with peers := [{ s.core with ix := 1, pkgIx := 1, regs := { s.core.regs with gangix := 1 } }] }

theorem wit_Split_gang : ∃ (x : XOp) (s : State), (Instr.split x).wf = true ∧ GangIssues x.h.g x.wait.val s ∧ runsOff s.core (Instr.split x).bytes = false ∧ s.peers ≠ [] :=
  ⟨x0, pair, by decide, ⟨rfl, rfl, rfl, fun c h => by simp [pair] at h; subst h; exact ⟨rfl, rfl⟩, fun c h => by
    simp [pair] at h
    obtain rfl | rfl := h
    · exact ⟨rfl, fun _ => rfl, rfl⟩
    · exact ⟨rfl, fun _ => rfl, rfl⟩⟩, rfl, fun h => nomatch h⟩

/-- Two cores that wait at GANG with tags as items 0 and 1 of a gang. -/
def waitPair (t u : BitVec 16) : State :=
  let s := asGang 2 (some t) runs
  { s with peers := [{ (asGang 2 (some u) runs).core with ix := 1, pkgIx := 1, regs := { s.core.regs with wid := 1 } }] }

theorem wit_GangJoin : ∃ (s : State) (a : Activation) (tags : List (BitVec 16)) (g : BitVec 16), s.core.act = some a ∧ s.gangTags = some tags ∧ ∀ h ∈ tags, h = g :=
  ⟨waitPair 7 7, { act0 with g := 2, split := 0x1000000000000200, arrived := some 7 }, [7, 7], 7, by decide +kernel, by decide +kernel, by simp⟩
theorem wit_GangJoin_unequal : ∃ (s : State) (tags : List (BitVec 16)), s.gangTags = some tags ∧ ∃ g ∈ tags, ∃ h ∈ tags, g ≠ h :=
  ⟨waitPair 7 8, [7, 8], by decide +kernel, 7, by decide, 8, by decide⟩
theorem wit_GangTimeout : ∃ (s : State) (g : BitVec 16), s.core.gangTag = some g ∧ s.core.regs.bartmo ≠ 0 ∧ s.peers = []
    ∧ (s.cores.filter fun d => d.gangKey == s.core.gangKey).length < s.core.gangOf :=
  ⟨(asGang 2 (some 7) runs).mapRegs fun r => { r with bartmo := 100 }, 7, by decide +kernel, by decide +kernel, rfl, by decide +kernel⟩

/-- The task at an instruction in a page of device memory. -/
def atWord (w : IWord) : State :=
  { mapped 0 with pkg := { (mapped 0).pkg with dmem := ((List.range 4).map fun i => (i, BitVec.ofNat 8 (w.toNat / 256 ^ i))).filter fun c => c.2 != 0 }, agenda := [], turn := .core }

/-- The one member of a core alone. -/
theorem alone_member {s : State} {c : Core} (a : s.core.ganged = false) (h : c ∈ s.together) : c = s.core := by
  rw [State.together_alone a] at h
  exact List.mem_singleton.mp h

theorem atIssue_atWord (w : IWord) (h : boundary (atWord w) = none) : AtIssue (atWord w) :=
  ⟨rfl, rfl, ⟨rfl, rfl, fun c h => alone_member rfl h ▸ (by decide : runs.core.stopped = false), rfl, rfl⟩, rfl, .inl rfl, h, rfl, rfl, fun c h => alone_member (s := atWord w) rfl h ▸ rfl⟩

theorem wit_Step : ∃ (s t : State) (ws : List IWord) (i : Instr), AtIssue s ∧ fetch s = .words ws t ∧ decode ws = .ok i :=
  ⟨atWord 0x01483004, _, [0x01483004], .add { h := h0, d := 3, a := 4, b := 5 }, atIssue_atWord _ (by decide +kernel), rfl, rfl⟩
theorem wit_Step_illegal : ∃ (s t : State) (ws : List IWord), AtIssue s ∧ fetch s = .words ws t ∧ ∀ j, decode ws ≠ .ok j :=
  ⟨atWord 0, _, [0], atIssue_atWord _ (by decide +kernel), rfl, fun j h => by
    have e : (decode [0]).toOption = none := by decide
    rw [h] at e
    exact nomatch e⟩
theorem wit_Step_fetch : ∃ (s : State) (e : TlbEntry) (va n : Nat), va < 2 ^ 48 ∧ va % 4 = 0 ∧ va % 2 ^ 16 + 20 ≤ 2 ^ 16 ∧ s.core.regs.pc = BitVec.ofNat 64 (2 ^ 60 + va) ∧ s.pkg.badUnits = []
    ∧ (s.core.act.bind fun a => a.carried) = none ∧ (∀ b ∈ s.core.icache, b.2 = s.pkg.dmem.readN (16 * b.1) 16) ∧ e.pbase % 16 = 0
    ∧ tlbFind s.grove.tlb s.core.tenant va = some e ∧ e.x = true ∧ n = wordsOf (s.pkg.dmem.iword (s.pkg.cell (e.pa va))).toNat :=
  ⟨(atWord 0).mapRegs fun r => { r with pc := 0x100000000000FFEC }, _, 0xFFEC, _, by decide, by decide, by decide, rfl, rfl, rfl, nofun, by decide, rfl, rfl, rfl⟩
theorem wit_Step_nmu : ∃ (s : State) (r : NRun) (w : IWord) (i : Instr), s.agenda = [] ∧ s.turn = .nmu 0 ∧ s.core.nmu.run = some r ∧ r.ended = false ∧ r.waiting = false
    ∧ s.core.nmu.parityOk r.entry = true ∧ (s.core.nmu.buf[r.entry]?).map Prod.fst = some w ∧ nmuDecode w = some i :=
  ⟨{ (nmuRuns 0).mapNmu fun n => { n with buf := n.buf.set 94 (0xC0000000, true) } with turn := .nmu 0 }, run94, 0xC0000000, .nend, rfl, rfl, rfl, rfl, rfl, by decide, rfl, rfl⟩
theorem wit_Step_event (f : Fin 3) : ∃ (s : State) (i : Instr) (l : List (Nat × Instr)), s.agenda = (0, i) :: l
    ∧ (match f with | 0 => atBoundary i = false | 1 => faultFirst i { s with agenda := l } = none | 2 => (faultFirst i { s with agenda := l }).isSome = true) := by
  match f with
  | 0 => exact ⟨{ runs with agenda := [(0, .clearingRefill)] }, _, _, rfl, rfl⟩
  | 1 => exact ⟨{ atWord 0x01483004 with agenda := [(0, .preemption)] }, _, _, rfl, by decide +kernel⟩
  | 2 => exact ⟨{ atWord 0 with agenda := [(0, .preemption)] }, _, _, rfl, by decide +kernel⟩
theorem wit_Decode : ∃ i : Instr, i.wf = true ∧ encode i ≠ [] := ⟨.add { h := h0, d := 3, a := 4, b := 5 }, by decide⟩
theorem wit_DecodeNmu : ∃ (i : Instr) (w : IWord), i.wf = true ∧ nmuEncode i = some w := ⟨.nend, _, by decide, rfl⟩
theorem wit_Canonical : ∃ (i : Instr) (s t : State), s.memWf = true ∧ exec i s = .next t := ⟨.clearingRefill, runs, _, by decide, rfl⟩
/-! ### Witnesses: events -/

theorem serves_runs : runs.serves := ⟨rfl, rfl⟩

theorem wit_Package_bringup : ∃ s : State, s.pkg.started = true ∧ s.pkg.ready = false := ⟨{ runs with pkg := { runs.pkg with ready := false } }, rfl, rfl⟩
theorem wit_Package_boot : ∃ (img : List Byte) (j : Nat), (∀ i < j, (bootChecks img).getD i false = true) ∧ (bootChecks img)[j]? = some false := ⟨[], 0, nofun, by decide +kernel⟩
theorem wit_Package_domain : ∃ (d : BitVec 8) (s : State), s.pkg.started = true ∧ d.toNat ≤ 0xBF := ⟨0xBF, runs, rfl, by decide⟩

/-- A package whose port 0 is held and whose port 1 is up. -/
def portsOf : State := { runs with pkg := { runs.pkg with ports := ((Vector.replicate 64 {}).set 0 { up := false, failed := true, held := true }).set 1 { up := true, leads := [3] } } }

theorem wit_Package_port : ∃ (p : Fin 64) (s : State), (s.pkg.ports[p]).up = true ∧ (s.pkg.ports[p]).failed = false := ⟨1, portsOf, rfl, rfl⟩
theorem wit_Package_pair : ∃ (p q : Fin 64) (pk : Nat) (s : State), (s.pkg.ports[p]).held = true ∧ (s.pkg.ports[q]).up = true ∧ (s.pkg.ports[q]).failed = false
    ∧ pk ∈ (s.pkg.ports[q]).leads ∧ s.peers = [] ∧ s.core.posted = [] ∧ s.core.await = none := ⟨0, 1, 3, portsOf, rfl, rfl, rfl, by decide, rfl, rfl, rfl⟩
theorem wit_Package_notReady : ∃ (i : Instr) (s : State), isRequest i = true ∧ s.pkg.started = true ∧ s.pkg.ready = false :=
  ⟨.free 1 0, { runs with pkg := { runs.pkg with ready := false } }, rfl, rfl, rfl⟩
theorem wit_Package_allocate : ∃ (r : AllocReq) (s : State), s.serves ∧ s.pkg.fits r = true :=
  ⟨{ tenant := 1, va := 2 ^ 48 - 0x10000, pa := 0x5FFFFE0000, pages := 1, write := true, execute := false }, runs, serves_runs, by decide⟩

/-- One page of tenant 1 at its address 0, at physical address 0x20000. -/
def alloc1 : Alloc := { tenant := 1, va := 0, pa := 0x20000, pages := 1, w := true, x := true }
def allotted : State := { runs with pkg := { runs.pkg with allocs := [alloc1] } }

theorem wit_Package_free : ∃ (tn : BitVec 16) (va : Nat) (a : Alloc) (s : State), s.serves ∧ s.pkg.allocs.find? (fun a => a.tenant == tn && a.va == va) = some a :=
  ⟨1, 0, alloc1, allotted, ⟨rfl, rfl⟩, rfl⟩
theorem wit_Package_freeNone : ∃ (tn : BitVec 16) (va : Nat) (s : State), s.serves ∧ s.pkg.allocs.find? (fun a => a.tenant == tn && a.va == va) = none := ⟨2, 0, allotted, ⟨rfl, rfl⟩, rfl⟩
theorem wit_Package_write : ∃ (tn : BitVec 16) (va pa : Nat) (bs : List Byte) (s : State), s.serves ∧ s.pkg.within tn va bs.length = some [(pa, bs.length)] ∧ s.pkg.dmem.wf = true ∧ s.pkg.badUnits = [] :=
  ⟨1, 0xFFFF, 0x2FFFF, [7], allotted, ⟨rfl, rfl⟩, by decide, rfl, rfl⟩

/-- A second page, at the address after the first and at a lower physical address. -/
def allotted2 : State := { runs with pkg := { runs.pkg with allocs := [alloc1, { alloc1 with va := 0x10000, pa := 0 }] } }

theorem wit_Package_writeTwo : ∃ (tn : BitVec 16) (va : Nat) (l : List (Nat × Nat)) (bs : List Byte) (s : State), s.serves ∧ s.pkg.within tn va bs.length = some l ∧ s.pkg.dmem.wf = true
    ∧ s.pkg.badUnits = [] ∧ l.Pairwise (fun a b => Machine.apart a.1 a.2 b.1 b.2 = true) ∧ l.length = 2 :=
  ⟨1, 0xFFFF, [(0x2FFFF, 1), (0, 1)], [7, 8], allotted2, ⟨rfl, rfl⟩, by decide, rfl, rfl, by decide, rfl⟩
theorem wit_Package_writeNone : ∃ (tn : BitVec 16) (va : Nat) (bs : List Byte) (s : State), s.serves ∧ s.pkg.within tn va bs.length = none := ⟨1, 0xFFFF, [7, 8], allotted, ⟨rfl, rfl⟩, by decide⟩
theorem wit_Package_code : ∃ (tn : BitVec 16) (segs : List (Nat × List Byte)) (s : State), s.serves ∧ (∀ g ∈ segs, (s.pkg.within tn g.1 g.2.length).isSome = true) ∧ segs = [(0, [7])] :=
  ⟨1, [(0, [7])], allotted, ⟨rfl, rfl⟩, by decide, rfl⟩
theorem wit_Package_codeNone : ∃ (tn : BitVec 16) (segs : List (Nat × List Byte)) (s : State), s.serves ∧ ∃ g ∈ segs, s.pkg.within tn g.1 g.2.length = none :=
  ⟨1, [(0x10000, [7])], allotted, ⟨rfl, rfl⟩, _, List.mem_singleton.mpr rfl, by decide⟩

/-- Tenant 0's launch header at the interleaved address 0x100, its page mapped by the tables of tenant 0. -/
def rooted : State :=
  let s := device launchHeader
  { s with pkg := s.pkg.mapPages { tenant := 0, va := 0, pa := 0, pages := 1, w := true, x := true } true 1 }
def asksLaunch (a : PlacerAns) : LaunchReq := { header := 0x1000000000000100, tenant := 0, attach := none, answer := a }

/-- The same with the header of a SPAWN. -/
def rootedSpawn : State :=
  let s := device spawnHeader
  { s with pkg := s.pkg.mapPages { tenant := 0, va := 0, pa := 0, pages := 1, w := true, x := true } true 1 }

theorem wit_Package_launch : ∃ (r : LaunchReq) (raw : List Byte) (h : Header) (tr : List TreeDecl) (br : List Nat) (v s : State) (n : Nat), s.serves ∧ hostHeader r s = some raw
    ∧ parseLaunch raw = some h ∧ declsOf h.forHost (s.asTenant r.tenant) = some (tr, br, v) ∧ r.answer = .slot n ∧ s.pkg.slotFree n = true
    ∧ ({ s.pkg with launches := s.pkg.launches ++ [newLaunch n r.tenant h.forHost tr br false 0 0 0 s.core.sliceBase r.attach] } : Pkg).unitsFit = true :=
  ⟨asksLaunch (.slot 1), launchHeader, headerOf launchHeader, [], [], (rooted.asTenant 0), rooted, 1, ⟨by decide +kernel, by decide +kernel⟩, by decide +kernel, by decide +kernel, rfl, rfl, by decide +kernel, by decide +kernel⟩
theorem wit_Package_launchNone : ∃ (r : LaunchReq) (raw : List Byte) (s : State), s.serves ∧ hostHeader r s = some raw ∧ parseLaunch raw = none :=
  ⟨asksLaunch (.slot 1), spawnHeader, rootedSpawn, ⟨by decide +kernel, by decide +kernel⟩, by decide +kernel⟩

/-- A launch in slot 1 that a host asked for, or a device. -/
def hosted (dev actors unmade : Bool) : State :=
  { runs with
    core := { runs.core with act := none }
    pkg := { runs.pkg with launches := [{ launch1 { hdrPol 0 with actors := actors, cnt := [if unmade then 4 else 0, 0, 0, 0, 0, 0] } with byDevice := dev }] } }

theorem wit_Package_wait : ∃ (l : Launch) (n : Nat) (s : State), s.serves ∧ s.pkg.launch (BitVec.ofNat 12 n) = some l ∧ l.byDevice = false ∧ s.remains l = true
    ∧ l.hdr.actors = false := ⟨_, 1, hosted false false true, ⟨rfl, rfl⟩, rfl, rfl, by decide +kernel, rfl⟩
theorem wit_Package_waited (waiting : Bool) : ∃ (l : Launch) (n : Nat) (s : State), s.serves ∧ s.pkg.launch (BitVec.ofNat 12 n) = some l ∧ l.byDevice = false ∧ s.remains l = false
    ∧ l.report = none ∧ s.pkg.waiting.contains l.slot = waiting := by
  cases waiting
  · exact ⟨_, 1, hosted false false false, ⟨rfl, rfl⟩, rfl, rfl, by decide +kernel, rfl, rfl⟩
  · exact ⟨_, 1, { hosted false false false with pkg := { (hosted false false false).pkg with waiting := [1, 1] } }, ⟨rfl, rfl⟩, rfl, rfl, by decide +kernel, rfl, rfl⟩
theorem wit_Package_completes (dev : Bool) : ∃ (l : Launch) (n : Nat) (s : State), s.serves ∧ s.pkg.launch (BitVec.ofNat 12 n) = some l ∧ l.byDevice = dev ∧ s.remains l = false
    ∧ l.report = none ∧ l.notify = 0 := by
  cases dev
  · exact ⟨_, 1, hosted false false false, ⟨rfl, rfl⟩, rfl, rfl, by decide +kernel, rfl, rfl⟩
  · exact ⟨_, 1, hosted true false false, ⟨rfl, rfl⟩, rfl, rfl, by decide +kernel, rfl, rfl⟩
theorem wit_Package_destroy : ∃ (l : Launch) (n : Nat) (s : State), s.serves ∧ s.pkg.launch (BitVec.ofNat 12 n) = some l ∧ l.hdr.actors = true ∧ s.pkg.evicting = [] := ⟨_, 1, hosted false true true, ⟨rfl, rfl⟩, rfl, rfl, rfl⟩

/-- Actor 5 of tenant 7's launch 1 on the core, which runs it or a task. -/
def holds5 (runs5 : Bool) : State :=
  let s := if runs5 then ofMessage else besideActor 0
  { s with pkg := { (hosted false true true).pkg with dir := s.pkg.dir } }
theorem wit_Package_evict (runs5 : Bool) : ∃ (tn : BitVec 16) (aid : BitVec 24) (a : Actor) (s : State), s.serves ∧ s.pkg.owns tn aid = true ∧ residentAt aid s.cores 0 = some (0, a)
    ∧ s.core.actor aid = some a ∧ (if runs5 then s.core.engaged aid = true ∧ s.core.ganged = false else s.core.engaged aid = false ∧ s.settled = true ∧ s.pkg.evicting = []) := by
  cases runs5
  · exact ⟨7, 5, _, holds5 false, ⟨rfl, rfl⟩, by decide +kernel, rfl, rfl, by decide, by decide +kernel, rfl⟩
  · exact ⟨7, 5, _, holds5 true, ⟨rfl, rfl⟩, by decide +kernel, rfl, rfl, by decide, rfl⟩
theorem wit_Package_evictElsewhere (owned : Bool) : ∃ (tn : BitVec 16) (aid : BitVec 24) (s : State), s.serves ∧ s.pkg.owns tn aid = owned ∧ residentAt aid s.cores 0 = none := by
  cases owned
  · exact ⟨8, 6, holds5 false, ⟨rfl, rfl⟩, by decide +kernel, rfl⟩
  · exact ⟨7, 5, { hosted false true true with pkg := { (hosted false true true).pkg with dir := (actorAway 0).pkg.dir } }, ⟨rfl, rfl⟩, by decide +kernel, rfl⟩
theorem wit_Package_saved : ∃ (aid : BitVec 24) (a : Actor) (s : State), s.core.act = none ∧ s.core.halted = false ∧ s.core.toEvict = some aid ∧ s.core.actor aid = some a ∧ s.settled = true
    ∧ s.pkg.evicting = [aid] :=
  let s := (holds5 false).mapCore fun c => { (c.mapActor 5 fun a => { a with evict := true }) with act := none }
  ⟨5, _, { s with pkg := { s.pkg with evicting := [5] } }, rfl, rfl, rfl, rfl, by decide +kernel, rfl⟩
theorem wit_Package_cap (ok : Bool) : ∃ (w : Nat) (s : State), s.serves ∧ decide (1200 ≤ w ∧ w ≤ 2400) = ok := by
  cases ok
  · exact ⟨1199, runs, serves_runs, by decide⟩
  · exact ⟨2400, runs, serves_runs, by decide⟩
theorem wit_Package_attest : ∃ (nonce : List Byte) (s : State), s.serves ∧ nonce.length = 32 := ⟨List.replicate 32 0, runs, serves_runs, by decide⟩

/-- The task with its debug module changed. -/
def debugs (f : Debug → Debug) : State := runs.mapCore fun c => { c with dbg := f c.dbg }

/-- A state whose debug requests are a tenant's, for core 0. -/
def naming (tn : BitVec 16) (s : State) : State := { s with pkg := { s.pkg with named := { tenant := tn, cores := 1 } } }

theorem wit_Debug_request (stopped away : Bool) : ∃ s : State, s.serves ∧ s.core.foreign s.pkg.named.tenant = away ∧ s.core.stopped = stopped ∧ s.core.ganged = false ∧ s.core.dbg.stop = none
    ∧ s.pkg.named.cores.getLsbD s.core.ix.val = true ∧ (∀ c ∈ s.cores, s.pkg.named.cores.getLsbD c.ix.val = true → c.foreign s.pkg.named.tenant = away) := by
  have one {c : Core} {s : State} (e : s.peers = []) (h : c ∈ s.cores) : c = s.core := by simpa [State.cores, e] using h
  cases stopped <;> cases away
  · exact ⟨naming 0 runs, serves_runs, by decide, by decide, rfl, rfl, by decide, fun c h _ => one (s := naming 0 runs) rfl h ▸ by decide⟩
  · exact ⟨naming 1 runs, serves_runs, by decide, by decide, rfl, rfl, by decide, fun c h _ => one (s := naming 1 runs) rfl h ▸ by decide⟩
  · exact ⟨naming 0 (debugs fun d => { d with stat := 1 }), ⟨rfl, rfl⟩, by decide, by decide, rfl, rfl, by decide, fun c h _ => one (s := naming 0 (debugs _)) rfl h ▸ by decide⟩
  · exact ⟨naming 1 (debugs fun d => { d with stat := 1 }), ⟨rfl, rfl⟩, by decide, by decide, rfl, rfl, by decide, fun c h _ => one (s := naming 1 (debugs _)) rfl h ▸ by decide⟩
theorem wit_Debug_break : ∃ (n : Fin 4) (s : State), s.core.ganged = false ∧ s.core.stopped = false ∧ s.trapMember = none ∧ s.core.dbg.stop = none ∧ s.core.breakpoint = some n :=
  ⟨3, debugs fun d => { d with ctl := 2, bp := d.bp.set 3 0x8000000000000000 }, rfl, by decide, by decide +kernel, rfl, by decide +kernel⟩
theorem wit_Debug_stop (step : Bool) : ∃ (f : Stop) (s : State), s.core.ganged = false ∧ s.core.stopped = false ∧ s.trapMember = none ∧ s.core.breakpoint = none ∧ s.core.dbg.stop = some f
    ∧ f.at_ ≤ s.grove.cycle ∧ f.cause < 16 ∧ s.core.dbg.step = step :=
  ⟨{ cause := 7, n := 3, at_ := 0 }, debugs fun d => { d with stop := some { cause := 7, n := 3, at_ := 0 }, step := step }, rfl, by cases step <;> decide, by cases step <;> decide +kernel,
    by cases step <;> decide, rfl, by cases step <;> decide, by decide, rfl⟩
theorem wit_Debug_stepHold : ∃ s : State, s.core.ganged = false ∧ s.core.stopped = false ∧ s.core.dbg.stop = none ∧ s.core.dbg.step = true ∧ s.core.hold = true :=
  ⟨(debugs fun d => { d with step := true }).mapCore fun c => { c with hold := true }, rfl, by decide, rfl, rfl, rfl⟩

/-- A grove with four trace records. -/
def traced : State := { runs with grove := { runs.grove with trace := [(1, 2), (3, 4), (5, 6), (7, 8)] } }
theorem wit_Trace_drain (some_ : Bool) : ∃ (n : Nat) (ring : Option Nat) (lost : Bool) (s : State), n ≤ 4 ∧ n ≤ s.grove.trace.length ∧ (1 ≤ n ∨ ring.isSome = true ∨ lost = true)
    ∧ s.pkg.dmem.wf = true ∧ lost = !some_ := by
  cases some_
  · exact ⟨0, some 0x1000, true, runs, by decide, by decide, by decide, rfl, rfl⟩
  · exact ⟨4, none, false, traced, by decide, by decide, by decide, rfl, rfl⟩
theorem wit_Power_gate : ∃ s : State, s.grove.on = true ∧ s.groveUnused = true ∧ ∀ c ∈ s.cores, c.dbg.recs = [] :=
  ⟨hosted false false false, rfl, by decide +kernel, fun _ h => List.mem_singleton.mp h ▸ rfl⟩
theorem wit_Power_wake (lost : Bool) : ∃ s : State, s.pkg.ready = true ∧ s.grove.on = false ∧ decide (s.grove.gateLost ≠ 0) = lost ∧ s.grove.trace = [] := by
  cases lost
  · exact ⟨{ runs with grove := { runs.grove with on := false } }, rfl, rfl, by decide, rfl⟩
  · exact ⟨{ runs with grove := { runs.grove with on := false, gateLost := 4 } }, rfl, rfl, by decide, rfl⟩
theorem wit_Refresh : ∃ (b row n : Nat) (s : State), b < 8 ∧ row < 12288 ∧ ((s.core.sliceBase + b * 0xC00000) / 1024 + row, n) ∈ s.pkg.acts ∧ Config.disturbThreshold ≤ n :=
  ⟨7, 12287, Config.disturbThreshold, { runs with pkg := { runs.pkg with acts := [(98303, Config.disturbThreshold)] } }, by decide, by decide, List.mem_singleton.mpr rfl, Nat.le_refl _⟩
theorem wit_Refresh_coppice : ∃ (b row n : Nat) (s : State), b < 8 ∧ 12288 ≤ row ∧ row < 12352 ∧ (b * 64 + (row - 12288), n) ∈ s.core.sliceRows ∧ Config.disturbThreshold ≤ n :=
  ⟨7, 12351, Config.disturbThreshold, runs.mapCore fun c => { c with sliceRows := [(511, Config.disturbThreshold)] }, by decide, by decide, by decide, List.mem_singleton.mpr rfl, Nat.le_refl _⟩
theorem wit_Clearing : ∃ (s : State) (r : ClearReq) (l : List ClearReq), (∀ c ∈ s.cores, c.cmds = []) ∧ s.grove.reqs = r :: l ∧ (min r.e s.grove.cap : Int) ≤ s.grove.cnow :=
  ⟨{ runs with grove := { runs.grove with reqs := [{ core := 0, serial := 0, e := 128 }], cap := 128, cnow := 128 } }, _, [], fun c h => List.mem_singleton.mp h ▸ rfl, rfl, by decide⟩
theorem wit_Preempt : ∃ s : State, s.core.act.isSome = true ∧ s.core.halted = false ∧ s.core.stopped = false ∧ s.core.ganged = false
    ∧ s.trapMember = none ∧ s.core.breakpoint = none ∧ s.core.kills = [] := ⟨runs, rfl, rfl, by decide, rfl, by decide +kernel, by decide, rfl⟩

/-- A landed record of type 3, carrying code or not. -/
def landed8 (cc : Bool) : MRec := { newRec actor5 16 32 { msg8 with h0 := header0 0xFF 5 8 0 false cc 3 } none with landed := true, filed := 0 }
/-- It stands before an entry given of actor 5. -/
def waitsFor (e : BitVec 128) (cc : Bool) : State :=
  (besideActor 0).mapCore fun c => { (c.mapActor 5 fun a => { a with head := 16, tail := 48, recs := [landed8 cc], handlers := a.handlers.set 3 e }) with act := none }

/-- What a dispatch of its record asks. -/
def dispatches (s : State) (f : Actor → MRec → Prop) : Prop :=
  ∃ (k : Nat) (a : Actor) (r : MRec), s.mayDispatch = true ∧ s.pick = some (.message k a r) ∧ s.core.actor a.aid = some a ∧ f a r

/-- The core after a trap of its activation, whose record is retained. -/
def retries (src : ActSrc) (s : State) : State := s.mapCore fun c => { c with act := none, retry := some { act0 with src := src, retries := 1 } }
theorem redispatched (src : ActSrc) (s : State) (h : (retries src s).core.stopped = false ∧ (retries src s).core.mgmt = false ∧ (retries src s).settled = true) {p : Prop} (m : p) :
    Redispatched (retries src s) .retryDispatch 1 src p := ⟨⟨_, rfl, rfl, rfl⟩, rfl, h.1, h.2.1, h.2.2, rfl, m⟩

theorem wit_Dispatch_starts : ∃ s, dispatches s Starts :=
  ⟨waitsFor 0x20000000000000000000 false |>.mapCore fun c => c.mapActor 5 fun a => { a with handlers := a.handlers.set 3 0x203FF0000000000001000 }, 0, _, _, by decide +kernel, rfl, rfl,
    by decide, by decide⟩
theorem wit_Dispatch_again : ∃ (s : State) (a : Actor) (r : MRec) (i : Instr) (n : Nat), s.core.actor a.aid = some a
    ∧ Redispatched s i n (.message a.aid r.off) (r ∈ a.recs ∧ a.recs.find? (fun e => e.off == r.off && !e.pad) = some r) ∧ Starts a r :=
  let a : Actor := { actor5 with head := 16, tail := 48, recs := [landed8 false], handlers := actor5.handlers.set 3 0x203FF0000000000001000 }
  ⟨retries (.message 5 16) (waitsFor 0x203FF0000000000001000 false), a, landed8 false, .retryDispatch, 1, rfl,
    redispatched (.message 5 16) (waitsFor 0x203FF0000000000001000 false) (by decide +kernel) ⟨List.mem_singleton.mpr rfl, rfl⟩, by decide, by decide⟩
theorem wit_Dispatch_hnone : ∃ s, dispatches s fun a r => entryV a.handlers[r.typ] = false := ⟨waitsFor 0 false, 0, _, _, by decide +kernel, rfl, rfl, by decide⟩
theorem wit_Dispatch_hlen : ∃ s, dispatches s fun a r => entryV a.handlers[r.typ] = true ∧ entryLchk a.handlers[r.typ] ≠ 0x3FF ∧ entryLchk a.handlers[r.typ] ≠ r.len :=
  ⟨waitsFor 0x200090000000000001000 false, 0, _, _, by decide +kernel, rfl, rfl, by decide⟩
theorem wit_Dispatch_ccode : ∃ s, dispatches s fun a r => entryV a.handlers[r.typ] = true ∧ entryLchk a.handlers[r.typ] = 0x3FF ∧ hdrCC r.h0 = true ∧ entryCP a.handlers[r.typ] = false :=
  ⟨waitsFor 0x203FF0000000000001000 true, 0, _, _, by decide +kernel, rfl, rfl, by decide⟩

/-- An idle core beside a deque with a task of launch 1. -/
def task1 : TaskRec := { hostRecord pc0 with slot := 1 }
def idleTask : State :=
  let s := hosted false false false
  { s with grove := { s.grove with deques := s.grove.deques.set 0 [.task task1] } }

theorem wit_Task_dispatch : ∃ (s : State) (r : TaskRec) (l : Launch) (i : Instr) (n : Nat), s.pkg.launch r.slot = some l ∧ r.gang ≤ 1 ∧ s.core.scratch.wf = true
    ∧ (s.mayDispatch = true ∧ (∃ src j, s.pick = some (.task src j (.task r)) ∧ i = .taskDispatch src) ∧ n = 0) :=
  ⟨idleTask, task1, _, .taskDispatch .own, 0, rfl, by decide, rfl, by decide +kernel, ⟨.own, 0, rfl, rfl⟩, rfl⟩
theorem wit_Task_retry : ∃ (s : State) (r : TaskRec) (l : Launch) (i : Instr) (n : Nat), s.pkg.launch r.slot = some l ∧ r.gang ≤ 1 ∧ s.core.scratch.wf = true
    ∧ Redispatched s i n (.task r) (s.core.hasScratch = true) :=
  ⟨retries (.task task1) (hosted false false false), task1, _, .retryDispatch, 1, rfl, by decide, rfl, redispatched _ _ (by decide +kernel) (by decide +kernel)⟩
theorem wit_Feed : ∃ (s : State) (l : Launch) (n : Nat), n < 4096 ∧ s.pkg.launch (BitVec.ofNat 12 n) = some l ∧ s.grove.on = true ∧ l.hdr.actors = false ∧ l.next < l.hdr.items ∧ l.report = none
    ∧ s.groveTakes l = true ∧ l.killed = [] ∧ l.hdr.gang = 1 ∧ ringOfLaunch l.slot s.grove.overflow < 4096 ∧ s.grove.overflow.length < s.grove.overflowCap :=
  ⟨{ hosted false false true with grove := { runs.grove with overflowCap := 1 } }, _, 1, by decide, rfl, rfl, rfl, by decide, rfl, by decide +kernel, rfl, by decide⟩
theorem wit_Kill (under : Bool) : ∃ (k : KillReq) (s : State) (a : Activation), s.core.act = some a ∧ killCovers k a.slot s.core.regs.wid = under ∧ s.core.retry = none ∧ s.core.kills = [] := by
  cases under
  · exact ⟨{ slot := 0, wid := 1, low := 0 }, runs, _, rfl, by decide, rfl, rfl⟩
  · exact ⟨{ slot := 0, wid := 1, low := 1 }, runs, _, rfl, by decide, rfl, rfl⟩
theorem wit_Kill_boundary : ∃ (s : State) (a : Activation), s.core.act = some a ∧ s.core.ganged = false ∧ s.core.kills ≠ [] ∧ s.trapMember = none ∧ s.core.readingOut = false
    ∧ s.core.dbg.stop = none ∧ s.core.breakpoint = none ∧ s.core.stopped = false :=
  ⟨runs.mapCore fun c => { c with kills := [{ slot := 0, wid := 1, low := 1 }] }, _, rfl, rfl, nofun, by decide +kernel, by decide, rfl, by decide, by decide⟩
theorem wit_Kill_retry : ∃ (k : KillReq) (s : State) (a : Activation), s.core.retry = some a ∧ killCovers k a.slot s.core.regs.wid = true :=
  ⟨{ slot := 0, wid := 1, low := 1 }, runs.mapCore fun c => { c with act := none, retry := some act0 }, _, rfl, by decide⟩
theorem wit_Park : ∃ (s : State) (a : Activation), s.core.act = some a ∧ s.core.halted = true ∧ s.core.kills = [] ∧ s.core.ganged = false ∧ s.mayPark = true ∧ s.core.regs.aid = 0 :=
  ⟨runs.mapCore fun c => { c with halted := true }, _, rfl, rfl, rfl, rfl, by decide +kernel, rfl⟩

/-- Actor 5 evicted, its region of 4 KiB saved. -/
def evict5 : Evicted := { actor := park5, im := im5 0x21, holding := [], room := 0 }
def outside : State :=
  let s := hosted false true true
  { s with pkg := { s.pkg with evicted := [evict5] } }

theorem wit_Reload : ∃ (s : State) (e : Evicted) (base : Nat), s.pkg.evicted.find? (fun x => x.actor.aid == e.actor.aid) = some e ∧ s.mayReload e base = true ∧ e.im.regions = []
    ∧ e.holding = [] ∧ e.im.act = none ∧ s.core.actor e.actor.aid = none ∧ s.core.scratch.wf = true :=
  ⟨outside, evict5, 0x2000, rfl, by decide +kernel, rfl, rfl, rfl, rfl, rfl⟩

/-- A load of 8 bytes of actor 5 from another package. -/
def netLoad (off : Nat) : NetAccess := { src := { core := 9, aid := 0, other := true }, addr := actorAddr 5 off, bytes := [], len := 8, sync := none, flit := false, atomic := none, msg := none }

theorem wit_Arrive_load (ok : Bool) : ∃ (s : State) (a : NetAccess) (aid : BitVec 24) (off p : Nat), s.foreign a = true ∧ s.queueing a.addr = false ∧ placeOf s a.addr = some (.actor none aid off)
    ∧ a.flit = false ∧ a.atomic = none ∧ a.msg = none ∧ a.sync = none ∧ a.bytes = [] ∧ a.len = 8 ∧ a.addr.toNat % a.len = 0 ∧ s.core.calm
    ∧ (if ok then s.reach none aid off a.len .load = .at_ 0 p else ∃ w, s.reach none aid off a.len .load = .no w) := by
  cases ok
  · exact ⟨besideActor 0, netLoad 0x1000, 5, 0x1000, 0, rfl, by decide +kernel, rfl, rfl, rfl, rfl, rfl, rfl, rfl, by decide, ⟨rfl, by decide⟩, .wnack, (by decide +kernel : (besideActor 0).reach none 5 0x1000 8 .load = .no .wnack)⟩
  · exact ⟨besideActor 0, netLoad 0xFF8, 5, 0xFF8, 0x1FF8, rfl, by decide +kernel, rfl, rfl, rfl, rfl, rfl, rfl, rfl, by decide, ⟨rfl, by decide⟩, (by decide +kernel : (besideActor 0).reach none 5 0xFF8 8 .load = .at_ 0 0x1FF8)⟩

/-- A flit of 32 bytes on its way to an offset of actor 5. -/
def flit32 (off : Nat) : Posted := { post7 with addr := actorAddr 5 off, pa := 0, kind := .flit (List.replicate 32 7) none }

theorem wit_Arrive_flit (ok : Bool) : ∃ (s : State) (p : Posted) (bs : List Byte) (aid : BitVec 24) (off : Nat), s.core.posted.find? (fun e => e.id == p.id) = some p ∧ mayArrive s p = true
    ∧ p.kind = .flit bs none ∧ placeOf s p.addr = some (.actor none aid off) ∧ s.core.calm ∧ s.core.scratch.wf = true
    ∧ s.reach none aid off bs.length .store = (if ok then .at_ 0 0x1FE0 else .no .wnack) := by
  cases ok
  · exact ⟨posts (flit32 0x1000) (besideActor 0), flit32 0x1000, _, 5, 0x1000, rfl, by decide +kernel, rfl, rfl, ⟨rfl, by decide⟩, rfl, by decide +kernel⟩
  · exact ⟨posts (flit32 0xFE0) (besideActor 0), flit32 0xFE0, _, 5, 0xFE0, rfl, by decide +kernel, rfl, rfl, ⟨rfl, by decide⟩, rfl, by decide +kernel⟩
theorem wit_Arrive_nack : ∃ (s : State) (p : Posted) (w : Refused) (a : Activation), s.core.posted.find? (fun e => e.id == p.id) = some p ∧ p.stage = .refused w ∧ s.core.act = some a ∧ a.first ≤ p.ser
    ∧ (w = .wnack ∨ w = .adead) := ⟨posts { flit32 0 with stage := .refused .adead } runs, { flit32 0 with stage := .refused .adead }, _, _, rfl, rfl, rfl, by decide, .inr rfl⟩
theorem wit_Timeout_waitg : ∃ (s : State) (w : Await) (g p : Nat) (d : SReg), s.core.ganged = false ∧ s.core.await = some w ∧ w.kind = .gen p g d ∧ s.core.regs.bartmo ≠ 0 :=
  ⟨(runs.mapRegs fun r => { r with bartmo := 100 }).mapCore fun c => { c with await := some { kind := .gen 0x3C000 1 3, addr := 0, len := 12 } }, _, _, _, _, rfl, rfl, rfl, by decide⟩
theorem wit_Timeout_barrier : ∃ (s : State) (ix : Nat) (b : BarInst), s.peers = [] ∧ s.core.waitsAt ix = true ∧ s.core.regs.bartmo ≠ 0 ∧ s.barOf ix = some b ∧ b.broken = false ∧ s.core.mgmt = false :=
  ⟨((atBar 1 0 false).mapRegs fun r => { r with bartmo := 100 }).mapCore fun c => { c with await := some { kind := .bar 3, addr := 0, len := 12 } }, 3, _, rfl, rfl, by decide, rfl, rfl, rfl⟩

/-- A posted atomic's command that was abandoned for a miss of its page, in a core whose tables map that page or not. -/
def missed (tabled cached : Bool) : State :=
  let s := at9 0x1000000000000100
  let s : State := { s with core := { s.core with troot := 0x5FFFFFF000 }, pkg := if tabled then s.pkg.mapPages { tenant := 0, va := 0, pa := 0, pages := 1, w := true, x := true } true 1 else s.pkg, grove := if cached then (mapped 0).grove else s.grove }
  s.mapCore fun c => { c with cmds := [{ ({ q := .e, cls := 10, sub := 0, x := { xa 6 with x := true, d := 0 } } : Req).cmd s with abandoned := true }] }

/-- What a performance comes to. -/
def missOf (p : Perf) : Option Nat := match p with | .miss _ va => some va | _ => none
def okOf (p : Perf) : Bool := match p with | .ok _ _ => true | _ => false
theorem misses {p : Perf} {n : Nat} (h : missOf p = some n) : ∃ u, p = .miss u n := by
  cases p <;> simp [missOf] at h
  subst h; exact ⟨_, rfl⟩
theorem oks {p : Perf} (h : okOf p = true) : ∃ u e, p = .ok u e := by
  cases p <;> simp [okOf] at h
  exact ⟨_, _, rfl⟩

/-- Its command. -/
def missedCmd (tabled cached : Bool) : Cmd := (missed tabled cached).core.cmds.headD cmd0

theorem wit_Walk_fails : ∃ (s : State) (k : Cmd) (u : State) (va : Nat), s.core.cmds = [k] ∧ k.abandoned = true ∧ performCmd k s = .miss u va ∧ s.walk va = none ∧ s.tableLost va = false := by
  obtain ⟨u, h⟩ := misses (p := performCmd (missedCmd false false) (missed false false)) (n := 0x100) (by decide +kernel)
  exact ⟨missed false false, missedCmd false false, u, 0x100, rfl, rfl, h, by decide +kernel, by decide +kernel⟩
theorem wit_Walk_lost : ∃ (s : State) (k : Cmd) (u : State) (va : Nat), s.core.cmds = [k] ∧ k.abandoned = true ∧ performCmd k s = .miss u va ∧ s.walk va = none ∧ s.tableLost va = true
    ∧ tlbFind s.grove.tlb s.core.tenant va = none := by
  let s : State := { missed true false with pkg := { (missed true false).pkg with badUnits := [0x5FFFFFF000 / 32] } }
  obtain ⟨u, h⟩ := misses (p := performCmd (missedCmd true false) s) (n := 0x100) (by decide +kernel)
  exact ⟨s, missedCmd true false, u, 0x100, rfl, rfl, h, by decide +kernel, by decide +kernel, by decide +kernel⟩
theorem wit_Walk_fills : ∃ (s : State) (k : Cmd) (u : State) (va : Nat) (e : TlbEntry) (v : State) (f : Effect), s.core.cmds = [k] ∧ k.abandoned = true ∧ performCmd k s = .miss u va ∧ s.walk va = some e
    ∧ performCmd { k with pages := e :: k.pages } (((s.walked va).useTlb e).collect k e) = .ok v f := by
  obtain ⟨u, h⟩ := misses (p := performCmd (missedCmd true false) (missed true false)) (n := 0x100) (by decide +kernel)
  let e : TlbEntry := { tenant := 0, vpage := 0, big := false, pbase := 0, w := true, x := true }
  let k := missedCmd true false
  obtain ⟨v, f, g⟩ := oks (p := performCmd { k with pages := e :: k.pages } ((((missed true false).walked 0x100).useTlb e).collect k e)) (by decide +kernel)
  exact ⟨missed true false, missedCmd true false, u, 0x100, _, v, f, rfl, rfl, h, by decide +kernel, g⟩
theorem wit_Replay : ∃ (s t : State) (k : Cmd) (e : Effect), s.core.cmds = [k] ∧ k.abandoned = true ∧ performCmd k s = .ok t e := by
  obtain ⟨v, f, g⟩ := oks (p := performCmd (missedCmd false true) (missed false true)) (by decide +kernel)
  exact ⟨missed false true, v, missedCmd false true, f, rfl, rfl, g⟩

/-! ### Witnesses: where the listed forms complete -/

theorem wit_Forms_putc : ∃ (x : CrF) (s : State), (Instr.putc x).wf = true ∧ putOk x.idx.val false = true ∧ Ready x.h.g 0 (Instr.putc x).bytes s := ⟨cr 0x30, runs, by decide, by decide, ready_runs _⟩
/-- A reduction of v9 on FP32. -/
def xv : XOp := { x0 with ty := 8, a := 9, d := 3 }

theorem wit_Forms_reduce : ∀ i ∈ [Instr.vrsum xv, .vrmin xv, .vrmax xv, .vrdot { xv with b := 10 }], i.wf = true ∧ ∃ s : State, Ready always 0 i.bytes s ∧ (s.core.queue .v).length < 16 :=
  fun i hi => by
    refine ⟨?_, runs, ready_runs _, by decide⟩
    revert i; decide
theorem wit_Forms_sendm : ∃ (x : XOp) (s : State) (pk : Option Nat) (aid : BitVec 24) (off n : Nat) (u : State) (g : Range), (Instr.sendm x).wf = true
    ∧ localSpan s (s.core.regs.rs x.b) (x.w2f 16 10) 16 = .ok g ∧ placeOf s (s.core.regs.rs x.a) = some (.actor pk aid off)
    ∧ s.ringSize pk aid (ringKey (.actor pk aid off) (s.core.regs.rs x.a)) = .is n u ∧ 32 + (x.w2f 16 10 + 15) / 16 * 16 ≤ 2 ^ n
    ∧ Ready x.h.g x.wait.val (Instr.sendm x).bytes s ∧ (s.core.queue .e).length < 16 :=
  ⟨xm 992, actor9 in5, _, _, _, 10, _, _, by decide, rfl, rfl, rfl, by decide, ready_actor9 _ _, by decide⟩
theorem wit_Forms_mgmt (f : Fin 3) : ∃ s : State, s.core.mgmtWord = none ∧ s.core.mgmt = false
    ∧ (match f with | 0 => s.core.halted = true | 1 => s.core.stopped = true | 2 => s.core.act = none ∧ s.core.retry = none ∧ s.core.begun = false) := by
  match f with
  | 0 => exact ⟨runs.mapCore fun c => { c with halted := true }, rfl, rfl, rfl⟩
  | 1 => exact ⟨debugs fun d => { d with stat := 1 }, rfl, rfl, by decide⟩
  | 2 => exact ⟨runs.mapCore fun c => { c with act := none }, rfl, rfl, rfl, rfl, rfl⟩
theorem wit_Forms_feed : ∃ (s : State) (l : Launch) (n : Nat), n < 4096 ∧ s.pkg.launch (BitVec.ofNat 12 n) = some l ∧ s.grove.on = true ∧ l.hdr.actors = false ∧ l.next < l.hdr.items
    ∧ l.report = none ∧ s.groveTakes l = true ∧ s.ringRoom l = true :=
  ⟨{ hosted false false true with grove := { runs.grove with overflowCap := 1 } }, _, 1, by decide, rfl, rfl, rfl, by decide, rfl, by decide +kernel, by decide⟩
theorem wit_Forms_placed (near : Bool) : ∃ (s : State) (l : Launch) (aid base : Nat), s.asking = none ∧ s.pkg.nextItem = some l ∧ l.skips (l.hdr.itemWid l.next) = false ∧ s.newAid aid = true
    ∧ (let wid := l.hdr.itemWid l.next
       let id : BitVec 24 := BitVec.ofNat 24 aid
       s.grove.on = true ∧ s.mayJoin l = true ∧ s.quieted = true ∧ s.core.regionOk base l.hdr.size = true ∧ s.gangPlace l wid s.core.ix = true
         ∧ (addInstances l wid true (makeActor l.hdr l.slot wid id base 0 (assign l s)).pkg).unitsFit = true ∧ s.gangAway l wid near = true ∧ (near = true → s.nearTakes l = true)
         ∧ (addInstances l wid near (makeAway l.hdr l.slot wid id near s).pkg).unitsFit = true) :=
  ⟨hosted false true true, _, 0xFFFFFF, 0x3A000, by decide +kernel, rfl, by decide +kernel, by decide +kernel, rfl, by cases near <;> decide +kernel⟩
theorem wit_Forms_away (near : Bool) : ∃ (s : State) (e : Evicted) (aid k : Nat), s.pkg.evicted.find? (fun x => x.actor.aid == BitVec.ofNat 24 aid) = some e ∧ 8 ≤ k
    ∧ s.mayReloadFar e (k == 8) = true ∧ (k == 8) = near := by
  cases near
  · exact ⟨{ outside with grove := { outside.grove with on := false } }, evict5, 5, 9, rfl, by decide, by decide +kernel, rfl⟩
  · exact ⟨outside, evict5, 5, 8, rfl, by decide, by decide +kernel, rfl⟩
theorem wit_Forms_completion (dev : Bool) : ∃ (s : State) (l : Launch) (n : Nat), s.pkg.launch (BitVec.ofNat 12 n) = some l ∧ s.ends l = true ∧ l.byDevice = dev := by
  cases dev
  · exact ⟨hosted false false false, _, 1, rfl, by decide +kernel, rfl⟩
  · exact ⟨hosted true false false, _, 1, rfl, by decide +kernel, rfl⟩
theorem wit_Forms_deferred : ∃ s : State, s.core.ganged = false ∧ s.core.act.isSome = true ∧ s.core.firstDeferred.isSome = true ∧ s.core.readingOut = false ∧ s.core.stopped = false ∧ s.core.halted = false
    ∧ s.core.await = none ∧ s.core.mgmt = false := ⟨reported .adead, rfl, rfl, rfl, by decide, rfl, rfl, rfl, rfl⟩

/-- An access of another package at offset 0xFF8 of actor 5: a store of 8 bytes, a flit of 8 bytes, or an atomic on 8 bytes. -/
def netAt (f : Fin 3) : NetAccess :=
  match f with
  | 0 => { netLoad 0xFF8 with bytes := List.replicate 8 7 }
  | 1 => { netLoad 0xFF8 with bytes := List.replicate 8 7, flit := true }
  | 2 => { netLoad 0xFF8 with atomic := some { op := 0, ty := 6, rm := 0, u := 0, b := 1, c := 0 } }

theorem wit_Forms_net (f : Fin 3) : ∃ (s : State) (a : NetAccess) (aid : BitVec 24) (off o : Nat), s.foreign a = true ∧ s.queueing a.addr = false ∧ placeOf s a.addr = some (.actor none aid off)
    ∧ a.msg = none ∧ a.sync = none ∧ s.core.calm ∧ s.core.scratch.wf = true
    ∧ (match f with
       | 0 => a.flit = false ∧ a.atomic = none ∧ a.bytes.length = 8 ∧ a.addr.toNat % a.bytes.length = 0 ∧ s.reach none aid off a.bytes.length .store = .at_ 0 o
       | 1 => a.flit = true ∧ a.atomic = none ∧ 1 ≤ a.bytes.length ∧ a.addr.toNat % 64 + a.bytes.length ≤ 64 ∧ s.reach none aid off a.bytes.length .store = .at_ 0 o
       | 2 => a.flit = false ∧ a.bytes = [] ∧ a.addr.toNat % a.len = 0 ∧ s.reach none aid off a.len .atomic = .at_ 0 o ∧ ∃ x, a.atomic = some x ∧ a.len = sizeOfTy x.ty.val ∧ a.len = 8) := by
  match f with
  | 0 => exact ⟨besideActor 0, netAt 0, 5, 0xFF8, 0x1FF8, rfl, by decide +kernel, rfl, rfl, rfl, ⟨rfl, by decide⟩, rfl, rfl, rfl, rfl, by decide, by decide +kernel⟩
  | 1 => exact ⟨besideActor 0, netAt 1, 5, 0xFF8, 0x1FF8, rfl, by decide +kernel, rfl, rfl, rfl, ⟨rfl, by decide⟩, rfl, rfl, rfl, by decide, by decide, by decide +kernel⟩
  | 2 => exact ⟨besideActor 0, netAt 2, 5, 0xFF8, 0x1FF8, rfl, by decide +kernel, rfl, rfl, rfl, ⟨rfl, by decide⟩, rfl, rfl, rfl, by decide, by decide +kernel, _, rfl, by decide, rfl⟩
theorem wit_Forms_ack (sent : Bool) : ∃ (s : State) (p : Posted), s.core.posted.find? (fun e => e.id == p.id) = some p ∧ (if sent then p.stage = .sent ∧ s.severed p = false else ∃ f, p.stage = .performed f) := by
  cases sent
  · exact ⟨posts { flit32 0 with stage := .performed {} } runs, { flit32 0 with stage := .performed {} }, rfl, _, rfl⟩
  · exact ⟨posts { flit32 0 with stage := .sent } runs, { flit32 0 with stage := .sent }, rfl, rfl, by decide +kernel⟩

/-- A gather of two rows from the linear view, its command at the head. -/
def gathering : State :=
  let s := rec1 0x2000000000000000 (w1Of 4 2 0) 2 1 0x100 0 runs
  let s := s.mapRegs fun r => r.ws 12 8
  queued (recCmd .g 12 2 (xl 4) s) s
theorem tabled {x : Except Perf (List (List (Nat × Nat)) × State)} {l : List (List (Nat × Nat))} (h : x.toOption.map Prod.fst = some l) : ∃ u, x = .ok (l, u) := by
  cases x with
  | error => simp [Except.toOption] at h
  | ok v => obtain ⟨a, t⟩ := v; simp [Except.toOption] at h; exact ⟨t, by rw [h]⟩
theorem wit_Forms_landing : ∃ (s u : State) (k : Cmd) (r : LRec) (row : Nat) (ps : List (List (Nat × Nat))), (s.core.queue .g).head? = some k ∧ k.lrec = some r ∧ k.sub = 2 ∧ r.empty = false
    ∧ row < r.e1 ∧ k.counted.contains row = false ∧ s.core.startable k = true ∧ gateOpen s.core k = true ∧ tablePrep k r .read s = .ok (ps, u) ∧ u.pkg.partsLost (ps.getD row []) = false := by
  obtain ⟨u, h⟩ := tabled (x := tablePrep (gathering.core.cmds.headD cmd0) (gathering.core.regs.lrec 1) .read gathering) (l := [[(0, 8)], [(8, 8)]]) (by decide +kernel)
  refine ⟨gathering, u, _, _, 1, _, rfl, rfl, rfl, by decide, by decide, rfl, by decide, by decide, h, ?_⟩
  have e : u.pkg = gathering.pkg := by
    have g : (tablePrep (gathering.core.cmds.headD cmd0) (gathering.core.regs.lrec 1) .read gathering).toOption.map (fun v => v.2.pkg) = some gathering.pkg := by decide +kernel
    rw [h] at g
    exact Option.some.inj g
  rw [e]
  decide
theorem wit_Forms_release : ∃ (aid : Nat) (ch : Fin 2) (s : State) (a : Actor) (r : Ride), s.rider (BitVec.ofNat 24 aid) ch = some (a, r) ∧ s.chainReady a r ch true = true :=
  ⟨5, 0, third (some { place0 3 [] with arrived := 1 }), _, _, rfl, by decide +kernel⟩
theorem wit_Forms_commit : ∃ (s u : State) (q : Queue) (k : Cmd) (e : Effect), s.ready q = some k ∧ performCmd k s = .ok u e := by
  obtain ⟨u, e, h⟩ := oks (p := performCmd ((queued (ofV 5 0 v32) runs).core.cmds.headD cmd0) (queued (ofV 5 0 v32) runs)) (by decide +kernel)
  exact ⟨_, u, .v, _, e, rfl, h⟩
theorem wit_Forms_stop (bp : Bool) : ∃ s : State, s.core.stopped = false ∧ s.trapMember = none ∧ (if bp then s.breaks.isSome = true else s.stopHere.isSome = true) := by
  cases bp
  · exact ⟨debugs fun d => { d with stop := some { cause := 1, n := 0, at_ := 0 } }, by decide, by decide +kernel, by decide +kernel⟩
  · exact ⟨debugs fun d => { d with ctl := 2, bp := d.bp.set 3 0x8000000000000000 }, by decide, by decide +kernel, by decide +kernel⟩
/-! ### Decoding is right: one word for each instruction, put together from the encoding tables of the spec -/

/-- An extended instruction with guard !p3 and every other field 0. -/
def xg : XOp := { x0 with h := { g := { neg := true, p := 3 }, lit := none } }

/-- What the core's decoder reads. -/
noncomputable def decoded (ws : List IWord) : Option Instr := (decode ws).toOption

/-- Majors 0x01 to 0x07 (04_formats.md R66, R68). -/
theorem test_decode_three_register_1 :
    decoded [0x07647B04] = some (.add { h := { g := { neg := true, p := 3 }, lit := none }, d := 7, a := 18, b := 29 }) ∧
    decoded [0x0F647B04] = some (.sub { h := { g := { neg := true, p := 3 }, lit := none }, d := 7, a := 18, b := 29 }) ∧
    decoded [0x17647B04] = some (.min { h := { g := { neg := true, p := 3 }, lit := none }, d := 7, a := 18, b := 29 }) ∧
    decoded [0x1F647B04] = some (.max { h := { g := { neg := true, p := 3 }, lit := none }, d := 7, a := 18, b := 29 }) ∧
    decoded [0x07647B08] = some (.and { h := { g := { neg := true, p := 3 }, lit := none }, d := 7, a := 18, b := 29 }) ∧
    decoded [0x0F647B08] = some (.or { h := { g := { neg := true, p := 3 }, lit := none }, d := 7, a := 18, b := 29 }) ∧
    decoded [0x17647B08] = some (.xor { h := { g := { neg := true, p := 3 }, lit := none }, d := 7, a := 18, b := 29 }) ∧
    decoded [0x1F647B08] = some (.andn { h := { g := { neg := true, p := 3 }, lit := none }, d := 7, a := 18, b := 29 }) ∧
    decoded [0x07647B0C] = some (.shl { h := { g := { neg := true, p := 3 }, lit := none }, d := 7, a := 18, b := 29 }) ∧
    decoded [0x0F647B0C] = some (.shr { h := { g := { neg := true, p := 3 }, lit := none }, d := 7, a := 18, b := 29 }) ∧
    decoded [0x17647B0C] = some (.sra { h := { g := { neg := true, p := 3 }, lit := none }, d := 7, a := 18, b := 29 }) ∧
    decoded [0x1F647B0C] = some (.rotr { h := { g := { neg := true, p := 3 }, lit := none }, d := 7, a := 18, b := 29 }) ∧
    decoded [0x07647B10] = some (.mul { h := { g := { neg := true, p := 3 }, lit := none }, d := 7, a := 18, b := 29 }) ∧
    decoded [0x0F647B10] = some (.mulhs { h := { g := { neg := true, p := 3 }, lit := none }, d := 7, a := 18, b := 29 }) ∧
    decoded [0x17647B10] = some (.mulhu { h := { g := { neg := true, p := 3 }, lit := none }, d := 7, a := 18, b := 29 }) ∧
    decoded [0x1F647B10] = some (.mulhsu { h := { g := { neg := true, p := 3 }, lit := none }, d := 7, a := 18, b := 29 }) ∧
    decoded [0x07647B14] = some (.divs { h := { g := { neg := true, p := 3 }, lit := none }, d := 7, a := 18, b := 29 }) ∧
    decoded [0x0F647B14] = some (.divu { h := { g := { neg := true, p := 3 }, lit := none }, d := 7, a := 18, b := 29 }) ∧
    decoded [0x17647B14] = some (.rems { h := { g := { neg := true, p := 3 }, lit := none }, d := 7, a := 18, b := 29 }) ∧
    decoded [0x1F647B14] = some (.remu { h := { g := { neg := true, p := 3 }, lit := none }, d := 7, a := 18, b := 29 }) ∧
    decoded [0x07647B18] = some (.minu { h := { g := { neg := true, p := 3 }, lit := none }, d := 7, a := 18, b := 29 }) ∧
    decoded [0x0F647B18] = some (.maxu { h := { g := { neg := true, p := 3 }, lit := none }, d := 7, a := 18, b := 29 }) ∧
    decoded [0x17647B18] = some (.absd { h := { g := { neg := true, p := 3 }, lit := none }, d := 7, a := 18, b := 29 }) ∧
    decoded [0x00247B1C] = some (.clz { h := { g := { neg := true, p := 3 }, lit := none }, d := 7, a := 18 }) := by
  decide

/-- Majors 0x01 to 0x07 (04_formats.md R66, R68). -/
theorem test_decode_three_register_2 :
    decoded [0x08247B1C] = some (.ctz { h := { g := { neg := true, p := 3 }, lit := none }, d := 7, a := 18 }) ∧
    decoded [0x10247B1C] = some (.popc { h := { g := { neg := true, p := 3 }, lit := none }, d := 7, a := 18 }) ∧
    decoded [0x18247B1C] = some (.brev { h := { g := { neg := true, p := 3 }, lit := none }, d := 7, a := 18 }) := by
  decide

/-- Majors 0x08 to 0x0F (04_formats.md R66 to R68). -/
theorem test_decode_immediate :
    decoded [0xB1647B20] = some (.addi { g := { neg := true, p := 3 }, d := 7, a := 18, imm := 0x2C5 }) ∧
    decoded [0xB1647B24] = some (.andi { g := { neg := true, p := 3 }, d := 7, a := 18, imm := 0x2C5 }) ∧
    decoded [0xB1647B28] = some (.ori { g := { neg := true, p := 3 }, d := 7, a := 18, imm := 0x2C5 }) ∧
    decoded [0xB1647B2C] = some (.xori { g := { neg := true, p := 3 }, d := 7, a := 18, imm := 0x2C5 }) ∧
    decoded [0x0B247B30] = some (.shli { g := { neg := true, p := 3 }, d := 7, a := 18, cnt := 0x2C }) ∧
    decoded [0x0B247B34] = some (.shri { g := { neg := true, p := 3 }, d := 7, a := 18, cnt := 0x2C }) ∧
    decoded [0x0B247B38] = some (.srai { g := { neg := true, p := 3 }, d := 7, a := 18, cnt := 0x2C }) ∧
    decoded [0xC58A7B3C] = some (.lis { g := { neg := true, p := 3 }, d := 7, imm := 0x62C5 }) := by
  decide

/-- Their literal forms (04_formats.md R63). -/
theorem test_decode_immediate_literal :
    decoded [0x00247B21, 0x6789ABC4, 0x10002345] = some (.addiLit { g := { neg := true, p := 3 }, d := 7, a := 18, imm := 0x100023456789ABC4 }) ∧
    decoded [0x00247B25, 0x6789ABC4, 0x10002345] = some (.andiLit { g := { neg := true, p := 3 }, d := 7, a := 18, imm := 0x100023456789ABC4 }) ∧
    decoded [0x00247B29, 0x6789ABC4, 0x10002345] = some (.oriLit { g := { neg := true, p := 3 }, d := 7, a := 18, imm := 0x100023456789ABC4 }) ∧
    decoded [0x00247B2D, 0x6789ABC4, 0x10002345] = some (.xoriLit { g := { neg := true, p := 3 }, d := 7, a := 18, imm := 0x100023456789ABC4 }) ∧
    decoded [0x00247B31, 0x00000035, 0x00000000] = some (.shliLit { g := { neg := true, p := 3 }, d := 7, a := 18, cnt := 0x35 }) ∧
    decoded [0x00247B35, 0x00000035, 0x00000000] = some (.shriLit { g := { neg := true, p := 3 }, d := 7, a := 18, cnt := 0x35 }) ∧
    decoded [0x00247B39, 0x00000035, 0x00000000] = some (.sraiLit { g := { neg := true, p := 3 }, d := 7, a := 18, cnt := 0x35 }) ∧
    decoded [0x00007B3D, 0x6789ABC4, 0x10002345] = some (.lisLit { g := { neg := true, p := 3 }, d := 7, imm := 0x100023456789ABC4 }) := by
  decide

/-- CMP, CMPI, PLOG, SEL and PMOV (04_formats.md R66, R68). -/
theorem test_decode_predicate :
    decoded [0x6ECAAB40] = some (.cmp { h := { g := { neg := true, p := 3 }, lit := none }, cond := 6, pd := 2, pe := 5, a := 18, b := 29 }) ∧
    decoded [0x6CCAAB44] = some (.cmpi { g := { neg := true, p := 3 }, cond := 6, pd := 2, pe := 5, a := 18, imm := 0x19 }) ∧
    decoded [0x0DD2AB54] = some (.plog { h := { g := { neg := true, p := 3 }, lit := none }, tt := 13, pd := 2, pe := 5, pa := 4, pb := 6 }) ∧
    decoded [0x2F647B74] = some (.sel { h := { g := { neg := true, p := 3 }, lit := none }, ps := 5, d := 7, a := 18, b := 29 }) ∧
    decoded [0x00007B78] = some (.pget { h := { g := { neg := true, p := 3 }, lit := none }, d := 7 }) ∧
    decoded [0x00027B78] = some (.pput { h := { g := { neg := true, p := 3 }, lit := none }, d := 7 }) := by
  decide

/-- CMPI with the literal (04_formats.md R63). -/
theorem test_decode_predicate_literal :
    decoded [0x604AAB45, 0x6789ABC4, 0x10002345] = some (.cmpiLit { g := { neg := true, p := 3 }, cond := 6, pd := 2, pe := 5, a := 18, imm := 0x100023456789ABC4 }) := by
  decide

/-- The float majors and FCVT (04_formats.md R66 to R68). -/
theorem test_decode_float_1 :
    decoded [0x6ECAAB48] = some (.fcmpF32 { h := { g := { neg := true, p := 3 }, lit := none }, cond := 6, pd := 2, pe := 5, a := 18, b := 29 }) ∧
    decoded [0x6ECAAB4C] = some (.fcmpF16 { h := { g := { neg := true, p := 3 }, lit := none }, cond := 6, pd := 2, pe := 5, a := 18, b := 29 }) ∧
    decoded [0x6ECAAB50] = some (.fcmpBf16 { h := { g := { neg := true, p := 3 }, lit := none }, cond := 6, pd := 2, pe := 5, a := 18, b := 29 }) ∧
    decoded [0xA7647B58] = some (.faddF32 { h := { g := { neg := true, p := 3 }, lit := none }, rm := 5, d := 7, a := 18, b := 29 }) ∧
    decoded [0xAF647B58] = some (.fsubF32 { h := { g := { neg := true, p := 3 }, lit := none }, rm := 5, d := 7, a := 18, b := 29 }) ∧
    decoded [0xB7647B58] = some (.fmulF32 { h := { g := { neg := true, p := 3 }, lit := none }, rm := 5, d := 7, a := 18, b := 29 }) ∧
    decoded [0xBF647B58] = some (.fmacF32 { h := { g := { neg := true, p := 3 }, lit := none }, rm := 5, d := 7, a := 18, b := 29 }) ∧
    decoded [0xA7647B60] = some (.faddF16 { h := { g := { neg := true, p := 3 }, lit := none }, rm := 5, d := 7, a := 18, b := 29 }) ∧
    decoded [0xAF647B60] = some (.fsubF16 { h := { g := { neg := true, p := 3 }, lit := none }, rm := 5, d := 7, a := 18, b := 29 }) ∧
    decoded [0xB7647B60] = some (.fmulF16 { h := { g := { neg := true, p := 3 }, lit := none }, rm := 5, d := 7, a := 18, b := 29 }) ∧
    decoded [0xBF647B60] = some (.fmacF16 { h := { g := { neg := true, p := 3 }, lit := none }, rm := 5, d := 7, a := 18, b := 29 }) ∧
    decoded [0xA7647B68] = some (.faddBf16 { h := { g := { neg := true, p := 3 }, lit := none }, rm := 5, d := 7, a := 18, b := 29 }) ∧
    decoded [0xAF647B68] = some (.fsubBf16 { h := { g := { neg := true, p := 3 }, lit := none }, rm := 5, d := 7, a := 18, b := 29 }) ∧
    decoded [0xB7647B68] = some (.fmulBf16 { h := { g := { neg := true, p := 3 }, lit := none }, rm := 5, d := 7, a := 18, b := 29 }) ∧
    decoded [0xBF647B68] = some (.fmacBf16 { h := { g := { neg := true, p := 3 }, lit := none }, rm := 5, d := 7, a := 18, b := 29 }) ∧
    decoded [0x07647B5C] = some (.fminF32 { h := { g := { neg := true, p := 3 }, lit := none }, d := 7, a := 18, b := 29 }) ∧
    decoded [0x0F647B5C] = some (.fmaxF32 { h := { g := { neg := true, p := 3 }, lit := none }, d := 7, a := 18, b := 29 }) ∧
    decoded [0xB7647B5C] = some (.fmscF32 { h := { g := { neg := true, p := 3 }, lit := none }, rm := 5, d := 7, a := 18, b := 29 }) ∧
    decoded [0x1F647B5C] = some (.fcpsF32 { h := { g := { neg := true, p := 3 }, lit := none }, d := 7, a := 18, b := 29 }) ∧
    decoded [0x07647B64] = some (.fminF16 { h := { g := { neg := true, p := 3 }, lit := none }, d := 7, a := 18, b := 29 }) ∧
    decoded [0x0F647B64] = some (.fmaxF16 { h := { g := { neg := true, p := 3 }, lit := none }, d := 7, a := 18, b := 29 }) ∧
    decoded [0xB7647B64] = some (.fmscF16 { h := { g := { neg := true, p := 3 }, lit := none }, rm := 5, d := 7, a := 18, b := 29 }) ∧
    decoded [0x1F647B64] = some (.fcpsF16 { h := { g := { neg := true, p := 3 }, lit := none }, d := 7, a := 18, b := 29 }) ∧
    decoded [0x07647B6C] = some (.fminBf16 { h := { g := { neg := true, p := 3 }, lit := none }, d := 7, a := 18, b := 29 }) := by
  decide

/-- The float majors and FCVT (04_formats.md R66 to R68). -/
theorem test_decode_float_2 :
    decoded [0x0F647B6C] = some (.fmaxBf16 { h := { g := { neg := true, p := 3 }, lit := none }, d := 7, a := 18, b := 29 }) ∧
    decoded [0xB7647B6C] = some (.fmscBf16 { h := { g := { neg := true, p := 3 }, lit := none }, rm := 5, d := 7, a := 18, b := 29 }) ∧
    decoded [0x1F647B6C] = some (.fcpsBf16 { h := { g := { neg := true, p := 3 }, lit := none }, d := 7, a := 18, b := 29 }) ∧
    decoded [0xB5247B70] = some (.fcvt { h := { g := { neg := true, p := 3 }, lit := none }, rm := 5, sat := true, dst := 2, src := 4, d := 7, a := 18 }) := by
  decide

/-- Loads and stores (04_formats.md R66, R68). -/
theorem test_decode_memory :
    decoded [0xB1647B80] = some (.ldb { g := { neg := true, p := 3 }, wait := 2, off := 0xC5, a := 18, d := 7 }) ∧
    decoded [0xB1647B84] = some (.ldh { g := { neg := true, p := 3 }, wait := 2, off := 0xC5, a := 18, d := 7 }) ∧
    decoded [0xB1647B88] = some (.ldw { g := { neg := true, p := 3 }, wait := 2, off := 0xC5, a := 18, d := 7 }) ∧
    decoded [0xB1647B8C] = some (.ldd { g := { neg := true, p := 3 }, wait := 2, off := 0xC5, a := 18, d := 7 }) ∧
    decoded [0xB1647B90] = some (.ldbu { g := { neg := true, p := 3 }, wait := 2, off := 0xC5, a := 18, d := 7 }) ∧
    decoded [0xB1647B94] = some (.ldhu { g := { neg := true, p := 3 }, wait := 2, off := 0xC5, a := 18, d := 7 }) ∧
    decoded [0xB1647B98] = some (.ldwu { g := { neg := true, p := 3 }, wait := 2, off := 0xC5, a := 18, d := 7 }) ∧
    decoded [0xB1647BA0] = some (.stb { g := { neg := true, p := 3 }, wait := 2, off := 0xC5, a := 18, d := 7 }) ∧
    decoded [0xB1647BA4] = some (.sth { g := { neg := true, p := 3 }, wait := 2, off := 0xC5, a := 18, d := 7 }) ∧
    decoded [0xB1647BA8] = some (.stw { g := { neg := true, p := 3 }, wait := 2, off := 0xC5, a := 18, d := 7 }) ∧
    decoded [0xB1647BAC] = some (.std { g := { neg := true, p := 3 }, wait := 2, off := 0xC5, a := 18, d := 7 }) := by
  decide

/-- Loads and stores with the literal offset (04_formats.md R63). -/
theorem test_decode_memory_literal :
    decoded [0x80247B81, 0x6789ABC4, 0x10002345] = some (.ldbLit { g := { neg := true, p := 3 }, wait := 2, off := 0x100023456789ABC4, a := 18, d := 7 }) ∧
    decoded [0x80247B85, 0x6789ABC4, 0x10002345] = some (.ldhLit { g := { neg := true, p := 3 }, wait := 2, off := 0x100023456789ABC4, a := 18, d := 7 }) ∧
    decoded [0x80247B89, 0x6789ABC4, 0x10002345] = some (.ldwLit { g := { neg := true, p := 3 }, wait := 2, off := 0x100023456789ABC4, a := 18, d := 7 }) ∧
    decoded [0x80247B8D, 0x6789ABC4, 0x10002345] = some (.lddLit { g := { neg := true, p := 3 }, wait := 2, off := 0x100023456789ABC4, a := 18, d := 7 }) ∧
    decoded [0x80247B91, 0x6789ABC4, 0x10002345] = some (.ldbuLit { g := { neg := true, p := 3 }, wait := 2, off := 0x100023456789ABC4, a := 18, d := 7 }) ∧
    decoded [0x80247B95, 0x6789ABC4, 0x10002345] = some (.ldhuLit { g := { neg := true, p := 3 }, wait := 2, off := 0x100023456789ABC4, a := 18, d := 7 }) ∧
    decoded [0x80247B99, 0x6789ABC4, 0x10002345] = some (.ldwuLit { g := { neg := true, p := 3 }, wait := 2, off := 0x100023456789ABC4, a := 18, d := 7 }) ∧
    decoded [0x80247BA1, 0x6789ABC4, 0x10002345] = some (.stbLit { g := { neg := true, p := 3 }, wait := 2, off := 0x100023456789ABC4, a := 18, d := 7 }) ∧
    decoded [0x80247BA5, 0x6789ABC4, 0x10002345] = some (.sthLit { g := { neg := true, p := 3 }, wait := 2, off := 0x100023456789ABC4, a := 18, d := 7 }) ∧
    decoded [0x80247BA9, 0x6789ABC4, 0x10002345] = some (.stwLit { g := { neg := true, p := 3 }, wait := 2, off := 0x100023456789ABC4, a := 18, d := 7 }) ∧
    decoded [0x80247BAD, 0x6789ABC4, 0x10002345] = some (.stdLit { g := { neg := true, p := 3 }, wait := 2, off := 0x100023456789ABC4, a := 18, d := 7 }) := by
  decide

/-- Majors 0x30 to 0x38 (04_formats.md R66, R68, R69). -/
theorem test_decode_control :
    decoded [0xA62C5BC0] = some (.br { g := { neg := true, p := 3 }, off := 0xA62C5 }) ∧
    decoded [0xA62C5BC4] = some (.brl { g := { neg := true, p := 3 }, off := 0xA62C5 }) ∧
    decoded [0x00247BC8] = some (.jr { h := { g := { neg := true, p := 3 }, lit := none }, d := 7, a := 18 }) ∧
    decoded [0x316420CC] = some (.loop { lit := none, lc := 2, a := 18, off := 0x0C5 }) ∧
    decoded [0x00000BD0] = some (.nop { h := { g := { neg := true, p := 3 }, lit := none } }) ∧
    decoded [0x00001BD0] = some (.endAct { h := { g := { neg := true, p := 3 }, lit := none } }) ∧
    decoded [0x00002BD0] = some (.yield { h := { g := { neg := true, p := 3 }, lit := none } }) ∧
    decoded [0xAC503BD0] = some (.trap { h := { g := { neg := true, p := 3 }, lit := none }, imm := 0xAC5 }) ∧
    decoded [0x000040D0] = some (.eret { lit := none }) ∧
    decoded [0xAC505BD0] = some (.brk { h := { g := { neg := true, p := 3 }, lit := none }, imm := 0xAC5 }) ∧
    decoded [0xAC506BD0] = some (.pause { h := { g := { neg := true, p := 3 }, lit := none }, imm := 0xAC5 }) ∧
    decoded [0x000070D0] = some (.fencei { lit := none }) ∧
    decoded [0x00A67BD4] = some (.getc { h := { g := { neg := true, p := 3 }, lit := none }, idx := 0x053, d := 7 }) ∧
    decoded [0x00A67BD8] = some (.putc { h := { g := { neg := true, p := 3 }, lit := none }, idx := 0x053, d := 7 }) ∧
    decoded [0xC58B2BDC] = some (.fork { h := { g := { neg := true, p := 3 }, lit := none }, a := 18, off := 0x62C5 }) ∧
    decoded [0xC58B20E0] = some (.join { lit := none, a := 18, off := 0x62C5 }) := by
  decide

/-- Branches to a literal, and a literal that is ignored (04_formats.md R63). -/
theorem test_decode_control_literal :
    decoded [0x00000BC1, 0x6789ABC4, 0x10002345] = some (.brLit { g := { neg := true, p := 3 }, target := 0x100023456789ABC4 }) ∧
    decoded [0x00000BC5, 0x6789ABC4, 0x10002345] = some (.brlLit { g := { neg := true, p := 3 }, target := 0x100023456789ABC4 }) ∧
    decoded [0x00247BC9, 0x6789ABC4, 0x10002345] = some (.jr { h := { g := { neg := true, p := 3 }, lit := some 0x100023456789ABC4 }, d := 7, a := 18 }) := by
  decide

/-- The NMU's words (20_nearmem.md R317, R318). -/
theorem test_decode_nmu :
    nmuDecode 0x0815AC5A = some (.nldr { mode := 0, rm := 0, d := 21, ai := 2, off := 0x2C5A }) ∧
    nmuDecode 0x1015AC5A = some (.nstr { mode := 0, rm := 0, d := 21, ai := 2, off := 0x2C5A }) ∧
    nmuDecode 0x1C15C5A3 = some (.nldi { ty := 4, d := 21, imm := 0xC5A3 }) ∧
    nmuDecode 0x221574E0 = some (.nadd { ty := 2, rm := 0, d := 21, a := 14, b := 19, sat := true, x := 0 }) ∧
    nmuDecode 0x2A1574E0 = some (.nsub { ty := 2, rm := 0, d := 21, a := 14, b := 19, sat := true, x := 0 }) ∧
    nmuDecode 0x321574E0 = some (.nmul { ty := 2, rm := 0, d := 21, a := 14, b := 19, sat := true, x := 0 }) ∧
    nmuDecode 0x3A1574E0 = some (.nfma { ty := 2, rm := 0, d := 21, a := 14, b := 19, sat := true, x := 0 }) ∧
    nmuDecode 0x411574C0 = some (.nmin { ty := 1, rm := 0, d := 21, a := 14, b := 19, sat := false, x := 0 }) ∧
    nmuDecode 0x491574C0 = some (.nmax { ty := 1, rm := 0, d := 21, a := 14, b := 19, sat := false, x := 0 }) ∧
    nmuDecode 0x511574C2 = some (.ncmp { ty := 1, rm := 0, d := 21, a := 14, b := 19, sat := false, x := 2 }) ∧
    nmuDecode 0x591574C0 = some (.nsel { ty := 1, rm := 0, d := 21, a := 14, b := 19, sat := false, x := 0 }) ∧
    nmuDecode 0x611574C0 = some (.nand { ty := 1, rm := 0, d := 21, a := 14, b := 19, sat := false, x := 0 }) ∧
    nmuDecode 0x691574C0 = some (.nor { ty := 1, rm := 0, d := 21, a := 14, b := 19, sat := false, x := 0 }) ∧
    nmuDecode 0x711574C0 = some (.nxor { ty := 1, rm := 0, d := 21, a := 14, b := 19, sat := false, x := 0 }) ∧
    nmuDecode 0x79157742 = some (.nshf { ty := 1, rm := 0, d := 21, a := 14, b := 29, sat := false, x := 2 }) ∧
    nmuDecode 0x82757120 = some (.ncvt { ty := 2, rm := 3, d := 21, a := 14, b := 4, sat := true, x := 0 }) ∧
    nmuDecode 0x8975AC40 = some (.nlaw { mode := 1, rm := 3, d := 21, ai := 2, off := 0x2C40 }) ∧
    nmuDecode 0x90157145 = some (.ntq { d := 21, a := 14, handle := 0x145 }) ∧
    nmuDecode 0x9C757000 = some (.nred { ty := 4, rm := 3, d := 21, a := 14, b := 0, sat := false, x := 0 }) ∧
    nmuDecode 0xA015AC5A = some (.npush { mode := 0, rm := 0, d := 21, ai := 2, off := 0x2C5A }) ∧
    nmuDecode 0xA835C5A3 = some (.nloop0 { len := 0x35, count := 0xC5A3 }) ∧
    nmuDecode 0xB035C5A3 = some (.nloop1 { len := 0x35, count := 0xC5A3 }) ∧
    nmuDecode 0xB802C5A3 = some (.nadda { ai := 2, imm := 0xC5A3 }) ∧
    nmuDecode 0xC0000000 = some (.nend) := by
  decide

/-- Class VARITH (04_formats.md R70, R71, R74). -/
theorem test_decode_varith :
    decoded [0x76400B06, 0x00007647, 0x00000000] = some (.vadd { xg with mask := 3, rm := 5, ty := 9, b := 29, a := 18, d := 7 }) ∧
    decoded [0x76401B06, 0x00007647, 0x00000000] = some (.vsub { xg with mask := 3, rm := 5, ty := 9, b := 29, a := 18, d := 7 }) ∧
    decoded [0x76402B06, 0x00007647, 0x00000000] = some (.vmul { xg with mask := 3, rm := 5, ty := 9, b := 29, a := 18, d := 7 }) ∧
    decoded [0x72003B06, 0x000B7647, 0x00000000] = some (.vfma { xg with mask := 3, rm := 4, ty := 8, c := 22, b := 29, a := 18, d := 7 }) ∧
    decoded [0x72004B06, 0x000B7647, 0x00000000] = some (.vfms { xg with mask := 3, rm := 4, ty := 8, c := 22, b := 29, a := 18, d := 7 }) ∧
    decoded [0x60C05B06, 0x00007647, 0x00000000] = some (.vmin { xg with mask := 3, ty := 3, b := 29, a := 18, d := 7 }) ∧
    decoded [0x60C06B06, 0x00007647, 0x00000000] = some (.vmax { xg with mask := 3, ty := 3, b := 29, a := 18, d := 7 }) ∧
    decoded [0x60807B06, 0x01000247, 0x00000000] = some (.vabs { xg with mask := 3, ty := 2, sat := true, a := 18, d := 7 }) ∧
    decoded [0x60808B06, 0x01000247, 0x00000000] = some (.vneg { xg with mask := 3, ty := 2, sat := true, a := 18, d := 7 }) ∧
    decoded [0x76809B06, 0x00007647, 0x00000000] = some (.vabsd { xg with mask := 3, rm := 5, ty := 10, b := 29, a := 18, d := 7 }) ∧
    decoded [0x6180AB06, 0x00007647, 0x00000000] = some (.vmulh { xg with mask := 3, ty := 6, b := 29, a := 18, d := 7 }) ∧
    decoded [0x6E00BB06, 0x00007647, 0x00000000] = some (.vdiv { xg with mask := 3, rm := 3, ty := 8, b := 29, a := 18, d := 7 }) ∧
    decoded [0x6A40CB06, 0x00000247, 0x00000000] = some (.vsqrt { xg with mask := 3, rm := 2, ty := 9, a := 18, d := 7 }) ∧
    decoded [0x7E00DB06, 0x00000247, 0x0000FFC5] = some (.vscl { xg with mask := 3, rm := 7, ty := 8, a := 18, d := 7, w2 := 0xFFC5 }) := by
  decide

/-- Class VLOGIC (04_formats.md R70, R71, R74). -/
theorem test_decode_vlogic :
    decoded [0x61C00B0A, 0x00007647, 0x00000000] = some (.vand { xg with mask := 3, ty := 7, b := 29, a := 18, d := 7 }) ∧
    decoded [0x61C01B0A, 0x00007647, 0x00000000] = some (.vor { xg with mask := 3, ty := 7, b := 29, a := 18, d := 7 }) ∧
    decoded [0x61C02B0A, 0x00007647, 0x00000000] = some (.vxor { xg with mask := 3, ty := 7, b := 29, a := 18, d := 7 }) ∧
    decoded [0x61C03B0A, 0x00007647, 0x00000000] = some (.vandn { xg with mask := 3, ty := 7, b := 29, a := 18, d := 7 }) ∧
    decoded [0x61C04B0A, 0x00000247, 0x00000000] = some (.vnot { xg with mask := 3, ty := 7, a := 18, d := 7 }) ∧
    decoded [0x61005B0A, 0x00007647, 0x00000000] = some (.vshl { xg with mask := 3, ty := 4, b := 29, a := 18, d := 7 }) ∧
    decoded [0x61006B0A, 0x00007647, 0x00000000] = some (.vshr { xg with mask := 3, ty := 4, b := 29, a := 18, d := 7 }) ∧
    decoded [0x61007B0A, 0x80000247, 0x0000002C] = some (.vsra { xg with mask := 3, ty := 4, x := true, a := 18, d := 7, w2 := 0x2C }) ∧
    decoded [0x61008B0A, 0x80000247, 0x0000002C] = some (.vrotr { xg with mask := 3, ty := 4, x := true, a := 18, d := 7, w2 := 0x2C }) ∧
    decoded [0x61409B0A, 0x00000247, 0x00000000] = some (.vpopc { xg with mask := 3, ty := 5, a := 18, d := 7 }) ∧
    decoded [0x6140AB0A, 0x00000247, 0x00000000] = some (.vclz { xg with mask := 3, ty := 5, a := 18, d := 7 }) := by
  decide

/-- Class VCMP (04_formats.md R70, R71, R74). -/
theorem test_decode_vcmp :
    decoded [0x60400B0E, 0x00007646, 0x00000000] = some (.vceq { xg with mask := 3, ty := 1, b := 29, a := 18, d := 6 }) ∧
    decoded [0x60401B0E, 0x00007646, 0x00000000] = some (.vcne { xg with mask := 3, ty := 1, b := 29, a := 18, d := 6 }) ∧
    decoded [0x60402B0E, 0x00007646, 0x00000000] = some (.vclt { xg with mask := 3, ty := 1, b := 29, a := 18, d := 6 }) ∧
    decoded [0x60403B0E, 0x00007646, 0x00000000] = some (.vcle { xg with mask := 3, ty := 1, b := 29, a := 18, d := 6 }) ∧
    decoded [0x60404B0E, 0x00007646, 0x00000000] = some (.vcgt { xg with mask := 3, ty := 1, b := 29, a := 18, d := 6 }) ∧
    decoded [0x60405B0E, 0x00007646, 0x00000000] = some (.vcge { xg with mask := 3, ty := 1, b := 29, a := 18, d := 6 }) ∧
    decoded [0x62406B0E, 0x00007646, 0x00000000] = some (.vcun { xg with mask := 3, ty := 9, b := 29, a := 18, d := 6 }) ∧
    decoded [0x62407B0E, 0x00000246, 0x000001C5] = some (.vclass { xg with mask := 3, ty := 9, a := 18, d := 6, w2 := 0x1C5 }) ∧
    decoded [0x61C08B0E, 0x0002F647, 0x00000000] = some (.vsel { xg with mask := 3, ty := 7, c := 5, b := 29, a := 18, d := 7 }) ∧
    decoded [0x00009B0E, 0x000010A6, 0x00000000] = some (.vmand { xg with b := 4, a := 5, d := 6 }) ∧
    decoded [0x0000AB0E, 0x000010A6, 0x00000000] = some (.vmor { xg with b := 4, a := 5, d := 6 }) ∧
    decoded [0x0000BB0E, 0x000010A6, 0x00000000] = some (.vmxor { xg with b := 4, a := 5, d := 6 }) ∧
    decoded [0x0000CB0E, 0x000000A6, 0x00000000] = some (.vmnot { xg with a := 5, d := 6 }) ∧
    decoded [0x0000DB0E, 0x000000A7, 0x00000000] = some (.vmtos { xg with a := 5, d := 7 }) ∧
    decoded [0x0000EB0E, 0x00000246, 0x00000000] = some (.vstom { xg with a := 18, d := 6 }) := by
  decide

/-- Class VCVT (04_formats.md R70, R71, R74). -/
theorem test_decode_vcvt :
    decoded [0x74000B12, 0x81900247, 0x00000308] = some (.vcvt { xg with mask := 3, rm := 5, x := true, sat := true, hist := 9, a := 18, d := 7, w2 := 0x308 }) ∧
    decoded [0x17C01B12, 0x40000247, 0x00000008] = some (.valign { xg with rm := 5, ty := 15, aw := 2, a := 18, d := 7, w2 := 0x8 }) ∧
    decoded [0x17C01B12, 0x20000247, 0x00000029] = some (.valignp { xg with rm := 5, ty := 15, aw := 1, a := 18, d := 7, w2 := 0x29 }) ∧
    decoded [0x17402B12, 0x01007647, 0x00000009] = some (.vpke2 { xg with rm := 5, ty := 13, sat := true, b := 29, a := 18, d := 7, w2 := 0x9 }) ∧
    decoded [0x02803B12, 0x00000247, 0x00000000] = some (.vunpe2 { xg with ty := 10, a := 18, d := 7 }) ∧
    decoded [0x01404B12, 0x00000007, 0x00000015] = some (.vhist { xg with ty := 5, d := 7, w2 := 0x15 }) := by
  decide

/-- Class VPERM (04_formats.md R70, R71, R74). -/
theorem test_decode_vperm :
    decoded [0x62400B16, 0x00000247, 0x00000000] = some (.vbcast { xg with mask := 3, ty := 9, a := 18, d := 7 }) ∧
    decoded [0x62401B16, 0x00007647, 0x00000000] = some (.vshuf { xg with mask := 3, ty := 9, b := 29, a := 18, d := 7 }) ∧
    decoded [0x62402B16, 0x00000247, 0x00000005] = some (.vrot { xg with mask := 3, ty := 9, a := 18, d := 7, w2 := 0x5 }) ∧
    decoded [0x62403B16, 0x00007647, 0x00000005] = some (.vslide { xg with mask := 3, ty := 9, b := 29, a := 18, d := 7, w2 := 0x5 }) ∧
    decoded [0x62404B16, 0x00007647, 0x00000001] = some (.vzip { xg with mask := 3, ty := 9, b := 29, a := 18, d := 7, w2 := 0x1 }) ∧
    decoded [0x62405B16, 0x00007647, 0x00000001] = some (.vunzip { xg with mask := 3, ty := 9, b := 29, a := 18, d := 7, w2 := 0x1 }) ∧
    decoded [0x62406B16, 0x00000247, 0x00000005] = some (.vins { xg with mask := 3, ty := 9, a := 18, d := 7, w2 := 0x5 }) ∧
    decoded [0x62407B16, 0x00000247, 0x00000005] = some (.vextr { xg with mask := 3, ty := 9, a := 18, d := 7, w2 := 0x5 }) ∧
    decoded [0x62408B16, 0x00000247, 0x00000000] = some (.vcomp { xg with mask := 3, ty := 9, a := 18, d := 7 }) ∧
    decoded [0x62409B16, 0x00000247, 0x00000000] = some (.vexpd { xg with mask := 3, ty := 9, a := 18, d := 7 }) := by
  decide

/-- Class VRED (04_formats.md R70, R71, R74). -/
theorem test_decode_vred :
    decoded [0x76800B1A, 0x00000247, 0x00000000] = some (.vrsum { xg with mask := 3, rm := 5, ty := 10, a := 18, d := 7 }) ∧
    decoded [0x62801B1A, 0x00000247, 0x00000000] = some (.vrmin { xg with mask := 3, ty := 10, a := 18, d := 7 }) ∧
    decoded [0x62802B1A, 0x00000247, 0x00000000] = some (.vrmax { xg with mask := 3, ty := 10, a := 18, d := 7 }) ∧
    decoded [0x60803B1A, 0x01007647, 0x00000000] = some (.vrdot { xg with mask := 3, ty := 2, sat := true, b := 29, a := 18, d := 7 }) := by
  decide

/-- Class VMEM (04_formats.md R70, R71, R74). -/
theorem test_decode_vmem :
    decoded [0x63800B1E, 0x14000007, 0x00000000] = some (.vld { xg with mask := 3, ty := 14, l := 2, wait := 2, d := 7 }) ∧
    decoded [0x63801B1E, 0x94900007, 0x00000000] = some (.vst { xg with mask := 3, ty := 14, x := true, l := 2, wait := 2, hist := 9, d := 7 }) ∧
    decoded [0x63002B1E, 0x04000247, 0xFFFFFFC0] = some (.vldr { xg with mask := 3, ty := 12, wait := 2, a := 18, d := 7, w2 := 0xFFFFFFC0 }) ∧
    decoded [0x63003B1E, 0x84900247, 0xFFFFFFC0] = some (.vstr { xg with mask := 3, ty := 12, x := true, wait := 2, hist := 9, a := 18, d := 7, w2 := 0xFFFFFFC0 }) ∧
    decoded [0x63004B1E, 0x04000247, 0xFFFFFFC0] = some (.vldbc { xg with mask := 3, ty := 12, wait := 2, a := 18, d := 7, w2 := 0xFFFFFFC0 }) := by
  decide

/-- Class MATRIX (04_formats.md R70, R71, R74). -/
theorem test_decode_matrix :
    decoded [0x03800B22, 0x14000000, 0x00000001] = some (.mldb { xg with ty := 14, l := 2, wait := 2, w2 := 0x1 }) ∧
    decoded [0x01C01B22, 0x14000003, 0x00000101] = some (.mmul { xg with ty := 7, l := 2, wait := 2, d := 3, w2 := 0x101 }) ∧
    decoded [0x03C02B22, 0x75000003, 0x00000100] = some (.mmac { xg with ty := 15, aw := 3, l := 2, wait := 2, sat := true, d := 3, w2 := 0x100 }) ∧
    decoded [0x16003B22, 0x95900060, 0x000000C5] = some (.mrd { xg with rm := 5, ty := 8, x := true, l := 2, wait := 2, sat := true, hist := 9, a := 3, w2 := 0xC5 }) ∧
    decoded [0x00004B22, 0x04000000, 0x0000000D] = some (.mclr { xg with wait := 2, w2 := 0xD }) ∧
    decoded [0x00005B22, 0x04000000, 0x00000001] = some (.mshr { xg with wait := 2, w2 := 0x1 }) ∧
    decoded [0x00006B22, 0x04000000, 0x00000000] = some (.mrel { xg with wait := 2 }) ∧
    decoded [0x16007B22, 0x95900020, 0x00000006] = some (.vscalc { xg with rm := 5, ty := 8, x := true, l := 2, wait := 2, sat := true, hist := 9, a := 1, w2 := 0x6 }) := by
  decide

/-- Class GANG (04_formats.md R70, R71, R74). -/
theorem test_decode_gang :
    decoded [0x00000026, 0x00000240, 0x000002C5] = some (.gang { x0 with a := 18, w2 := 0x2C5 }) ∧
    decoded [0x00001026, 0x00000000, 0x00000000] = some (.split x0) := by
  decide

/-- Class ATOMIC (04_formats.md R70, R71, R74). -/
theorem test_decode_atomic :
    decoded [0x01400B2A, 0x04007647, 0xFFFFFFC8] = some (.aadd { xg with ty := 5, wait := 2, b := 29, a := 18, d := 7, w2 := 0xFFFFFFC8 }) ∧
    decoded [0x01401B2A, 0x04007647, 0xFFFFFFC8] = some (.aand { xg with ty := 5, wait := 2, b := 29, a := 18, d := 7, w2 := 0xFFFFFFC8 }) ∧
    decoded [0x01402B2A, 0x04007647, 0xFFFFFFC8] = some (.aor { xg with ty := 5, wait := 2, b := 29, a := 18, d := 7, w2 := 0xFFFFFFC8 }) ∧
    decoded [0x01403B2A, 0x04007647, 0xFFFFFFC8] = some (.axor { xg with ty := 5, wait := 2, b := 29, a := 18, d := 7, w2 := 0xFFFFFFC8 }) ∧
    decoded [0x01404B2A, 0x04007647, 0xFFFFFFC8] = some (.amin { xg with ty := 5, wait := 2, b := 29, a := 18, d := 7, w2 := 0xFFFFFFC8 }) ∧
    decoded [0x01405B2A, 0x04007647, 0xFFFFFFC8] = some (.amax { xg with ty := 5, wait := 2, b := 29, a := 18, d := 7, w2 := 0xFFFFFFC8 }) ∧
    decoded [0x01406B2A, 0x04007647, 0xFFFFFFC8] = some (.aminu { xg with ty := 5, wait := 2, b := 29, a := 18, d := 7, w2 := 0xFFFFFFC8 }) ∧
    decoded [0x01407B2A, 0x04007647, 0xFFFFFFC8] = some (.amaxu { xg with ty := 5, wait := 2, b := 29, a := 18, d := 7, w2 := 0xFFFFFFC8 }) ∧
    decoded [0x01408B2A, 0x04007647, 0xFFFFFFC8] = some (.aswap { xg with ty := 5, wait := 2, b := 29, a := 18, d := 7, w2 := 0xFFFFFFC8 }) ∧
    decoded [0x01009B2A, 0x040B7647, 0x00000028] = some (.acas { xg with ty := 4, wait := 2, c := 22, b := 29, a := 18, d := 7, w2 := 0x28 }) ∧
    decoded [0x1680AB2A, 0x04007647, 0x00000028] = some (.afadd { xg with rm := 5, ty := 10, wait := 2, b := 29, a := 18, d := 7, w2 := 0x28 }) ∧
    decoded [0x01800B2A, 0x84007640, 0xFFFFFFC8] = some (.aaddp { xg with ty := 6, x := true, wait := 2, b := 29, a := 18, w2 := 0xFFFFFFC8 }) ∧
    decoded [0x01801B2A, 0x84007640, 0xFFFFFFC8] = some (.aandp { xg with ty := 6, x := true, wait := 2, b := 29, a := 18, w2 := 0xFFFFFFC8 }) ∧
    decoded [0x01802B2A, 0x84007640, 0xFFFFFFC8] = some (.aorp { xg with ty := 6, x := true, wait := 2, b := 29, a := 18, w2 := 0xFFFFFFC8 }) ∧
    decoded [0x01803B2A, 0x84007640, 0xFFFFFFC8] = some (.axorp { xg with ty := 6, x := true, wait := 2, b := 29, a := 18, w2 := 0xFFFFFFC8 }) ∧
    decoded [0x01804B2A, 0x84007640, 0xFFFFFFC8] = some (.aminp { xg with ty := 6, x := true, wait := 2, b := 29, a := 18, w2 := 0xFFFFFFC8 }) ∧
    decoded [0x01805B2A, 0x84007640, 0xFFFFFFC8] = some (.amaxp { xg with ty := 6, x := true, wait := 2, b := 29, a := 18, w2 := 0xFFFFFFC8 }) ∧
    decoded [0x01806B2A, 0x84007640, 0xFFFFFFC8] = some (.aminup { xg with ty := 6, x := true, wait := 2, b := 29, a := 18, w2 := 0xFFFFFFC8 }) ∧
    decoded [0x01807B2A, 0x84007640, 0xFFFFFFC8] = some (.amaxup { xg with ty := 6, x := true, wait := 2, b := 29, a := 18, w2 := 0xFFFFFFC8 }) ∧
    decoded [0x01808B2A, 0x84007640, 0xFFFFFFC8] = some (.aswapp { xg with ty := 6, x := true, wait := 2, b := 29, a := 18, w2 := 0xFFFFFFC8 }) ∧
    decoded [0x1600AB2A, 0x84007640, 0x00000028] = some (.afaddp { xg with rm := 5, ty := 8, x := true, wait := 2, b := 29, a := 18, w2 := 0x28 }) := by
  decide

/-- Class SYNC (04_formats.md R70, R71, R74). -/
theorem test_decode_sync :
    decoded [0x00000B2E, 0x04007647, 0xFFFFFFF0] = some (.expect { xg with wait := 2, b := 29, a := 18, d := 7, w2 := 0xFFFFFFF0 }) ∧
    decoded [0x00001B2E, 0x04007647, 0xFFFFFFF0] = some (.waitg { xg with wait := 2, b := 29, a := 18, d := 7, w2 := 0xFFFFFFF0 }) ∧
    decoded [0x0000202E, 0x00000000, 0x0000000A] = some (.bar { x0 with w2 := 0xA }) ∧
    decoded [0x00003B2E, 0x04000000, 0x0000000A] = some (.bararr { xg with wait := 2, w2 := 0xA }) ∧
    decoded [0x00004B2E, 0x00000000, 0x0000000A] = some (.barwt { xg with w2 := 0xA }) ∧
    decoded [0x00005B2E, 0x04000000, 0x000000C5] = some (.qfence { xg with wait := 2, w2 := 0xC5 }) ∧
    decoded [0x00006B2E, 0x04007640, 0xFFFFFFF0] = some (.swinit { xg with wait := 2, b := 29, a := 18, w2 := 0xFFFFFFF0 }) := by
  decide

/-- Class ENGINE (04_formats.md R70, R71, R74). -/
theorem test_decode_engine :
    decoded [0x02400B32, 0x940B0000, 0x00000000] = some (.send { xg with ty := 9, x := true, l := 2, wait := 2, c := 22 }) ∧
    decoded [0x02401B32, 0x14000000, 0x00000003] = some (.sendl { xg with ty := 9, l := 2, wait := 2, w2 := 0x3 }) ∧
    decoded [0x02402B32, 0x940B7400, 0x00000000] = some (.gath { xg with ty := 9, x := true, l := 2, wait := 2, c := 22, b := 29 }) ∧
    decoded [0x02403B32, 0x940B7400, 0x00000000] = some (.scat { xg with ty := 9, x := true, l := 2, wait := 2, c := 22, b := 29 }) ∧
    decoded [0x01804B32, 0x840B0240, 0x0000000A] = some (.treduce { xg with ty := 6, x := true, wait := 2, c := 22, a := 18, w2 := 0xA }) := by
  decide

/-- Class SCAN (04_formats.md R70, R71, R74). -/
theorem test_decode_scan :
    decoded [0x00000B36, 0x00000000, 0x5123A503] = some (.scop { xg with w2 := 0x5123A503 }) ∧
    decoded [0x00000B36, 0x00000000, 0xC5230000] = some (.scophdr { xg with w2 := 0xC5230000 }) ∧
    decoded [0x00000B36, 0x00000240, 0xD0006000] = some (.scopid { xg with a := 18, w2 := 0xD0006000 }) ∧
    decoded [0x16001B36, 0x10007400, 0x0000001F] = some (.scan { xg with rm := 5, ty := 8, l := 2, b := 29, w2 := 0x1F }) ∧
    decoded [0x16002B36, 0x10007400, 0x0000003F] = some (.scanc { xg with rm := 5, ty := 8, l := 2, b := 29, w2 := 0x3F }) ∧
    decoded [0x00003B36, 0x00000000, 0x00000001] = some (.ride { xg with w2 := 0x1 }) ∧
    decoded [0x00004036, 0x00000000, 0x00000001] = some (.rbar { x0 with w2 := 0x1 }) ∧
    decoded [0x00005B36, 0x00000007, 0x00000001] = some (.scwait { xg with d := 7, w2 := 0x1 }) := by
  decide

/-- Class LAW (04_formats.md R70, R71, R74). -/
theorem test_decode_law :
    decoded [0x16000B3A, 0x04000247, 0xFFC50001] = some (.lld { xg with rm := 5, ty := 8, wait := 2, a := 18, d := 7, w2 := 0xFFC50001 }) ∧
    decoded [0x02001B3A, 0x040B7640, 0xFFC5A301] = some (.lst { xg with ty := 8, wait := 2, c := 22, b := 29, a := 18, w2 := 0xFFC5A301 }) ∧
    decoded [0x16002B3A, 0x040B7647, 0xFFC50001] = some (.ladd { xg with rm := 5, ty := 8, wait := 2, c := 22, b := 29, a := 18, d := 7, w2 := 0xFFC50001 }) ∧
    decoded [0x16003B3A, 0x04000247, 0xFFC50001] = some (.lreb { xg with rm := 5, ty := 8, wait := 2, a := 18, d := 7, w2 := 0xFFC50001 }) ∧
    decoded [0x00004B3A, 0x04000240, 0xFFC5A300] = some (.lset { xg with wait := 2, a := 18, w2 := 0xFFC5A300 }) ∧
    decoded [0x00005B3A, 0x04000240, 0xFFC5A300] = some (.lget { xg with wait := 2, a := 18, w2 := 0xFFC5A300 }) ∧
    decoded [0x00006B3A, 0x04000240, 0x00000000] = some (.ltick { xg with wait := 2, a := 18 }) ∧
    decoded [0x00007B3A, 0x04000007, 0x00000000] = some (.lnow { xg with wait := 2, d := 7 }) ∧
    decoded [0x00008B3A, 0x00007647, 0x00000000] = some (.lreg { xg with b := 29, a := 18, d := 7 }) ∧
    decoded [0x00008B3A, 0x00000240, 0x00000002] = some (.lregf { xg with a := 18, w2 := 0x2 }) := by
  decide

/-- Class MSG (04_formats.md R70, R71, R74). -/
theorem test_decode_msg :
    decoded [0x00000B3E, 0x040B7640, 0x03F0025A] = some (.sendm { xg with wait := 2, c := 22, b := 29, a := 18, w2 := 0x3F0025A }) ∧
    decoded [0x00001B3E, 0x04000007, 0x00000002] = some (.mbox { xg with wait := 2, d := 7, w2 := 0x2 }) ∧
    decoded [0x00002B3E, 0x04000000, 0x000000C5] = some (.maskc { xg with wait := 2, w2 := 0xC5 }) ∧
    decoded [0x00003B3E, 0x04000000, 0x000000C5] = some (.unmc { xg with wait := 2, w2 := 0xC5 }) := by
  decide

/-- Class ACTOR (04_formats.md R70, R71, R74). -/
theorem test_decode_actor :
    decoded [0x00000B42, 0x04007647, 0x00000000] = some (.spawn { xg with wait := 2, b := 29, a := 18, d := 7 }) ∧
    decoded [0x00001B42, 0x04007640, 0x00000015] = some (.hset { xg with wait := 2, b := 29, a := 18, w2 := 0x15 }) ∧
    decoded [0x00002B42, 0x04000000, 0xC5A31234] = some (.hclr { xg with wait := 2, w2 := 0xC5A31234 }) ∧
    decoded [0x00003B42, 0x04000240, 0x00000005] = some (.wset { xg with wait := 2, a := 18, w2 := 0x5 }) ∧
    decoded [0x00004B42, 0x04000000, 0x000000C5] = some (.wclr { xg with wait := 2, w2 := 0xC5 }) ∧
    decoded [0x00005B42, 0x04000240, 0x00000000] = some (.adest { xg with wait := 2, a := 18 }) := by
  decide

/-- Class TASK (04_formats.md R70, R71, R74). -/
theorem test_decode_task :
    decoded [0x00000B46, 0x040B7647, 0x00000015] = some (.launch { xg with wait := 2, c := 22, b := 29, a := 18, d := 7, w2 := 0x15 }) ∧
    decoded [0x00001B46, 0x04000247, 0x0000000A] = some (.widf { xg with wait := 2, a := 18, d := 7, w2 := 0xA }) := by
  decide

/-- Class NEAR (04_formats.md R70, R71, R74). -/
theorem test_decode_near :
    decoded [0x00000B4A, 0x04000240, 0x00002C15] = some (.nmld { xg with wait := 2, a := 18, w2 := 0x2C15 }) ∧
    decoded [0x00001B4A, 0x04007640, 0x00120015] = some (.nmrun { xg with wait := 2, b := 29, a := 18, w2 := 0x120015 }) ∧
    decoded [0x00002B4A, 0x04000007, 0x00000000] = some (.nmwait { xg with wait := 2, d := 7 }) ∧
    decoded [0x00003B4A, 0x04000000, 0x00000000] = some (.nmfence { xg with wait := 2 }) ∧
    decoded [0x02404B4A, 0x14007400, 0x00000000] = some (.nmred { xg with ty := 9, l := 2, wait := 2, b := 29 }) ∧
    decoded [0x00C05B4A, 0x04000240, 0x00000145] = some (.tld { xg with ty := 3, wait := 2, a := 18, w2 := 0x145 }) ∧
    decoded [0x00C06B4A, 0x040B7640, 0x00000145] = some (.tq { xg with ty := 3, wait := 2, c := 22, b := 29, a := 18, w2 := 0x145 }) := by
  decide

/-- Class DEBUG (04_formats.md R70, R71, R74). -/
theorem test_decode_debug :
    decoded [0x00000B4E, 0x00000240, 0x00000002] = some (.dbset { xg with a := 18, w2 := 0x2 }) ∧
    decoded [0x00001B4E, 0x00000000, 0x0000000A] = some (.dbclr { xg with w2 := 0xA }) ∧
    decoded [0x00002B4E, 0x00007640, 0x00000002] = some (.dwset { xg with b := 29, a := 18, w2 := 0x2 }) ∧
    decoded [0x00003B4E, 0x00000000, 0x0000000A] = some (.dwclr { xg with w2 := 0xA }) ∧
    decoded [0x00004B4E, 0x00000240, 0x00000000] = some (.trmark { xg with a := 18 }) ∧
    decoded [0x00005B4E, 0x00000240, 0x00000000] = some (.trctl { xg with a := 18 }) ∧
    decoded [0x00006B4E, 0x00000007, 0x00000045] = some (.dacc { xg with d := 7, w2 := 0x45 }) := by
  decide

/-- Class PRIV (04_formats.md R70, R71, R74). -/
theorem test_decode_priv :
    decoded [0x00000B52, 0x00007640, 0x0000002A] = some (.ctxsv { xg with b := 29, a := 18, w2 := 0x2A }) ∧
    decoded [0x00001B52, 0x00007640, 0x0000002A] = some (.ctxld { xg with b := 29, a := 18, w2 := 0x2A }) ∧
    decoded [0x00002B52, 0x00000240, 0x00000002] = some (.tlbinv { xg with a := 18, w2 := 0x2 }) ∧
    decoded [0x00003B52, 0x00007640, 0x00000000] = some (.clrset { xg with b := 29, a := 18 }) ∧
    decoded [0x00004B52, 0x00000240, 0x00000002] = some (.ltmode { xg with a := 18, w2 := 0x2 }) ∧
    decoded [0x00005B52, 0x00000240, 0x00000002] = some (.crset { xg with a := 18, w2 := 0x2 }) := by
  decide

/-! ### The words that the spec writes out beside an instruction -/

/-- A header with one guard. -/
def hg (n : Bool) (p : PReg) : Hdr := { g := { neg := n, p := p }, lit := none }

/-- 05_assembler.md, the fragments and their words; 09_scalar_notes.md, 17_scan_notes.md, 21_nearmem_notes.md, 25_debug_notes.md. -/
theorem test_spec_words_scalar :
    decoded [0x01005020] = some (.addi { g := always, d := 5, a := 0, imm := 4 }) ∧
    decoded [0x009260A8] = some (.stw { g := always, wait := 0, off := 2, a := 9, d := 6 }) ∧
    decoded [0x4B007020] = some (.addi { g := always, d := 7, a := 0, imm := 300 }) ∧
    decoded [0x2710703C] = some (.lis { g := always, d := 7, imm := 5000 }) ∧
    decoded [0x00486120] = some (.addi { g := { neg := false, p := 1 }, d := 6, a := 4, imm := 1 }) ∧
    decoded [0x0012A08C] = some (.ldd { g := always, wait := 0, off := 0, a := 9, d := 10 }) ∧
    decoded [0x0052B08C] = some (.ldd { g := always, wait := 0, off := 1, a := 9, d := 11 }) ∧
    decoded [0x009610CC] = some (.loop { lit := none, lc := 1, a := 11, off := 2 }) ∧
    decoded [0x000010D0] = some (.endAct { h := h0 }) ∧
    decoded [0x012A7094] = some (.ldhu { g := always, wait := 0, off := 4, a := 21, d := 7 }) ∧
    decoded [0x000C70AC] = some (.std { g := always, wait := 0, off := 0, a := 6, d := 7 }) ∧
    decoded [0x0092C098] = some (.ldwu { g := always, wait := 0, off := 2, a := 9, d := 12 }) ∧
    decoded [0x06B11040] = some (.cmp { h := h0, cond := 0, pd := 1, pe := 2, a := 12, b := 13 }) ∧
    decoded [0xFFFFE2C0] = some (.br { g := { neg := false, p := 2 }, off := 0xFFFFE }) ∧
    decoded [0x01507044] = some (.cmpi { g := always, cond := 0, pd := 7, pe := 0, a := 20, imm := 2 }) ∧
    decoded [0x00013FC0] = some (.br { g := { neg := true, p := 7 }, off := 0x13 }) := by
  decide

/-- 05_assembler.md, 10_vector_matrix.md, 17_scan_notes.md. -/
theorem test_spec_words_vector_matrix :
    decoded [0x0200001E, 0x08000004, 0] = some (.vld { x0 with ty := 8, l := 1, d := 4 }) ∧
    decoded [0x02003006, 0x00020C41, 0] = some (.vfma { x0 with ty := 8, d := 1, a := 2, b := 3, c := 4 }) ∧
    decoded [0x20000006, 0x01002507, 0] = some (.vadd { x0 with mask := 1, sat := true, d := 7, a := 8, b := 9 }) ∧
    decoded [0x4240200E, 0x00000C41, 0] = some (.vclt { x0 with ty := 9, mask := 2, d := 1, a := 2, b := 3 }) ∧
    decoded [0x03C01012, 0x200000C5, 9] = some (.valign { x0 with ty := 15, aw := 1, d := 5, a := 6, w2 := 9 }) ∧
    decoded [0x02000016, 0x00000301, 0] = some (.vbcast { x0 with ty := 8, d := 1, a := 24 }) ∧
    decoded [0x0200301E, 0x000002C2, 0x40] = some (.vstr { x0 with ty := 8, d := 2, a := 22, w2 := 64 }) ∧
    decoded [0x03C01022, 0x28000001, 1] = some (.mmul { x0 with ty := 15, aw := 1, l := 1, d := 1, w2 := 1 }) ∧
    decoded [0x02007022, 0x10000000, 0] = some (.vscalc { x0 with ty := 8, l := 2 }) ∧
    decoded [0x00000026, 0x00000080, 10] = some (.gang { x0 with a := 4, w2 := 10 }) ∧
    decoded [0x00001026, 0, 0] = some (.split x0) := by
  decide

/-- 12_memory.md, the instructions and their words; 21_nearmem_notes.md, 25_debug_notes.md. -/
theorem test_spec_words_memory :
    decoded [0x0000002E, 0x00001524, 0] = some (.expect { x0 with d := 4, a := 9, b := 5 }) ∧
    decoded [0x0000102E, 0x00001126, 0] = some (.waitg { x0 with d := 6, a := 9, b := 4 }) ∧
    decoded [0x0000202E, 0, 3] = some (.bar { x0 with w2 := 3 }) ∧
    decoded [0x0000502E, 0x04000000, 0x80] = some (.qfence { x0 with wait := 2, w2 := 0x80 }) ∧
    decoded [0x0180002A, 0x00001524, 0] = some (.aadd { x0 with ty := 6, d := 4, a := 9, b := 5 }) ∧
    decoded [0x0180002A, 0x82001520, 0] = some (.aaddp { x0 with ty := 6, x := true, wait := 1, a := 9, b := 5 }) ∧
    decoded [0x1600A02A, 0x00001524, 0] = some (.afadd { x0 with ty := 8, rm := 5, d := 4, a := 9, b := 5 }) ∧
    decoded [0x02000032, 0x08000000, 0] = some (.send { x0 with ty := 8, l := 1 }) ∧
    decoded [0x02402032, 0x10001400, 0] = some (.gath { x0 with ty := 9, l := 2, b := 5 }) ∧
    decoded [0x02004032, 0x00000060, 2] = some (.treduce { x0 with ty := 8, a := 3, w2 := 2 }) ∧
    decoded [0x0180072A, 0x80001740, 0] = some (.aaddp { x0 with h := hg false 7, ty := 6, x := true, a := 26, b := 5 }) := by
  decide

/-- 16_scan.md, 14_lawstate.md, 15_lawstate_notes.md: the instructions and their words. -/
theorem test_spec_words_scan_law :
    decoded [0x36, 0, 0x40040000] = some (.scop { x0 with w2 := 0x40040000 }) ∧
    decoded [0x36, 0, 0x55142100] = some (.scop { x0 with w2 := 0x55142100 }) ∧
    decoded [0x36, 0, 0xC2220000] = some (.scophdr { x0 with w2 := 0xC2220000 }) ∧
    decoded [0x36, 0xC0, 0xD0000000] = some (.scopid { x0 with a := 6, w2 := 0xD0000000 }) ∧
    decoded [0x02001036, 0x08001400, 0x10] = some (.scan { x0 with ty := 8, l := 1, b := 5, w2 := 0x10 }) ∧
    decoded [0x16002036, 0x10001400, 0x18] = some (.scanc { x0 with ty := 8, rm := 5, l := 2, b := 5, w2 := 0x18 }) ∧
    decoded [0x3036, 0, 1] = some (.ride { x0 with w2 := 1 }) ∧
    decoded [0x4036, 0, 0] = some (.rbar x0) ∧
    decoded [0x5036, 7, 0] = some (.scwait { x0 with d := 7 }) ∧
    decoded [0x0200003A, 0x00000124, 0x00100001] = some (.lld { x0 with ty := 8, d := 4, a := 9, w2 := 0x100001 }) ∧
    decoded [0x0200103A, 0x00041D20, 0x01100301] = some (.lst { x0 with ty := 8, a := 9, b := 7, c := 8, w2 := 0x1100301 }) ∧
    decoded [0x1600203A, 0x00001524, 0] = some (.ladd { x0 with ty := 8, rm := 5, d := 4, a := 9, b := 5 }) ∧
    decoded [0x0200303A, 0x00000132, 0x01300001] = some (.lreb { x0 with ty := 8, d := 18, a := 9, w2 := 0x1300001 }) ∧
    decoded [0x0000403A, 0x00000120, 0x00200200] = some (.lset { x0 with a := 9, w2 := 0x200200 }) ∧
    decoded [0x603A, 0x80, 0] = some (.ltick { x0 with a := 4 }) ∧
    decoded [0x703A, 4, 0] = some (.lnow { x0 with d := 4 }) := by
  decide

/-- 18_messages.md, 20_nearmem.md, 22_scheduling_faults.md, 24_debug.md: the instructions and their words. -/
theorem test_spec_words_units :
    decoded [0x3E, 0x06031480, 0x00400203] = some (.sendm { x0 with wait := 3, a := 4, b := 5, c := 6, w2 := 0x400203 }) ∧
    decoded [0x103E, 7, 1] = some (.mbox { x0 with d := 7, w2 := 1 }) ∧
    decoded [0x203E, 0, 12] = some (.maskc { x0 with w2 := 12 }) ∧
    decoded [0x42, 0x18A4, 0] = some (.spawn { x0 with d := 4, a := 5, b := 6 }) ∧
    decoded [0x1042, 0x18A0, 3] = some (.hset { x0 with a := 5, b := 6, w2 := 3 }) ∧
    decoded [0x46, 0x000398A4, 2] = some (.launch { x0 with d := 4, a := 5, b := 6, c := 7, w2 := 2 }) ∧
    decoded [0x1046, 0xA4, 1] = some (.widf { x0 with d := 4, a := 5, w2 := 1 }) ∧
    decoded [0x4A, 0xA0, 12] = some (.nmld { x0 with a := 5, w2 := 12 }) ∧
    decoded [0x104A, 0x040018A0, 0x01100800] = some (.nmrun { x0 with wait := 2, a := 5, b := 6, w2 := 0x1100800 }) ∧
    decoded [0x0240404A, 0x14001400, 0] = some (.nmred { x0 with ty := 9, l := 2, wait := 2, b := 5 }) ∧
    decoded [0x0052, 0x1480, 0x3F] = some (.ctxsv { x0 with a := 4, b := 5, w2 := 0x3F }) ∧
    decoded [0x2052, 0x80, 1] = some (.tlbinv { x0 with a := 4, w2 := 1 }) ∧
    decoded [0x5052, 0x80, 0] = some (.crset { x0 with a := 4 }) ∧
    decoded [0x254E, 0x1480, 0] = some (.dwset { x0 with h := hg false 5, a := 4, b := 5 }) ∧
    decoded [0x604E, 7, 66] = some (.dacc { x0 with d := 7, w2 := 66 }) := by
  decide

/-- 20_nearmem.md, the NMU program and its words. -/
theorem test_spec_words_nmu :
    nmuDecode 0xA8070000 = some (.nloop0 { len := 7, count := 0 }) ∧
    nmuDecode 0x08014000 = some (.nldr { mode := 0, rm := 0, d := 1, ai := 1, off := 0 }) ∧
    nmuDecode 0x25020040 = some (.nadd { ty := 5, rm := 0, d := 2, a := 0, b := 1, sat := false, x := 0 }) ∧
    nmuDecode 0xA0028000 = some (.npush { mode := 0, rm := 0, d := 2, ai := 2, off := 0 }) ∧
    nmuDecode 0xB8020020 = some (.nadda { ai := 2, imm := 32 }) ∧ nmuDecode 0xC0000000 = some .nend := by
  decide

/-! ### Ill-formed terms: one for each check of WellFormed -/

/-- The 32-bit checks (04_formats.md R54, R56, R64, R67, R68; 08_scalar.md R129, R130, R142). -/
theorem test_wf_scalar :
    (Instr.add { h := hg true 0, d := 1, a := 2, b := 3 }).wf = false ∧
    (Instr.addi { g := { neg := true, p := 0 }, d := 1, a := 2, imm := 3 }).wf = false ∧
    (Instr.cmp { h := h0, cond := 12, pd := 1, pe := 2, a := 2, b := 3 }).wf = false ∧
    (Instr.cmp { h := h0, cond := 0, pd := 1, pe := 1, a := 2, b := 3 }).wf = false ∧
    (Instr.cmp { h := h0, cond := 0, pd := 0, pe := 0, a := 2, b := 3 }).wf = true ∧
    (Instr.cmpi { g := always, cond := 12, pd := 1, pe := 2, a := 2, imm := 3 }).wf = false ∧
    (Instr.cmpiLit { g := always, cond := 0, pd := 3, pe := 3, a := 2, imm := 3 }).wf = false ∧
    (Instr.fcmpF16 { h := h0, cond := 8, pd := 1, pe := 2, a := 2, b := 3 }).wf = false ∧
    (Instr.plog { h := h0, tt := 1, pd := 4, pe := 4, pa := 1, pb := 2 }).wf = false ∧
    (Instr.faddF32 { h := h0, rm := 6, d := 1, a := 2, b := 3 }).wf = false ∧
    (Instr.fcvt { h := h0, rm := 6, sat := false, dst := 0, src := 4, d := 1, a := 2 }).wf = false ∧
    (Instr.fcvt { h := h0, rm := 0, sat := false, dst := 7, src := 4, d := 1, a := 2 }).wf = false ∧
    (Instr.fcvt { h := h0, rm := 0, sat := false, dst := 4, src := 7, d := 1, a := 2 }).wf = false ∧
    (Instr.fcvt { h := h0, rm := 0, sat := false, dst := 4, src := 4, d := 1, a := 2 }).wf = false ∧
    (Instr.fcvt { h := h0, rm := 0, sat := false, dst := 1, src := 2, d := 1, a := 2 }).wf = false ∧
    (Instr.fcvt { h := h0, rm := 0, sat := true, dst := 5, src := 4, d := 1, a := 2 }).wf = false ∧
    (Instr.loop { lit := none, lc := 0, a := 1, off := 1 }).wf = false ∧
    (Instr.loop { lit := none, lc := 0, a := 1, off := 0x3FF }).wf = false ∧
    (Instr.getc { h := h0, idx := 4, d := 1 }).wf = false ∧ (Instr.getc { h := h0, idx := 0x61, d := 1 }).wf = false := by
  decide

/-- The field checks that every extended instruction shares (04_formats.md R70 to R72, R78). -/
theorem test_wf_extended :
    (Instr.vadd { x0 with h := hg true 0 }).wf = false ∧ (Instr.vadd { x0 with ty := 7 }).wf = false ∧
    (Instr.vadd { x0 with ty := 8, rm := 6 }).wf = false ∧ (Instr.vadd { x0 with rm := 1 }).wf = false ∧
    (Instr.vadd { x0 with ty := 8, sat := true }).wf = false ∧ (Instr.vadd { x0 with aw := 1 }).wf = false ∧
    (Instr.vadd { x0 with wait := 1 }).wf = false ∧ (Instr.vadd { x0 with l := 1 }).wf = false ∧
    (Instr.vadd { x0 with x := true }).wf = false ∧ (Instr.vadd { x0 with hist := 1 }).wf = false ∧
    (Instr.vadd { x0 with c := 1 }).wf = false ∧ (Instr.vadd { x0 with w2 := 1 }).wf = false ∧
    (Instr.vabs { x0 with b := 1 }).wf = false ∧ (Instr.split { x0 with a := 1 }).wf = false ∧
    (Instr.split { x0 with d := 1 }).wf = false ∧ (Instr.split { x0 with mask := 1 }).wf = false ∧
    (Instr.vld x0).wf = false ∧ (Instr.vst { x0 with l := 1, hist := 1 }).wf = false ∧ (Instr.vadd x0).wf = true := by
  decide

/-- The checks of the vector and matrix subops (10_vector_matrix.md R160 to R190). -/
theorem test_wf_vector_matrix :
    (Instr.vclt { x0 with d := 8 }).wf = false ∧ (Instr.vclass { x0 with ty := 8, w2 := 0x200 }).wf = false ∧
    (Instr.vsel { x0 with c := 8 }).wf = false ∧ (Instr.vmand { x0 with b := 8 }).wf = false ∧
    (Instr.vmnot { x0 with a := 8 }).wf = false ∧ (Instr.vmtos { x0 with a := 8 }).wf = false ∧
    (Instr.vstom { x0 with d := 8 }).wf = false ∧ (Instr.vshl { x0 with b := 1, x := true }).wf = false ∧
    (Instr.vcvt { x0 with ty := 8, w2 := 8 }).wf = false ∧ (Instr.vcvt { x0 with ty := 8, w2 := 15 }).wf = false ∧
    (Instr.vcvt { x0 with ty := 0, w2 := 0x18 }).wf = false ∧ (Instr.vcvt { x0 with ty := 0, w2 := 0x408 }).wf = false ∧
    (Instr.vcvt { x0 with ty := 13, w2 := 8 }).wf = false ∧
    (Instr.valign { x0 with ty := 15, w2 := 7 }).wf = false ∧ (Instr.valign { x0 with ty := 15, a := 31, w2 := 8 }).wf = false ∧
    (Instr.valign { x0 with ty := 15, aw := 2, d := 31, w2 := 9 }).wf = false ∧
    (Instr.valign { x0 with ty := 15, w2 := 0x29 }).wf = false ∧ (Instr.valignp { x0 with ty := 15, w2 := 9 }).wf = false ∧
    (Instr.vpke2 { x0 with ty := 13, w2 := 9 }).wf = false ∧ (Instr.vpke2 { x0 with ty := 13, sat := true, a := 31, w2 := 8 }).wf = false ∧
    (Instr.vunpe2 { x0 with ty := 8, d := 31 }).wf = false ∧ (Instr.vhist { x0 with ty := 5, d := 29 }).wf = false ∧
    (Instr.mmul { x0 with l := 1, d := 4 }).wf = false ∧ (Instr.mmac { x0 with l := 1, d := 4 }).wf = false ∧
    (Instr.mrd { x0 with ty := 4, l := 1, a := 4 }).wf = false ∧ (Instr.vscalc { x0 with ty := 8, l := 1, a := 2, w2 := 2 }).wf = false ∧
    (Instr.gang { x0 with h := hg false 1 }).wf = false ∧ (Instr.split { x0 with h := hg false 1 }).wf = false := by
  decide

/-- The checks of the other classes' subops. -/
theorem test_wf_units :
    (Instr.aadd { x0 with ty := 4, x := true }).wf = false ∧ (Instr.aaddp { x0 with ty := 4 }).wf = false ∧
    (Instr.aaddp { x0 with ty := 4, x := true, d := 1 }).wf = false ∧ (Instr.acas { x0 with ty := 4, x := true }).wf = false ∧
    (Instr.bar { x0 with h := hg false 1 }).wf = false ∧ (Instr.sendl { x0 with l := 1 }).wf = false ∧
    (Instr.sendl { x0 with l := 1, w2 := 1 }).wf = false ∧ (Instr.send { x0 with l := 1, c := 1 }).wf = false ∧
    (Instr.scop { x0 with w2 := 0x10100000 }).wf = false ∧ (Instr.scop { x0 with w2 := 0x00002000 }).wf = false ∧
    (Instr.scop { x0 with w2 := 0x90010000 }).wf = false ∧ (Instr.scop { x0 with w2 := 0xC2220000 }).wf = false ∧
    (Instr.scophdr { x0 with w2 := 0xC0000000 }).wf = false ∧ (Instr.scophdr { x0 with w2 := 0xC2320000 }).wf = false ∧
    (Instr.scophdr { x0 with w2 := 0xC4220000 }).wf = false ∧ (Instr.scopid { x0 with w2 := 0xD0008000 }).wf = false ∧
    (Instr.scopid { x0 with w2 := 0xE0000000 }).wf = false ∧ (Instr.scan { x0 with ty := 8, l := 1, b := 1 }).wf = false ∧
    (Instr.rbar { x0 with h := hg false 1 }).wf = false ∧ (Instr.lld { x0 with ty := 8, d := 31, w2 := 1 }).wf = false ∧
    (Instr.lst { x0 with ty := 8, c := 1 }).wf = false ∧ (Instr.ladd { x0 with ty := 8, d := 31, w2 := 1 }).wf = false ∧
    (Instr.lreg { x0 with w2 := 2 }).wf = false ∧ (Instr.lregf x0).wf = false ∧
    (Instr.sendm { x0 with w2 := 0x03F10000 }).wf = false ∧ (Instr.sendm { x0 with w2 := 0x00060020 }).wf = false ∧
    (Instr.mbox { x0 with w2 := 3 }).wf = false ∧ (Instr.nmld x0).wf = false ∧ (Instr.nmld { x0 with w2 := 97 }).wf = false ∧
    (Instr.nmld { x0 with w2 := 0x6001 }).wf = false ∧ (Instr.nmrun { x0 with w2 := 96 }).wf = false ∧
    (Instr.nmrun { x0 with w2 := 0x1000 }).wf = false ∧ (Instr.tld { x0 with ty := 3, w2 := 0x600 }).wf = false ∧
    (Instr.tq { x0 with ty := 3, w2 := 0x408 }).wf = false ∧ (Instr.dacc { x0 with w2 := 70 }).wf = false ∧
    (Instr.tlbinv { x0 with w2 := 3 }).wf = false ∧ (Instr.ltmode x0).wf = false ∧ (Instr.crset { x0 with w2 := 3 }).wf = false := by
  decide

/-- The NMU's checks (20_nearmem.md R317, R318, R322). -/
theorem test_wf_nmu :
    (Instr.nldr { mode := 0, rm := 0, d := 24, ai := 0, off := 0 }).wf = false ∧
    (Instr.nstr { mode := 1, rm := 0, d := 0, ai := 0, off := 0 }).wf = false ∧
    (Instr.npush { mode := 0, rm := 1, d := 0, ai := 0, off := 0 }).wf = false ∧
    (Instr.nlaw { mode := 2, rm := 0, d := 0, ai := 0, off := 0 }).wf = false ∧
    (Instr.nldi { ty := 6, d := 0, imm := 0 }).wf = false ∧
    (Instr.nadd { ty := 6, rm := 0, d := 0, a := 0, b := 0, sat := false, x := 0 }).wf = false ∧
    (Instr.nadd { ty := 0, rm := 1, d := 0, a := 0, b := 0, sat := false, x := 0 }).wf = false ∧
    (Instr.nadd { ty := 5, rm := 5, d := 0, a := 0, b := 0, sat := false, x := 0 }).wf = false ∧
    (Instr.nadd { ty := 5, rm := 0, d := 0, a := 0, b := 0, sat := true, x := 0 }).wf = false ∧
    (Instr.nadd { ty := 0, rm := 0, d := 0, a := 0, b := 24, sat := false, x := 0 }).wf = false ∧
    (Instr.nadd { ty := 0, rm := 0, d := 0, a := 24, b := 0, sat := false, x := 0 }).wf = false ∧
    (Instr.ncmp { ty := 0, rm := 0, d := 0, a := 0, b := 0, sat := false, x := 6 }).wf = false ∧
    (Instr.nshf { ty := 0, rm := 0, d := 0, a := 0, b := 0, sat := false, x := 3 }).wf = false ∧
    (Instr.ncvt { ty := 0, rm := 0, d := 0, a := 0, b := 6, sat := false, x := 0 }).wf = false ∧
    (Instr.nred { ty := 0, rm := 0, d := 0, a := 0, b := 0, sat := false, x := 3 }).wf = false ∧
    (Instr.ntq { d := 0, a := 24, handle := 0 }).wf = false ∧ (Instr.ntq { d := 0, a := 0, handle := 0x600 }).wf = false := by
  decide

/-- What R76 calls no instruction is refused: major and class unassigned, subop past its list, SYS function past 7, a guard on an
unguardable instruction, a field that a literal replaces, a shift literal past 63; and R77's fetched-and-ignored literal is not. -/
theorem test_encodings_refused :
    decoded [0x0000007C] = none ∧ decoded [0x0000009C] = none ∧ decoded [0x000000E4] = none ∧ decoded [0x18000018] = none ∧
    decoded [0x00000002, 0, 0] = none ∧ decoded [0x00000056, 0, 0] = none ∧ decoded [0x0000E006, 0, 0] = none ∧
    decoded [0x000080D0] = none ∧ decoded [0x00000804] = none ∧ decoded [0x000041D0] = none ∧
    decoded [0x00400021, 0, 0] = none ∧ decoded [0x00000031, 64, 0] = none ∧
    decoded [0x00000005, 1, 0] = some (.add { h := { h0 with lit := some 1 }, d := 0, a := 0, b := 0 }) := by
  decide

end Sys2Proof.Tests
end

section
/-!
SUPPORT. Containment by the policy of the launch, and what an activation's end leaves with its actor (02_execution.md R32, R50, R51).
-/
namespace Sys2Proof.Machine

/-! ### Resident actors -/

theorem findActor_map {f : Actor → Actor} (hf : ∀ a, (f a).aid = a.aid) (aid : BitVec 24) (l : List (Option Actor)) (k : Nat) :
    findActor aid (l.map (Option.map f)) k = (findActor aid l k).map fun p => (p.1, f p.2) := by
  induction l generalizing k with
  | nil => rfl
  | cons o t ih =>
    cases o with
    | none => exact ih (k + 1)
    | some a =>
      simp only [List.map_cons, Option.map_some, findActor, hf]
      split
      · rfl
      · exact ih (k + 1)

theorem findActor_aid {aid : BitVec 24} {l : List (Option Actor)} {k : Nat} {p : Nat × Actor} (h : findActor aid l k = some p) :
    p.2.aid = aid := by
  induction l generalizing k with
  | nil => cases h
  | cons o t ih =>
    cases o with
    | none => exact ih h
    | some a =>
      simp only [findActor] at h
      split at h
      · rename_i ha; cases h; exact ha
      · exact ih h

/-- A resident actor is found under its own id. -/
theorem Core.actor_aid {c : Core} {aid : BitVec 24} {a : Actor} (h : c.actor aid = some a) : a.aid = aid := by
  obtain ⟨p, hp, rfl⟩ := Option.map_eq_some_iff.1 h
  exact findActor_aid hp

/-- An actor found after the resident actors of an id are changed. -/
theorem Core.actor_mapActor (c : Core) (aid id : BitVec 24) (f : Actor → Actor) (hf : ∀ a, (f a).aid = a.aid) :
    (c.mapActor id f).actor aid = (c.actor aid).map fun a => if a.aid = id then f a else a := by
  have h : ∀ a : Actor, (if a.aid = id then f a else a).aid = a.aid := fun a => by split <;> simp [hf]
  have := findActor_map (f := fun a => if a.aid = id then f a else a) h aid c.actors 0
  simp only [Core.actor, Core.mapActor]
  rw [this]
  cases findActor aid c.actors 0 <;> rfl

/-! ### Containment -/

/-- What an activation's end leaves with its actor (R32). -/
theorem Core.actor_saveActor {c : Core} {a : Actor} (h : c.actor c.regs.aid = some a) (ctr : Word) :
    (c.saveActor ctr).actor c.regs.aid = some { a with seed := c.regs.srseed, stream := c.regs.srstream, ctr := ctr } := by
  have hs := Core.actor_mapActor c c.regs.aid c.regs.aid
    (fun b => { b with seed := c.regs.srseed, stream := c.regs.srstream, ctr := ctr }) fun _ => rfl
  rw [h] at hs
  rw [Core.saveActor, hs]
  simp [Core.actor_aid h]

theorem containRetry_killed {a : Activation} {s : State} (h : s.core.kills ≠ []) : containRetry a s = s.endActivation := by
  simp [containRetry, h]

theorem containRetry_core {a : Activation} {s : State} (h : s.core.kills = []) :
    (containRetry a s).core
      = { (s.vacate a.ctr0).core with retry := some { a with retries := a.retries + 1, arrived := none, rbar := [] } } := by
  simp [containRetry, h]

/-- The policy at the own level of a launch with fields is that of its last field. -/
theorem ownPolicy_of_fields {l : Launch} {k : Nat} (h : l.hdr.n = k + 1) : ownPolicy l = l.hdr.pol.getD k 0 := by
  simp [ownPolicy, h]

/-- Policies that all pass a fault up abort the launch. -/
theorem containFrom_passUp (slot : BitVec 12) (a : Activation) (h : Header) (s : State) (n : Nat) (hp : ∀ k < n, h.pol.getD k 0 = 3) :
    containFrom slot a h n s = abortLaunch slot s := by
  induction n with
  | zero => rfl
  | succ k ih =>
    rw [containFrom, hp k (Nat.lt_succ_self k)]
    exact ih fun j hj => hp j (Nat.lt_succ_of_lt hj)

/-- Containment of an activation of a live launch begins at the launch's own level. -/
theorem contain_eq {a : Activation} {l : Launch} {s : State} (ha : s.core.act = some a) (hl : s.pkg.launch a.slot = some l) :
    contain s = containFrom a.slot a l.hdr l.hdr.n s := by
  simp [contain, ha, hl]

/-- Settles O7: the policy at the own level decides, and levels that pass up come to the launch's report. -/
theorem containmentFollowsThePolicy : Obligations.ContainmentFollowsThePolicy := by
  unfold Obligations.ContainmentFollowsThePolicy
  intro a l s ha hl hn
  rw [contain_eq ha hl]
  obtain ⟨k, hk⟩ : ∃ k, l.hdr.n = k + 1 := ⟨l.hdr.n - 1, by omega⟩
  have hstep : containFrom a.slot a l.hdr l.hdr.n s = containFrom a.slot a l.hdr (k + 1) s := by rw [hk]
  rw [ownPolicy_of_fields hk]
  have hretry : l.hdr.pol.getD k 0 = 1 → retrySafe a l.hdr = true →
      containFrom a.slot a l.hdr l.hdr.n s = containRetry a s := fun hp hs => by
    rw [hstep, containFrom, hp]; simp [hs]
  refine ⟨fun hp => ?ignore, fun hp hs hk => ?retry, fun hp hs hk => ?killed, fun hp => ?kill, fun hp => containFrom_passUp _ _ _ _ _ hp⟩
  case ignore => rw [hstep, containFrom, hp]; rfl
  case kill => rw [hstep, containFrom, hp, containKill, hk]; rfl
  case killed => rw [hretry hp hs, containRetry_killed hk]
  case retry =>
    rw [hretry hp hs, containRetry_core hk]
    exact ⟨rfl, rfl, fun b hb => Core.actor_saveActor hb a.ctr0⟩

end Sys2Proof.Machine
end

section
/-!
SUPPORT. What the bookkeeping of actors leaves alone: registers, storage, commands, queues of records. An activation's end and a kill go
through it (02_execution.md R25, R51; 16_scan.md R271).
-/
namespace Sys2Proof.Machine

/-! ### The bookkeeping of actors -/

/-- A core without what speaks of its resident actors: their places, the room list with its notices, and the matrix unit's owner. -/
def Core.sansActors (c : Core) : Core := { c with actors := [], room := [], notices := [], mac := {} }

/-- t is s but for the bookkeeping of actors: cores stand but for it, the grove but for its sweep regions, and device memory. -/
structure ActorsOnly (s t : State) : Prop where
  core : t.core.sansActors = s.core.sansActors
  peers : t.peers.map Core.sansActors = s.peers.map Core.sansActors
  grove : ∃ w, t.grove = { s.grove with sweeps := w }
  dmem : t.pkg.dmem = s.pkg.dmem

theorem ActorsOnly.refl (s : State) : ActorsOnly s s := ⟨rfl, rfl, ⟨_, rfl⟩, rfl⟩

theorem ActorsOnly.trans {s t u : State} (h : ActorsOnly s t) (g : ActorsOnly t u) : ActorsOnly s u := by
  obtain ⟨v, hv⟩ := h.grove
  obtain ⟨w, hw⟩ := g.grove
  exact ⟨g.core.trans h.core, g.peers.trans h.peers, ⟨w, by rw [hw, hv]⟩, g.dmem.trans h.dmem⟩

/-- A fold of steps that touch the bookkeeping alone. -/
theorem ActorsOnly.foldl {α : Type} {f : State → α → State} (hf : ∀ s a, ActorsOnly s (f s a)) (l : List α) (s : State) :
    ActorsOnly s (l.foldl f s) := by
  induction l generalizing s with
  | nil => exact .refl s
  | cons a t ih => exact (hf s a).trans (ih (f s a))

section
variable {s t : State} (h : ActorsOnly s t)
include h

/-- What a core keeps beside its actors stands. -/
theorem ActorsOnly.field {α : Type} (f : Core → α) (hf : ∀ c, f c.sansActors = f c) : f t.core = f s.core := by
  rw [← hf t.core, h.core, hf]

theorem ActorsOnly.peersField {α : Type} (f : Core → α) (hf : ∀ c, f c.sansActors = f c) : t.peers.map f = s.peers.map f := by
  have hm : ∀ l : List Core, l.map f = (l.map Core.sansActors).map f := fun l => by simp [hf]
  rw [hm, h.peers, ← hm]

theorem ActorsOnly.regs : t.core.regs = s.core.regs := h.field Core.regs fun _ => rfl
theorem ActorsOnly.act : t.core.act = s.core.act := h.field Core.act fun _ => rfl
theorem ActorsOnly.kills : t.core.kills = s.core.kills := h.field Core.kills fun _ => rfl
theorem ActorsOnly.retry : t.core.retry = s.core.retry := h.field Core.retry fun _ => rfl
theorem ActorsOnly.scratch : t.core.scratch = s.core.scratch := h.field Core.scratch fun _ => rfl
theorem ActorsOnly.overflow : t.grove.overflow = s.grove.overflow := by obtain ⟨w, hw⟩ := h.grove; rw [hw]
theorem ActorsOnly.reqs : t.grove.reqs = s.grove.reqs := by obtain ⟨w, hw⟩ := h.grove; rw [hw]
theorem ActorsOnly.deques : t.grove.deques = s.grove.deques := by obtain ⟨w, hw⟩ := h.grove; rw [hw]

end

theorem Core.notify_sansActors (c : Core) (aid : BitVec 24) (src : Source) : (c.notify aid src).sansActors = c.sansActors := by
  unfold Core.notify; split <;> rfl

theorem Core.headAdvance_sansActors (c : Core) (aid : BitVec 24) : (c.headAdvance aid).sansActors = c.sansActors := by
  unfold Core.headAdvance
  split
  · rfl
  · simp only
    split
    · rfl
    · split
      · exact Core.notify_sansActors _ _ _
      · rfl

theorem Core.dispose_sansActors (c : Core) (aid : BitVec 24) (off : Nat) : (c.dispose aid off).sansActors = c.sansActors :=
  Core.headAdvance_sansActors _ _

theorem Core.removeActor_sansActors (c : Core) (aid : BitVec 24) : (c.removeActor aid).sansActors = c.sansActors := by
  have h : ∀ (l : List Listing) (d : Core), (l.foldl (fun c l => c.notify aid l.src) d).sansActors = d.sansActors := by
    intro l
    induction l with
    | nil => exact fun _ => rfl
    | cons x t ih => exact fun d => (ih _).trans (Core.notify_sansActors _ _ _)
  exact h _ _

/-- Every core changed in its bookkeeping. -/
theorem ActorsOnly.mapCores {f : Core → Core} (hf : ∀ c, (f c).sansActors = c.sansActors) (s : State) : ActorsOnly s (s.mapCores f) :=
  ⟨hf _, by simp [State.mapCores, hf], ⟨_, rfl⟩, rfl⟩

theorem ActorsOnly.mapCore {f : Core → Core} (s : State) (hf : (f s.core).sansActors = s.core.sansActors) : ActorsOnly s (s.mapCore f) :=
  ⟨hf, rfl, ⟨_, rfl⟩, rfl⟩

/-- The package changed but for device memory. -/
theorem ActorsOnly.mapPkg {p : Pkg} (s : State) (h : p.dmem = s.pkg.dmem) : ActorsOnly s { s with pkg := p } := ⟨rfl, rfl, ⟨_, rfl⟩, h⟩

theorem ActorsOnly.mapAnyActor (s : State) (aid : BitVec 24) (f : Actor → Actor) : ActorsOnly s (s.mapAnyActor aid f) :=
  (ActorsOnly.mapCores (f := fun c => c.mapActor aid f) (fun _ => rfl) s).trans (.mapPkg _ rfl)

theorem ActorsOnly.freeSweeps (s : State) (p : Sweep → Bool) : ActorsOnly s (s.freeSweeps p) := ⟨rfl, rfl, ⟨_, rfl⟩, rfl⟩

theorem ActorsOnly.sendFrom (s : State) (slot : BitVec 12) (wid ch : Nat) (c : Carry) : ActorsOnly s (s.sendFrom slot wid ch c) := by
  unfold State.sendFrom
  split
  · exact .mapAnyActor _ _ _
  · exact .mapPkg s rfl
  · exact .refl s
  · exact .refl s

theorem ActorsOnly.reroute (s : State) : ActorsOnly s s.reroute :=
  ActorsOnly.trans (t := { s with pkg := { s.pkg with strays := s.pkg.strays.filter fun x => !s.passes x.slot x.wid } }) (.mapPkg s rfl)
    (.foldl (fun t _ => .sendFrom t _ _ _ _) _ _)

theorem ActorsOnly.passOn (s : State) (aid : BitVec 24) : ActorsOnly s (s.passOn aid) := by
  unfold State.passOn
  split
  · exact .foldl (fun t _ => .foldl (fun u _ => .sendFrom u _ _ _ _) _ t) _ s
  · exact .refl s

theorem ActorsOnly.destroy (s : State) (aid : BitVec 24) : ActorsOnly s (s.destroy aid) :=
  (ActorsOnly.passOn s aid).trans
    ((ActorsOnly.mapCores (fun c => Core.removeActor_sansActors c aid) _).trans ((ActorsOnly.freeSweeps _ _).trans (.mapPkg _ rfl)))

theorem ActorsOnly.doom (s : State) (aid : BitVec 24) : ActorsOnly s (s.doom aid) := by
  unfold State.doom
  split
  · exact .mapCores (f := fun c => c.mapActor aid _) (fun _ => rfl) s
  · exact .destroy s aid

/-! ### The end of an activation (R25) -/

/-- A core whose activation is over. -/
def Core.vacated (c : Core) : Core :=
  { c with
    act := none, await := none, hold := false, pause := 0, ganged := false, halted := false, deferred := c.mgmtTraps, kills := []
    dbg := { c.dbg with pass := false } }

theorem ActorsOnly.vacate (s : State) (ctr : Word) : ActorsOnly (s.mapCore Core.vacated) (s.vacate ctr) := ⟨rfl, rfl, ⟨_, rfl⟩, rfl⟩

/-- The end of an activation frees its core; the rest is bookkeeping. -/
theorem ActorsOnly.endActivation {s : State} {a : Activation} (ha : s.core.act = some a) :
    ActorsOnly (s.mapCore fun c => { c.vacated with preempt := false }) s.endActivation := by
  have h : ActorsOnly (s.mapCore fun c => { c.vacated with preempt := false })
      ((s.vacate s.core.regs.srctr).mapCore fun c => { c with preempt := false }) := ⟨rfl, rfl, ⟨_, rfl⟩, rfl⟩
  simp only [State.endActivation, ha]
  split
  · exact h
  · rename_i aid off _
    refine h.trans (.trans (.mapCore (f := fun c => c.dispose aid off) _ (Core.dispose_sansActors _ _ _)) ?_)
    split
    · split
      · exact .destroy _ _
      · exact .refl _
    · exact .refl _

section
variable {s : State} {a : Activation} (ha : s.core.act = some a)
include ha

theorem State.endActivation_act : s.endActivation.core.act = none := (ActorsOnly.endActivation ha).act
theorem State.endActivation_regs : s.endActivation.core.regs = s.core.regs := (ActorsOnly.endActivation ha).regs
end

/-! ### Kills (R51) -/

/-- What a kill does to a core: a re-run that is due goes, and a running activation has the kill due. -/
def Core.killed (k : KillReq) (c : Core) : Core :=
  if killRetry k c then { c with retry := none, preempt := false } else { c with kills := if killRuns k c then c.kills ++ [k] else c.kills }

/-- What a kill does beside the bookkeeping of actors. -/
def State.killed (k : KillReq) (s : State) : State :=
  { s.mapCores (Core.killed k) with
    grove := { s.grove with
      deques := s.grove.deques.map fun l => l.flatMap (killQueued k)
      overflow := s.grove.overflow.flatMap (killQueued k) } }

theorem Core.killed_act (k : KillReq) (c : Core) : (c.killed k).act = c.act := by unfold Core.killed; split <;> rfl
theorem Core.killed_regs (k : KillReq) (c : Core) : (c.killed k).regs = c.regs := by unfold Core.killed; split <;> rfl

theorem ActorsOnly.kill (k : KillReq) (s : State) : ActorsOnly (s.killed k) (s.kill k) := by
  have hdoom : ∀ l : List (BitVec 24), ActorsOnly (s.mapCores (Core.killed k)) (l.foldl (fun s a => s.doom a) (s.mapCores (Core.killed k))) :=
    fun l => .foldl (fun t a => .doom t a) l _
  have hqueues : ∀ {u v : State} {p : Pkg}, ActorsOnly u v → p.dmem = v.pkg.dmem →
      ActorsOnly
        { u with grove := { u.grove with
            deques := u.grove.deques.map fun l => l.flatMap (killQueued k), overflow := u.grove.overflow.flatMap (killQueued k) } }
        { v with
          grove := { v.grove with
            deques := v.grove.deques.map fun l => l.flatMap (killQueued k), overflow := v.grove.overflow.flatMap (killQueued k) }
          pkg := p } := fun {u v p} h hp => by
    obtain ⟨w, hw⟩ := h.grove
    exact ⟨h.core, h.peers, ⟨w, by simp only [hw]⟩, hp.trans h.dmem⟩
  simp only [State.kill, reapSweeps]
  refine ActorsOnly.trans ?_ (.reroute _)
  refine ActorsOnly.trans ?_ (.freeSweeps _ _)
  exact hqueues (hdoom _) rfl

theorem State.kill_act (k : KillReq) (s : State) : (s.kill k).core.act = s.core.act := (ActorsOnly.kill k s).act.trans (Core.killed_act k _)
theorem State.kill_regs (k : KillReq) (s : State) : (s.kill k).core.regs = s.core.regs := (ActorsOnly.kill k s).regs.trans (Core.killed_regs k _)

end Sys2Proof.Machine
end

section
/-!
SUPPORT. FORK: the record pushed, the join word's place, and what the marks of an issue leave alone (02_execution.md R42, R44;
08_scalar.md R145).
-/
namespace Sys2Proof.Machine

/-! ### The marks of an issue -/

/-- What holds of the effect on one state holds of the effect on another that stands alike. -/
theorem After.congr {n : Nat} {t u w : State} (h : After n t w) (hr : t.core.regs = u.core.regs) (hb : t.beside = u.beside) : After n u w :=
  ⟨by rw [h.regs, hr], by rw [h.beside, hb]⟩

theorem State.pushedRec_beside (s : State) (r : TaskRec) : (s.pushedRec r).beside = s.beside.pushedRec r := by
  have h : s.beside.grove.deques[s.beside.core.ix] = s.grove.deques[s.core.ix] := rfl
  unfold State.pushedRec
  rw [h]
  split <;> rfl

theorem State.pushedRec_core (s : State) (r : TaskRec) : (s.pushedRec r).core = s.core := by unfold State.pushedRec; split <;> rfl

/-! ### Records pushed (R44) -/

theorem newTask_eq {s : State} {a : Activation} (h : s.core.act = some a) (pc join : Word) : newTask s.core pc join = newRecord s a pc join := by
  simp [newTask, newRecord, h]

theorem pushTask_room {s : State} (h : s.recRoom) (r : TaskRec) : pushTask s r = some (s.pushedRec r) := by
  by_cases hd : s.grove.deques[s.core.ix].length < 256
  · simp only [pushTask, State.pushedRec, if_pos hd]
  · simp only [pushTask, State.pushedRec, if_neg hd, if_pos (h.resolve_left hd)]

theorem pushTask_full {s : State} (h : ¬s.recRoom) (r : TaskRec) : pushTask s r = none := by
  obtain ⟨hd, ho⟩ := not_or.1 h
  simp only [pushTask, if_neg hd, if_neg ho]

/-! ### Join words (R42, R140) -/

theorem joinFault_eq_false {j : Word} : joinFault j = false ↔ joinWordOk j := by
  unfold joinFault joinWordOk
  by_cases h1 : bitsOf j.toNat 60 4 = 1 <;> simp [h1]

theorem joinFault_eq_true {j : Word} : joinFault j = true ↔ ¬joinWordOk j := by
  rw [← joinFault_eq_false, Bool.not_eq_false]

theorem wordTarget_eq {n : Nat} (pc : Word) (off : BitVec n) : wordTarget pc off.toInt = pc + off.signExtend 64 * 4 := by
  rw [wordTarget, Int.mul_comm]; congr 1; exact wordOfInt_mul off 4

/-! ### Translation changes nothing of the cores -/

/-- The activation counts aside, reading table entries changes nothing. -/
theorem State.walked_eq (s : State) (va : Nat) : ∃ l, s.walked va = s.counting l := by
  have h : ∀ (as : List Nat) (t : State), (∃ l, t = s.counting l) → ∃ l, as.foldl (fun t a => t.activate a 8) t = s.counting l := by
    intro as
    induction as with
    | nil => exact fun t ht => ht
    | cons a as ih => rintro t ⟨l, rfl⟩; exact ih _ ⟨_, rfl⟩
  exact h _ s ⟨s.pkg.acts, rfl⟩

/-- A translation uses the cache and counts activations. -/
theorem State.translate_eq {s u : State} {r : Right} {va pa : Nat} (h : s.translate r va = some (pa, u)) :
    ∃ l e, u = (s.counting l).useTlb e := by
  unfold State.translate at h
  split at h
  · rename_i e _
    split at h <;> cases h
    exact ⟨s.pkg.acts, e, rfl⟩
  · split at h
    · rename_i e _
      split at h <;> cases h
      obtain ⟨l, hl⟩ := s.walked_eq va
      exact ⟨l, e, by rw [hl]⟩
    · cases h

theorem State.translate_core {s u : State} {r : Right} {va pa : Nat} (h : s.translate r va = some (pa, u)) : u.core = s.core := by
  obtain ⟨l, e, rfl⟩ := State.translate_eq h; rfl

section
variable {f : Core → Core} (hn : ∀ c, (f c).tenant = c.tenant) (hr : ∀ c, (f c).troot = c.troot) (s : State) (va : Nat)
include hr

theorem State.walked_mapCore : (s.mapCore f).walked va = (s.walked va).mapCore f := by
  have h : ∀ (as : List Nat) (t : State), as.foldl (fun t a => t.activate a 8) (t.mapCore f) = (as.foldl (fun t a => t.activate a 8) t).mapCore f := by
    intro as
    induction as with
    | nil => exact fun t => rfl
    | cons a as ih => exact fun t => ih (t.activate a 8)
  simp only [State.walked, State.mapCore_core, State.mapCore_pkg, hr]
  exact h _ s

theorem State.tableLost_mapCore : (s.mapCore f).tableLost va = s.tableLost va := by
  simp only [State.tableLost, State.mapCore_core, State.mapCore_pkg, hr]

include hn

theorem State.walk_mapCore : (s.mapCore f).walk va = s.walk va := by
  simp only [State.walk, State.tableLost_mapCore hr, State.mapCore_core, State.mapCore_pkg, hr, hn]

/-- A translation does not look at what a core keeps beside its tenant and the root of its tables. -/
theorem State.translate_mapCore (r : Right) :
    (s.mapCore f).translate r va = (s.translate r va).map fun p => (p.1, p.2.mapCore f) := by
  simp only [State.translate, State.walk_mapCore hn hr, State.walked_mapCore hr, State.mapCore_core, State.mapCore_grove, State.mapCore_pkg, hn]
  cases tlbFind s.grove.tlb s.core.tenant va with
  | some e => simp only; split <;> rfl
  | none =>
    cases s.walk va with
    | some e => simp only; split <;> rfl
    | none => rfl

end

/-- The marks of an issue change no translation. -/
theorem State.translate_noted {s : State} (hg : s.core.ganged = false) (r : Right) (va : Nat) :
    s.noted.translate r va = (s.translate r va).map fun p => (p.1, p.2.mapCore fun c => c.note c.pcConds []) := by
  rw [State.noted_alone hg]
  exact State.translate_mapCore (f := fun c => c.note c.pcConds []) (fun _ => rfl) (fun _ => rfl) s va r

/-- A part that leaves activation counts alone leaves them. -/
theorem State.marksOf_counting (s : State) (l : List (Nat × Nat)) : s.marksOf (s.counting l) = s.counting l := by
  simp [State.marksOf, State.counting, Core.marksOf_self]

theorem State.missed_counting (s : State) (va : Nat) : ∃ l, s.missed va = s.counting l := by
  unfold State.missed
  split
  · exact s.walked_eq va
  · exact ⟨s.pkg.acts, rfl⟩

/-- An instruction whose meaning traps on a failed translation keeps the activations of the walk. -/
theorem issue_trapMissed {u : Iss} {m : State → R} {s : State} {c : Cause} {v : Word} {va : Nat} (hok : u.ok = true)
    (hr : Issues u.g u.wait s) (hm : m s.noted = .trap (s.noted.missed va) c v) :
    issue u m s = .next ((s.noted.missed va).trapNow c v) := by
  obtain ⟨l, hl⟩ := s.noted.missed_counting va
  rw [issue_executes hok hr, hm, conclude_trapRead, hl, State.marksOf_counting]

theorem missCause_of_sound {s : State} {va : Nat} (h : s.tableLost va = false) : s.missCause va = .xfault := by
  simp [State.missCause, h]

/-! ### The place of a join word (R42, R140) -/

theorem joinPlace_none {s : State} {j : Word} (h : placeOf s j = none) : joinPlace s j = .error .aspace := by
  simp only [joinPlace, h]

theorem joinPlace_actor {s : State} {j : Word} {pk : Option Nat} {aid : BitVec 24} {off : Nat} (h : placeOf s j = some (.actor pk aid off)) :
    joinPlace s j = .ok (.actor pk aid off, 0, s) := by
  simp only [joinPlace, h]

theorem joinPlace_inter {s u : State} {j : Word} {va pa : Nat} (h : placeOf s j = some (.inter va))
    (ht : s.translate .write va = some (pa, u)) : joinPlace s j = .ok (.inter va, pa, u) := by
  simp only [joinPlace, h, ht]

theorem joinPlace_miss {s : State} {j : Word} {va : Nat} (h : placeOf s j = some (.inter va)) (ht : s.translate .write va = none) :
    joinPlace s j = .error (s.missCause va) := by
  simp only [joinPlace, h, ht]

/-- The view of an address is that of the state as an instruction finds it. -/
theorem placeOf_noted {s : State} (hg : s.core.ganged = false) (j : Word) : placeOf s.noted j = placeOf s j := by
  rw [State.noted_alone hg]; rfl

/-! ### FORK (R145) -/

/-! The cases of FORK outside a gang and outside carried code, by its join word and the room for its record. -/
section
variable {x : FkF} {s : State} {a : Activation} (hg : s.core.ganged = false) (ha : s.core.act = some a) (hc : a.carried = none)
include hg ha hc

theorem fork_alone :
    fork x s
      = (if s.rs x.a ≠ 0 ∧ joinFault (s.rs x.a) = true then .trap s .jaddr (s.rs x.a)
         else if s.rs x.a = 0 then
           match pushTask s (newRecord s a (wordTarget s.core.regs.pc x.off.toInt) (s.rs x.a)) with
           | none => .trap s .dqfull 0
           | some u => .done u
         else if (pushTask s (newRecord s a (wordTarget s.core.regs.pc x.off.toInt) (s.rs x.a))).isNone then .trap s .dqfull 0
         else
           match joinPlace s (s.rs x.a) with
           | .error e => .trap (s.missedAt (s.rs x.a)) e (s.rs x.a)
           | .ok (pl, pa, u) =>
             let v := u.plusPost (forkAdd u (s.near pl) (s.rs x.a) (normal pl (s.rs x.a)) pa)
             match pushTask v (newTask v.core (wordTarget s.core.regs.pc x.off.toInt) (s.rs x.a)) with
             | none => .trap s .dqfull 0
             | some w => .done w) := by
  have hcar : (s.core.act.bind fun b => b.carried) = none := by rw [ha]; exact hc
  simp only [fork, hg, hcar, Bool.false_eq_true, if_false, Option.isSome_none, newTask_eq ha]
  rfl

theorem fork_detached (hj : s.rs x.a = 0) (hroom : s.recRoom) :
    fork x s = .done (s.pushedRec (newRecord s a (wordTarget s.core.regs.pc x.off.toInt) 0)) := by
  rw [fork_alone hg ha hc, hj, if_neg (fun h => h.1 rfl), if_pos rfl, pushTask_room hroom]

theorem fork_full (hj : s.rs x.a = 0 ∨ joinFault (s.rs x.a) = false) (hroom : ¬s.recRoom) : fork x s = .trap s .dqfull 0 := by
  have h1 : ¬(s.rs x.a ≠ 0 ∧ joinFault (s.rs x.a) = true) := fun ⟨h0, hf⟩ => by simp [hj.resolve_left h0] at hf
  rw [fork_alone hg ha hc, if_neg h1, pushTask_full hroom]
  simp

theorem fork_jaddr (h0 : s.rs x.a ≠ 0) (hj : joinFault (s.rs x.a) = true) : fork x s = .trap s .jaddr (s.rs x.a) := by
  rw [fork_alone hg ha hc, if_pos ⟨h0, hj⟩]

theorem fork_unplaced {e : Cause} (h0 : s.rs x.a ≠ 0) (hj : joinFault (s.rs x.a) = false) (hroom : s.recRoom)
    (hp : joinPlace s (s.rs x.a) = .error e) : fork x s = .trap (s.missedAt (s.rs x.a)) e (s.rs x.a) := by
  rw [fork_alone hg ha hc, if_neg (by simp [hj]), if_neg h0, pushTask_room hroom, hp]
  rfl

theorem fork_joined {pl : Place} {pa : Nat} {u : State} (h0 : s.rs x.a ≠ 0) (hj : joinFault (s.rs x.a) = false) (hroom : s.recRoom)
    (hp : joinPlace s (s.rs x.a) = .ok (pl, pa, u)) (hu : u.core.act = some a) (hroom' : u.recRoom) :
    fork x s
      = (let v := u.plusPost (forkAdd u (s.near pl) (s.rs x.a) (normal pl (s.rs x.a)) pa)
         .done (v.pushedRec (newRecord v a (wordTarget s.core.regs.pc x.off.toInt) (s.rs x.a)))) := by
  rw [fork_alone hg ha hc, if_neg (by simp [hj]), if_neg h0, pushTask_room hroom, hp]
  have hv : (u.plusPost (forkAdd u (s.near pl) (s.rs x.a) (normal pl (s.rs x.a)) pa)).recRoom := hroom'
  have hav : (u.plusPost (forkAdd u (s.near pl) (s.rs x.a) (normal pl (s.rs x.a)) pa)).core.act = some a := hu
  simp only [pushTask_room hv, newTask_eq hav]
  rfl

end

theorem exec_fork (x : FkF) (s : State) : exec (.fork x) s = execFork x s := rfl

/-- Settles the first part of O19: FORK by its join word and the room for its record. -/
theorem forkPushesARecord : Sys2Proof.Claims.ForkPushesARecord := by
  intro x s a hwf hr ha hc j arm
  have hg := hr.alone
  have hgn : s.noted.core.ganged = false := (State.noted_ganged s).trans hg
  have hmn : s.noted.core.mgmt = false := (State.noted_mgmt s).trans hr.activation
  have han : s.noted.core.act = some a := (State.noted_act s).trans ha
  have hjn : s.noted.rs x.a = j := by rw [State.rs, State.noted_regs]
  have harm : wordTarget s.noted.core.regs.pc x.off.toInt = arm := by rw [State.noted_regs]; exact wordTarget_eq _ _
  have hroom : s.noted.recRoom ↔ s.recRoom := by rw [State.noted_alone hg]; exact Iff.rfl
  have hplace : placeOf s.noted j = placeOf s j := placeOf_noted hg j
  have hnote : s.noted = s.mapCore fun c => c.note c.pcConds [] := State.noted_alone hg
  have hsame : Untouched s.noted s.noted := ⟨rfl, rfl, rfl, rfl, rfl, rfl⟩
  have hfork : exec (.fork x) s = issue (Iss.of (.fork x) x.h.g [x.a, 1, 2, 3, 4, 5]) (fork x) s := by
    simp [exec_fork, execFork, hg]
  rw [hfork]
  refine ⟨?detached, ?joined, ?jaddr, ?full, ?aspace, ?xfault⟩
  case detached =>
    intro hrm hj0
    have hm := fork_detached (x := x) hgn han hc (hjn.trans hj0) (hroom.2 hrm)
    obtain ⟨t, ht, hA⟩ := issue_after (u := Iss.of (.fork x) x.h.g [x.a, 1, 2, 3, 4, 5]) hwf hr hm
      (by rw [State.pushedRec_core]; exact hgn) (by rw [State.pushedRec_core]; exact hmn)
    refine ⟨t, ht, hA.congr ?_ ?_⟩
    · rw [State.pushedRec_core, State.pushedRec_core, State.noted_regs]
    · rw [State.pushedRec_beside, State.pushedRec_beside, State.noted_beside hg, harm, hnote]; rfl
  case joined =>
    intro hrm hj0 hok pl pa u hpl v
    have hu : u.core = s.core := by
      rcases hpl with ⟨va, _, _, ht⟩ | ⟨_, _, rfl⟩
      · exact State.translate_core ht
      · rfl
    have hur : u.recRoom ↔ s.recRoom := by
      rcases hpl with ⟨va, _, _, ht⟩ | ⟨_, _, rfl⟩
      · obtain ⟨l, e, rfl⟩ := State.translate_eq ht; exact Iff.rfl
      · exact Iff.rfl
    have hnear : s.noted.near pl = u.near pl := by
      rcases hpl with ⟨va, _, rfl, _⟩ | ⟨_, _, rfl⟩
      · rfl
      · rw [hnote]; rfl
    let un := u.mapCore fun c => c.note c.pcConds []
    have hp : joinPlace s.noted (s.noted.rs x.a) = .ok (pl, pa, un) := by
      rw [hjn]
      rcases hpl with ⟨va, hpv, rfl, ht⟩ | ⟨⟨pk, aid, off, hpv, rfl⟩, rfl, rfl⟩
      · exact joinPlace_inter (hplace.trans hpv) (by rw [State.translate_noted hg, ht]; rfl)
      · rw [joinPlace_actor (hplace.trans hpv), hnote]
    have hm := fork_joined (x := x) hgn han hc (by rw [hjn]; exact hj0) (by rw [hjn]; exact joinFault_eq_false.2 hok) (hroom.2 hrm) hp
      (by simp [un, Core.note, hu, ha]) (hur.2 hrm)
    obtain ⟨t, ht, hA⟩ := issue_after (u := Iss.of (.fork x) x.h.g [x.a, 1, 2, 3, 4, 5]) hwf hr hm
      (by rw [State.pushedRec_core]; simp [State.plusPost, un, Core.note, hu, hg])
      (by rw [State.pushedRec_core]; simp [State.plusPost, un, Core.note, hu, hr.activation])
    refine ⟨t, ht, hA.congr ?_ ?_⟩
    · rw [State.pushedRec_core, State.pushedRec_core]; rfl
    · have hadd : forkAdd un (u.near pl) j (normal pl j) pa = forkAdd s (u.near pl) j (normal pl j) pa := by
        simp only [forkAdd, un, State.mapCore_core, Core.note, hu]
      rw [State.pushedRec_beside, State.pushedRec_beside, hjn, harm, hnear, hadd]; rfl
  case jaddr =>
    intro hj0 hok
    have hm := fork_jaddr (x := x) hgn han hc (by rw [hjn]; exact hj0) (by rw [hjn]; exact joinFault_eq_true.2 hok)
    rw [hjn] at hm
    exact issue_trap hwf hr.toIssues hm hsame
  case full =>
    intro hj hrm
    refine issue_trap hwf hr.toIssues (fork_full (x := x) hgn han hc ?_ (mt hroom.1 hrm)) hsame
    rw [hjn]; exact hj.imp_right joinFault_eq_false.2
  case aspace =>
    intro hrm hj0 hok hp
    have hm := fork_unplaced (x := x) (e := .aspace) hgn han hc (by rw [hjn]; exact hj0) (by rw [hjn]; exact joinFault_eq_false.2 hok)
      (hroom.2 hrm) (by rw [hjn]; exact joinPlace_none (hplace.trans hp))
    rw [hjn, State.missedAt, hplace, hp] at hm
    exact issue_trap hwf hr.toIssues hm hsame
  case xfault =>
    intro hrm hj0 hok va hp ht hl
    have hln : s.noted.missCause va = .xfault := missCause_of_sound (by rw [hnote]; exact hl)
    have hm := fork_unplaced (x := x) (e := .xfault) hgn han hc (by rw [hjn]; exact hj0) (by rw [hjn]; exact joinFault_eq_false.2 hok)
      (hroom.2 hrm) (by rw [hjn, joinPlace_miss (hplace.trans hp) (by rw [State.translate_noted hg, ht]; rfl), hln])
    rw [hjn, State.missedAt, hplace, hp] at hm
    exact issue_trapMissed hwf hr.toIssues hm

end Sys2Proof.Machine
end

section
/-!
SUPPORT. JOIN: its word performed at a member or in device memory, and what its old value decides (08_scalar.md R146).
-/
namespace Sys2Proof.Machine

/-! ### A member changed -/

/-- What two states have alike of their cores, they have alike of each member. -/
theorem focus_field {α : Type} (f : Core → α) {s t : State} (h0 : f t.core = f s.core) (h : t.peers.map f = s.peers.map f) (k : Nat) :
    f (focus k t).core = f (focus k s).core := by
  cases k with
  | zero => exact h0
  | succ j =>
    have hj : (t.peers[j]?).map f = (s.peers[j]?).map f := by rw [← List.getElem?_map, ← List.getElem?_map, h]
    cases ht : t.peers[j]? <;> cases hs : s.peers[j]? <;> simp_all [focus]

theorem focus_pkg (k : Nat) (s : State) : (focus k s).pkg = s.pkg := by
  unfold focus; split
  · rfl
  · split <;> rfl

/-- A change of member k that keeps a part of it keeps that part of every core. -/
theorem focus_mapCore_field {α : Type} (f : Core → α) {g : Core → Core} (hg : ∀ c, f (g c) = f c) (k : Nat) (s : State) :
    f (focus k ((focus k s).mapCore g)).core = f s.core
      ∧ (focus k ((focus k s).mapCore g)).peers.map f = s.peers.map f := by
  cases k with
  | zero => exact ⟨hg _, rfl⟩
  | succ j =>
    cases hc : s.peers[j]? with
    | none => simp [focus, State.mapCore, hc, hg]
    | some c =>
      obtain ⟨h1, h2⟩ := List.getElem?_eq_some_iff.1 hc
      refine ⟨by simp [focus, State.mapCore, h1], ?_⟩
      simp only [focus, State.mapCore, hc, List.getElem?_set_self h1, List.set_set, List.map_set, hg]
      rw [← h2, ← List.getElem_map f (h := by simpa using h1)]
      exact List.set_getElem_self _

theorem State.respond_pkg (s : State) (pl : Place) (addr : Word) (pa : Nat) : (s.respond pl addr pa).pkg = s.pkg := rfl

/-! ### What is performed -/

/-- The value that an atomic of −1 writes. -/
theorem atomicOp_decrement (m : Nat) : (atomicOp (addArgs (-1)) m).1 = (BitVec.ofNat 64 m - 1 : Word).toNat := by
  have h : (atomicOp (addArgs (-1)) m).1 = (m + (2 ^ 64 - 1)) % 2 ^ 64 := rfl
  rw [h, BitVec.toNat_sub, BitVec.toNat_ofNat]
  simp only [show (1 : Word).toNat = 1 from rfl]
  omega

/-- A member without watchpoints and with sound storage writes its bytes. -/
theorem State.writeAt_calm {s : State} {k : Nat} (h : (focus k s).core.calm) (p : Nat) (bs : List Byte) (kind : Nat) (src : Source) :
    s.writeAt k p bs kind src = focus k ((focus k s).mapCore fun c => { c with scratch := c.scratch.writeN p bs }) := by
  have hw : ((focus k s).mapCore fun c => c.writeScratch p bs) = (focus k s).mapCore fun c => { c with scratch := c.scratch.writeN p bs } := by
    simp [State.mapCore, Core.writeScratch, Health.wrote_calm h.1]
  have hc : ((focus k s).mapCore fun c => { c with scratch := c.scratch.writeN p bs }).core.calm := h
  simp only [State.writeAt, hw, State.touched_calm hc]

/-- The decrement of a word at a resident actor's member. -/
theorem performAtomic_at {s : State} {pk : Option Nat} {aid : BitVec 24} {off k p : Nat} (hr : s.reach pk aid off 8 .atomic = .at_ k p)
    (hc : (focus k s).core.calm) (pa : Nat) (addr : Word) (src : Source) :
    performAtomic s (.actor pk aid off) pa addr (addArgs (-1)) src
      = { s := focus k ((focus k s).mapCore fun c => { c with scratch := c.scratch.writeN p (leBytes 8 ((focus k s).core.word p - 1).toNat) })
          flags := noFlags, old := leNat ((focus k s).core.readScratch p 8) } := by
  have hn : sizeOfTy (addArgs (-1)).ty.val = 8 := rfl
  simp only [performAtomic, hn, hr, State.touchStore_calm hc, State.writeAt_calm hc, atomicOp_decrement]
  rfl

/-- The decrement of a word of device memory. -/
theorem performAtomic_dev (s : State) (va pa : Nat) (addr : Word) (src : Source) :
    performAtomic s (.inter va) pa addr (addArgs (-1)) src
      = { s := s.writeDev pa (leBytes 8 (BitVec.ofNat 64 (leNat (s.pkg.dmem.readN pa 8)) - 1 : Word).toNat)
          flags := noFlags, old := leNat (s.pkg.dmem.readN pa 8) } := by
  have hn : sizeOfTy (addArgs (-1)).ty.val = 8 := rfl
  simp only [performAtomic, hn, atomicOp_decrement, Pkg.readMem]
  rfl

theorem atomicLost_at {s : State} {pk : Option Nat} {aid : BitVec 24} {off k p : Nat} (hr : s.reach pk aid off 8 .atomic = .at_ k p)
    (hc : (focus k s).core.calm) (pa : Nat) : atomicLost s (.actor pk aid off) pa 8 = false := by
  simp only [atomicLost, hr, Health.lostIn_calm hc.1]

theorem atomicLost_dev {s : State} (h : s.pkg.badUnits = []) (va pa n : Nat) : atomicLost s (.inter va) pa n = false := by
  simp [atomicLost, Pkg.memLost, h]

/-! ### Waiting for nothing -/

/-- With no access and no command on its way a returning atomic goes at once, but for the holding queue of its actor. -/
theorem atomicHeld_idle {s : State} {j : Word} (hp : s.core.posted = []) (hc : s.core.cmds = []) (hq : s.queueing j = false) (pa n : Nat) :
    s.atomicHeld j pa n = false := by
  simp [State.atomicHeld, State.queuedFor, State.readsBefore, mustPrecede, hp, hc, hq]

theorem Core.drained_idle {c : Core} (hp : c.posted = []) : c.drained = true := by simp [Core.drained, Core.waits, hp]

theorem Core.quiet_idle {c : Core} (hp : c.posted = []) (hc : c.cmds = []) : c.quiet = true := by
  simp [Core.quiet, hc, Core.drained_idle hp]

theorem queueing_inter {s : State} {j : Word} {va : Nat} (h : placeOf s j = some (.inter va)) : s.queueing j = false := by
  simp only [State.queueing, h]

/-! ### JOIN (R146) -/

/-- The word of JOIN's register, or of the record that the activation was started from. -/
theorem joinWord_eq {s : State} {a : Activation} {x : SReg} {j : Word} (ha : s.core.act = some a) (h1 : x ≠ 0 → j = s.core.regs.rs x)
    (h2 : x = 0 → ∀ r, a.src = .task r → j = r.join) (h3 : x = 0 → (∃ aid off, a.src = .message aid off) → j = 0) : joinWord s x = j := by
  unfold joinWord
  by_cases hx : x = 0
  · simp only [hx, ne_eq, not_true, if_false, ha]
    cases hs : a.src with
    | task r => exact (h2 hx r hs).symm
    | message aid off => exact (h3 hx ⟨aid, off, hs⟩).symm
  · rw [if_pos hx, h1 hx]; rfl

/-- The old value of a join word decides: its last count goes on, any other ends the activation. -/
theorem joined_quiet {s : State} (h : s.core.quiet = true) (old t : Word) (len : Nat) :
    joined s old t len = if old = 1 then .jump s t else .ended s.endActivation := by
  have h1 : old - 1 = 0 ↔ old = 1 := by constructor <;> intro h <;> bv_omega
  simp only [joined, h1, endOrWait, h, if_true]

/-! JOIN outside a gang and outside carried code, by its word's place. -/
section
variable {x : JnF} {len : Nat} {s : State} {a : Activation} {j : Word} (hg : s.core.ganged = false) (ha : s.core.act = some a)
  (hc : a.carried = none) (hj : joinWord s x.a = j)
include hg ha hc hj

theorem join_jaddr (hf : joinFault j = true) : join x len s = .trap s .jaddr j := by
  have hcar : (s.core.act.bind fun b => b.carried) = none := by rw [ha]; exact hc
  simp only [join, hg, hcar, hj, hf, Bool.false_eq_true, if_false, Option.isSome_none, if_true]

theorem join_undrained (hf : joinFault j = false) (hd : s.core.drained = false) : join x len s = .hold := by
  have hcar : (s.core.act.bind fun b => b.carried) = none := by rw [ha]; exact hc
  simp only [join, hg, hcar, hj, hf, hd, Bool.false_eq_true, if_false, Option.isSome_none, if_true]

variable (hf : joinFault j = false) (hp : s.core.posted = []) (hcm : s.core.cmds = [])
include hf hp hcm

theorem join_at {pk : Option Nat} {aid : BitVec 24} {off k p : Nat} (hq : s.queueing j = false) (hpl : placeOf s j = some (.actor pk aid off))
    (hr : s.reach pk aid off 8 .atomic = .at_ k p) (hcalm : (focus k s).core.calm) :
    join x len s
      = joined
          ((focus k ((focus k s).mapCore fun c => { c with scratch := c.scratch.writeN p (leBytes 8 ((focus k s).core.word p - 1).toNat) })).respond
            (.actor pk aid off) j 0)
          ((focus k s).core.word p) (wordTarget s.core.regs.pc x.off.toInt) len := by
  have hcar : (s.core.act.bind fun b => b.carried) = none := by rw [ha]; exact hc
  simp only [join, hg, hcar, hj, hf, Core.drained_idle hp, atomicHeld_idle hp hcm hq, joinPlace_actor hpl, hr, atomicLost_at hr hcalm,
    performAtomic_at hr hcalm, Core.word, Bool.false_eq_true, Bool.true_eq_false, if_false, Option.isSome_none]

theorem join_away {pk : Option Nat} {aid : BitVec 24} {off : Nat} {near : Bool} (hq : s.queueing j = false)
    (hpl : placeOf s j = some (.actor pk aid off)) (hr : s.reach pk aid off 8 .atomic = .away near) :
    join x len s = .wait (s.await (.join (wordTarget s.core.regs.pc x.off.toInt)) j len) := by
  have hcar : (s.core.act.bind fun b => b.carried) = none := by rw [ha]; exact hc
  simp only [join, hg, hcar, hj, hf, Core.drained_idle hp, atomicHeld_idle hp hcm hq, joinPlace_actor hpl, hr, Bool.false_eq_true,
    Bool.true_eq_false, if_false, Option.isSome_none]

theorem join_dev {va pa : Nat} {u : State} (hpl : placeOf s j = some (.inter va)) (ht : s.translate .write va = some (pa, u))
    (hb : u.pkg.badUnits = []) :
    join x len s
      = joined ((u.writeDev pa (leBytes 8 (BitVec.ofNat 64 (leNat (u.pkg.dmem.readN pa 8)) - 1 : Word).toNat)).respond (.inter va) j pa)
          (BitVec.ofNat 64 (leNat (u.pkg.dmem.readN pa 8))) (wordTarget s.core.regs.pc x.off.toInt) len := by
  have hcar : (s.core.act.bind fun b => b.carried) = none := by rw [ha]; exact hc
  simp only [join, hg, hcar, hj, hf, Core.drained_idle hp, atomicHeld_idle hp hcm (queueing_inter hpl), joinPlace_inter hpl ht,
    atomicLost_dev hb, performAtomic_dev, Bool.false_eq_true, Bool.true_eq_false, if_false, Option.isSome_none]

end

/-- An instruction whose meaning ends the activation or transfers by the old value of a join word: what it leaves. -/
theorem issue_joined {u : Iss} {m : State → R} {s v : State} {a : Activation} {old tgt : Word} (hok : u.ok = true) (hr : Issues u.g u.wait s)
    (hm : m s.noted = joined v old tgt u.len) (hq : v.core.quiet = true) (hg : v.core.ganged = false) (hmg : v.core.mgmt = false)
    (ha : v.core.act = some a) :
    ∃ t, issue u m s = .next t ∧ (∀ k, (focus k t).core.scratch = (focus k v).core.scratch) ∧ t.pkg.dmem = v.pkg.dmem
      ∧ (old = 1 → t.core.act = some a ∧ t.core.regs = v.core.regs.transfer tgt) ∧ (old ≠ 1 → t.core.act = none ∧ t.core.regs = v.core.regs) := by
  rw [joined_quiet hq] at hm
  by_cases h1 : old = 1
  · rw [if_pos h1] at hm
    refine ⟨_, issue_jump hok hr hm, ?_⟩
    rw [State.goTo_alone hg hmg]
    exact ⟨focus_field Core.scratch rfl rfl, rfl, fun _ => ⟨ha, rfl⟩, fun h => absurd h1 h⟩
  · rw [if_neg h1] at hm
    have he := ActorsOnly.endActivation ha
    refine ⟨_, by rw [issue_executes hok hr, hm, conclude_ended ((State.noted_ganged s).trans hr.alone) ((State.noted_mgmt s).trans hr.activation)], ?_⟩
    exact ⟨focus_field Core.scratch he.scratch (he.peersField Core.scratch fun _ => rfl), he.dmem, fun h => absurd h h1,
      fun _ => ⟨he.act, he.regs⟩⟩

/-- An access that waits for its answer, in a core alone. -/
theorem issue_waits {u : Iss} {m : State → R} {s t : State} (hok : u.ok = true) (hr : Ready u.g u.wait u.len s) (hm : m s.noted = .wait t)
    (hg : t.core.ganged = false) (ha : t.core.await.isSome = true) :
    issue u m s = .next (t.mapCore fun c => { c with hold := false }) := by
  rw [issue_executes hok hr.toIssues, hm, conclude_wait ((State.noted_runsOff s _).trans hr.stays) hg ha]

theorem exec_join (x : JnF) (s : State) : exec (.join x) s = execJoin x s := rfl

/-- Outside carried code no successor runs off. -/
theorem runsOff_none {c : Core} {a : Activation} (ha : c.act = some a) (hc : a.carried = none) (len : Nat) : runsOff c len = false := by
  simp [runsOff, ha, hc]

/-- An instruction that holds unissued stands where it was. -/
theorem afterStay_holds {s : State} (hg : s.core.ganged = false) : AfterStay s s.noted.holds := by
  rw [State.noted_alone hg]; exact ⟨rfl, rfl⟩

/-! ### JOIN issued, in a core alone -/

theorem exec_join_alone {x : JnF} {s : State} (hg : s.core.ganged = false) :
    exec (.join x) s = issue (Iss.of (.join x) Guard.none [x.a]) (join x (Instr.join x).bytes) s := by
  simp [exec_join, execJoin, hg]

theorem State.noted_core {s : State} (hg : s.core.ganged = false) : s.noted.core = s.core.note s.core.pcConds [] := by
  rw [State.noted_alone hg]; rfl

theorem wordTarget_noted {n : Nat} (s : State) (off : BitVec n) :
    wordTarget s.noted.core.regs.pc off.toInt = s.core.regs.pc + off.signExtend 64 * 4 := by
  rw [State.noted_regs]; exact wordTarget_eq _ _

theorem State.writeDev_dmem (s : State) (pa : Nat) (bs : List Byte) : (s.writeDev pa bs).pkg.dmem = s.pkg.dmem.writeN pa bs := rfl

/-- A member that nothing watches is so for an instruction as it finds it. -/
theorem focus_noted_calm {s : State} {k : Nat} (hg : s.core.ganged = false) (h : (focus k s).core.calm) : (focus k s.noted).core.calm := by
  have hk := focus_field (fun c => (c.health, c.dbg.wp)) (s := s) (t := s.noted) (by rw [State.noted_alone hg]; rfl)
    (by rw [State.noted_alone hg]; rfl) k
  obtain ⟨hh, hw⟩ := Prod.mk.inj hk
  exact ⟨by rw [hh]; exact h.1, fun n => by rw [hw]; exact h.2 n⟩

theorem focus_noted_scratch {s : State} (hg : s.core.ganged = false) (k : Nat) : (focus k s.noted).core.scratch = (focus k s).core.scratch :=
  focus_field Core.scratch (by rw [State.noted_alone hg]; rfl) (by rw [State.noted_alone hg]; rfl) k

section
variable {x : JnF} {s : State} {a : Activation} {j : Word} (hwf : (Instr.join x).wf = true) (hr : Issues Guard.none 0 s)
  (ha : s.core.act = some a) (hc : a.carried = none) (hj : joinWord s.noted x.a = j) (hf : joinFault j = false) (hp : s.core.posted = [])
  (hcm : s.core.cmds = [])
include hwf hr ha hc hj hf hp hcm

theorem exec_join_at {pk : Option Nat} {aid : BitVec 24} {off k p : Nat} (hpl : placeOf s j = some (.actor pk aid off))
    (hq : s.queueing j = false) (hat : s.reach pk aid off 8 .atomic = .at_ k p) (hcalm : (focus k s).core.calm)
    (hm : (focus k s).core.scratch.wf = true) :
    ∃ t, exec (.join x) s = .next t
      ∧ Holds (focus k t).core.scratch (focus k s).core.scratch p 8 ((focus k s).core.word p - 1) ∧ t.pkg.dmem = s.pkg.dmem
      ∧ ((focus k s).core.word p = 1 → t.core.act = some a ∧ t.core.regs = s.core.regs.transfer (s.core.regs.pc + x.off.signExtend 64 * 4))
      ∧ ((focus k s).core.word p ≠ 1 → t.core.act = none ∧ t.core.regs = s.core.regs) := by
  have hg := hr.alone
  have hnote := State.noted_alone hg
  have hcore := State.noted_core hg
  have hword : (focus k s.noted).core.word p = (focus k s).core.word p := by
    simp only [Core.word, Core.readScratch, focus_noted_scratch hg k]
  have hdone := join_at (x := x) (len := (Instr.join x).bytes) (by rw [hcore]; exact hg) (by rw [hcore]; exact ha) hc hj hf (by rw [hcore]; exact hp)
    (by rw [hcore]; exact hcm) (by rw [hnote]; exact hq) ((placeOf_noted hg j).trans hpl) (by rw [hnote]; exact hat) (focus_noted_calm hg hcalm)
  rw [hword, wordTarget_noted] at hdone
  let g (c : Core) : Core := { c with scratch := c.scratch.writeN p (leBytes 8 ((focus k s).core.word p - 1).toNat) }
  let w := focus k ((focus k s.noted).mapCore g)
  have hkeep : ({ w.core with scratch := [] } : Core) = { s.core.note s.core.pcConds [] with scratch := [] } := by
    rw [← hcore]
    exact (focus_mapCore_field (fun c => { c with scratch := [] }) (g := g) (fun _ => rfl) k s.noted).1
  obtain ⟨t, ht, hscr, hdm, h1, h0⟩ := issue_joined (u := Iss.of (.join x) Guard.none [x.a]) hwf hr hdone
    (Core.quiet_idle ((congrArg Core.posted hkeep).trans hp) ((congrArg Core.cmds hkeep).trans hcm))
    ((congrArg Core.ganged hkeep).trans hg) ((congrArg Core.mgmt hkeep).trans hr.activation) ((congrArg Core.act hkeep).trans ha)
  have hregs : w.core.regs = s.core.regs := (congrArg Core.regs hkeep).trans rfl
  have hmem : (focus k t).core.scratch = (focus k s).core.scratch.writeN p (leBytes 8 ((focus k s).core.word p - 1).toNat) := by
    rw [hscr k, focus_field Core.scratch (s := w) (by rfl) (by rfl) k, focus_focus, ← focus_noted_scratch hg k]; rfl
  rw [exec_join_alone hg]
  refine ⟨t, ht, by rw [hmem]; exact Holds_writeN hm p 8 _, ?_, ?_, ?_⟩
  · rw [hdm, State.respond_pkg, focus_pkg, State.mapCore_pkg, focus_pkg, hnote, State.mapCore_pkg]
  · exact fun h => ⟨(h1 h).1, (h1 h).2.trans (congrArg (fun r : Regs => r.transfer _) hregs)⟩
  · exact fun h => ⟨(h0 h).1, (h0 h).2.trans hregs⟩

theorem exec_join_away {pk : Option Nat} {aid : BitVec 24} {off : Nat} {near : Bool} (hpl : placeOf s j = some (.actor pk aid off))
    (hq : s.queueing j = false) (haway : s.reach pk aid off 8 .atomic = .away near) (hheld : s.addrHeld j = false) :
    ∃ t, exec (.join x) s = .next t
      ∧ AfterStay (s.mapCore fun c =>
          { c with await := some { kind := .join (s.core.regs.pc + x.off.signExtend 64 * 4), addr := j, len := (Instr.join x).bytes } }) t := by
  have hg := hr.alone
  have hnote := State.noted_alone hg
  have hcore := State.noted_core hg
  have hwait := join_away (x := x) (len := (Instr.join x).bytes) (by rw [hcore]; exact hg) (by rw [hcore]; exact ha) hc hj hf (by rw [hcore]; exact hp)
    (by rw [hcore]; exact hcm) (by rw [hnote]; exact hq) ((placeOf_noted hg j).trans hpl) (by rw [hnote]; exact haway)
  rw [exec_join_alone hg]
  refine ⟨_, issue_waits (u := Iss.of (.join x) Guard.none [x.a]) hwf ⟨hr, runsOff_none ha hc _⟩ hwait ((State.noted_ganged s).trans hg) rfl, ?_⟩
  have hfree : s.noted.addrHeld j = false := by rw [hnote]; exact hheld
  rw [wordTarget_noted, State.await, hfree, hnote]
  exact ⟨rfl, rfl⟩

theorem exec_join_dev {va pa : Nat} {u : State} (hpl : placeOf s j = some (.inter va)) (ht : s.translate .write va = some (pa, u))
    (hm : s.pkg.dmem.wf = true) (hb : s.pkg.badUnits = []) :
    let old : Word := BitVec.ofNat 64 (leNat (s.pkg.dmem.readN pa 8))
    ∃ t, exec (.join x) s = .next t ∧ Holds t.pkg.dmem s.pkg.dmem pa 8 (old - 1) ∧ t.core.scratch = s.core.scratch
      ∧ (old = 1 → t.core.act = some a ∧ t.core.regs = s.core.regs.transfer (s.core.regs.pc + x.off.signExtend 64 * 4))
      ∧ (old ≠ 1 → t.core.act = none ∧ t.core.regs = s.core.regs) := by
  intro old
  have hg := hr.alone
  have hcore := State.noted_core hg
  obtain ⟨hud, hub⟩ : u.pkg.dmem = s.pkg.dmem ∧ u.pkg.badUnits = s.pkg.badUnits := by
    obtain ⟨l, e, rfl⟩ := State.translate_eq ht; exact ⟨rfl, rfl⟩
  let w := u.mapCore fun c => c.note c.pcConds []
  have hw : w.core = s.core.note s.core.pcConds [] := by simp only [w, State.mapCore_core, State.translate_core ht]
  have hwd : w.pkg.dmem = s.pkg.dmem := hud
  have hdone := join_dev (x := x) (len := (Instr.join x).bytes) (u := w) (by rw [hcore]; exact hg) (by rw [hcore]; exact ha) hc hj hf
    (by rw [hcore]; exact hp) (by rw [hcore]; exact hcm) ((placeOf_noted hg j).trans hpl) (by rw [State.translate_noted hg, ht]; rfl)
    (hub.trans hb)
  simp only [hwd, wordTarget_noted] at hdone
  obtain ⟨t, hte, hscr, hdm, h1, h0⟩ := issue_joined (u := Iss.of (.join x) Guard.none [x.a]) hwf hr hdone
    (Core.quiet_idle ((congrArg Core.posted hw).trans hp) ((congrArg Core.cmds hw).trans hcm))
    ((congrArg Core.ganged hw).trans hg) ((congrArg Core.mgmt hw).trans hr.activation) ((congrArg Core.act hw).trans ha)
  have hregs : w.core.regs = s.core.regs := by rw [hw]; rfl
  have hmem : t.pkg.dmem = s.pkg.dmem.writeN pa (leBytes 8 (old - 1).toNat) := by
    rw [hdm, State.respond_pkg, State.writeDev_dmem, hwd]
  have hscr0 : w.core.scratch = s.core.scratch := by rw [hw]; rfl
  rw [exec_join_alone hg]
  refine ⟨t, hte, by rw [hmem]; exact Holds_writeN hm pa 8 _, (hscr 0).trans hscr0, ?_, ?_⟩
  · exact fun h => ⟨(h1 h).1, (h1 h).2.trans (congrArg (fun r : Regs => r.transfer _) hregs)⟩
  · exact fun h => ⟨(h0 h).1, (h0 h).2.trans hregs⟩

end

/-- Settles the second part of O19: JOIN by the place of its word. -/
theorem joinContinuesOrEnds : Sys2Proof.Claims.JoinContinuesOrEnds := by
  intro x s a j hwf hr ha hc h1 h2 h3
  have hg := hr.alone
  have hcore := State.noted_core hg
  have hj : joinWord s.noted x.a = j := joinWord_eq (by rw [hcore]; exact ha) (by rw [hcore]; exact h1) h2 h3
  refine ⟨fun hok => ?jaddr, fun hok hd => ?undrained, fun pk aid off hok hp hcm hpl hq => ⟨?performed, ?waits⟩, ?dev⟩
  case jaddr =>
    have ht := join_jaddr (x := x) (len := (Instr.join x).bytes) (by rw [hcore]; exact hg) (by rw [hcore]; exact ha) hc hj (joinFault_eq_true.2 hok)
    rw [exec_join_alone hg]
    exact issue_trap hwf hr ht ⟨rfl, rfl, rfl, rfl, rfl, rfl⟩
  case undrained =>
    have hh := join_undrained (x := x) (len := (Instr.join x).bytes) (by rw [hcore]; exact hg) (by rw [hcore]; exact ha) hc hj
      (joinFault_eq_false.2 hok) (by rw [hcore]; exact hd)
    rw [exec_join_alone hg]
    exact ⟨_, issue_hold hwf hr hh, afterStay_holds hg, rfl⟩
  case performed => exact fun k p hat hcalm hm => exec_join_at hwf hr ha hc hj (joinFault_eq_false.2 hok) hp hcm hpl hq hat hcalm hm
  case waits => exact fun near haway hheld => exec_join_away hwf hr ha hc hj (joinFault_eq_false.2 hok) hp hcm hpl hq haway hheld
  case dev =>
    exact fun va pa u hok hp hcm hpl ht hm hb => exec_join_dev hwf hr ha hc hj (joinFault_eq_false.2 hok) hp hcm hpl ht hm hb

/-- Settles O19: FORK and JOIN by the places of their join words. -/
theorem forkAndJoin : Obligations.ForkAndJoin := ⟨forkPushesARecord, joinContinuesOrEnds⟩

end Sys2Proof.Machine
end

section
/-!
SUPPORT. Gangs: GANG and SPLIT issued, members joining behind their leader and leaving it (02_execution.md R39 to R41;
10_vector_matrix.md R192, R193).
-/
namespace Sys2Proof.Machine

/-! ### Extended instructions -/

/-- The length of an extended instruction is that of its form (04_formats.md R61, R70). -/
theorem bytes_of_xcode {i : Instr} {cls sub : Nat} {x : XOp} (hraw : toRaw i = none) (h : xcode i = some (cls, sub, x)) (ok : Bool)
    (regs : List SReg) : i.bytes = (Iss.ext cls sub x ok regs).len := by
  simp only [Instr.bytes, encode, hraw, h, Iss.ext]
  cases hl : x.h.lit with
  | none => simp [litWords]
  | some l => simp [litWords]

theorem bytes_gang (x : XOp) : (Instr.gang x).bytes = (Iss.ext 9 0 x true [x.a]).len := bytes_of_xcode rfl rfl _ _
theorem bytes_split (x : XOp) : (Instr.split x).bytes = (Iss.ext 9 1 x true []).len := bytes_of_xcode rfl rfl _ _

theorem exec_gang (x : XOp) (s : State) : exec (.gang x) s = issue (Iss.ext 9 0 x true [x.a]) (gangArrive x) s := rfl
theorem exec_split (x : XOp) (s : State) : exec (.split x) s = execSplit x s := rfl
theorem exec_gangJoin (tags : List (BitVec 16)) (s : State) : exec (.gangJoin tags) s = execGangJoin tags s := rfl
theorem exec_gangTimeout (s : State) : exec .gangTimeout s = execGangTimeout s := rfl

/-- An instruction that changes nothing, in a core alone. -/
theorem issue_setsNothing {u : Iss} {m : State → R} {s : State} (hok : u.ok = true) (hr : Ready u.g u.wait u.len s)
    (hm : m s.noted = .done s.noted) :
    ∃ t, issue u m s = .next t ∧ t.core.regs = s.core.regs.advance u.len ∧ t.beside = s.beside := by
  obtain ⟨t, ht, hA⟩ := issue_after hok hr hm ((State.noted_ganged s).trans hr.alone) ((State.noted_mgmt s).trans hr.activation)
  exact ⟨t, ht, by rw [hA.regs, State.noted_regs], by rw [hA.beside, State.noted_beside hr.alone]⟩

/-! ### GANG alone or arriving (R192) -/

section
variable {x : XOp} {s : State} {a : Activation} (hg : s.core.ganged = false) (ha : s.core.act = some a)
include hg ha

theorem gangArrive_single (h : a.g ≤ 1) : gangArrive x s = .done s := by
  simp only [gangArrive, hg, ha, Bool.false_eq_true, if_false, if_pos h]

theorem gangArrive_waits (h : 2 ≤ a.g) :
    gangArrive x s = .wait (s.mapCore fun c =>
      { c with act := some { a with split := wordTarget c.regs.pc (sxt 32 x.w2.toNat), arrived := some ((c.regs.rs x.a).setWidth 16) } }) := by
  simp only [gangArrive, hg, ha, Bool.false_eq_true, if_false, if_neg (show ¬a.g ≤ 1 by omega)]

end

/-- The split target's offset is a signed word count. -/
theorem wordTarget_w2 (pc : Word) (w : BitVec 32) : wordTarget pc (sxt 32 w.toNat) = pc + w.signExtend 64 * 4 := by
  rw [sxt_toInt 32 _ (by decide), BitVec.ofNat_toNat, BitVec.setWidth_eq]
  exact wordTarget_eq pc w

/-- A core that arrives at a gang's barrier waits there. -/
theorem issue_arrives {u : Iss} {m : State → R} {s t : State} (hok : u.ok = true) (hr : Ready u.g u.wait u.len s) (hm : m s.noted = .wait t)
    (ht : t.core.ganged = false) (ha : t.core.arrived = true) : issue u m s = .next (t.mapCore fun c => { c with hold := false }) := by
  have h0 : runsOff s.noted.core u.len = false := (State.noted_runsOff s _).trans hr.stays
  rw [issue_executes hok hr.toIssues, hm]
  simp [conclude, trapsOf, R.isHold, R.isWait, R.state, h0, State.together_alone ht, ha, State.mapMembers_alone ht]

theorem gang_single {x : XOp} {s : State} {a : Activation} (hwf : (Instr.gang x).wf = true)
    (hr : Ready x.h.g x.wait.val (Instr.gang x).bytes s) (ha : s.core.act = some a) (h : a.g ≤ 1) : SetsRegs (.gang x) s s.core.regs := by
  rw [bytes_gang] at hr
  obtain ⟨t, ht, hregs, hb⟩ := issue_setsNothing (u := Iss.ext 9 0 x true [x.a]) hwf hr
    (gangArrive_single (x := x) ((State.noted_ganged s).trans hr.alone) ((State.noted_act s).trans ha) h)
  exact ⟨t, by rw [exec_gang, ht], by rw [hregs, bytes_gang], hb⟩

theorem gang_waits {x : XOp} {s : State} {a : Activation} (hwf : (Instr.gang x).wf = true)
    (hr : Ready x.h.g x.wait.val (Instr.gang x).bytes s) (ha : s.core.act = some a) (h : 2 ≤ a.g) :
    ∃ t, exec (.gang x) s = .next t
      ∧ AfterStay (s.mapCore fun c =>
          { c with act := some { a with split := c.regs.pc + x.w2.signExtend 64 * 4, arrived := some ((c.regs.rs x.a).setWidth 16) } }) t := by
  rw [bytes_gang] at hr
  have hm := gangArrive_waits (x := x) ((State.noted_ganged s).trans hr.alone) ((State.noted_act s).trans ha) h
  refine ⟨_, issue_arrives (u := Iss.ext 9 0 x true [x.a]) hwf hr hm ((State.noted_ganged s).trans hr.alone) rfl, ?_⟩
  rw [State.noted_alone hr.alone]
  simp only [wordTarget_w2]
  exact ⟨rfl, rfl⟩

/-! ### SPLIT alone (R193) -/

theorem split_alone {x : XOp} {s : State} (hwf : (Instr.split x).wf = true) (hr : Ready x.h.g x.wait.val (Instr.split x).bytes s) :
    SetsRegs (.split x) s s.core.regs := by
  rw [bytes_split] at hr
  obtain ⟨t, ht, hregs, hb⟩ := issue_setsNothing (u := Iss.ext 9 1 x true []) (m := fun s => .done s) hwf hr rfl
  refine ⟨t, ?_, by rw [hregs, bytes_split], hb⟩
  simp only [exec_split, execSplit, xissue, ht, hr.alone, Bool.false_eq_true, false_and, if_false]

/-! ### A joined gang -/

/-- The loops that exit and the program counter alone decide what the exit test of a loop does. -/
theorem exitTest_gangix (n : Nat) (succ : Word) (r : Regs) (k : Nat) :
    exitTest n succ { r with gangix := k } = { exitTest n succ r with gangix := k } := by
  induction n generalizing r with
  | zero => rfl
  | succ n ih =>
    have hre : recentExit { r with gangix := k } succ = recentExit r succ := rfl
    simp only [exitTest, hre]
    cases recentExit r succ with
    | none => rfl
    | some i =>
      simp only
      split
      · rfl
      · exact ih { r with lc := r.lc.set i { r.lc[i] with cnt := r.lc[i].cnt - 1, active := false } }

theorem Regs.advance_set_gangix (r : Regs) (len k : Nat) : ({ r with gangix := k } : Regs).advance len = { r.advance len with gangix := k } :=
  exitTest_gangix 4 _ r k

theorem exitTest_keeps (n : Nat) (succ : Word) (r : Regs) : (exitTest n succ r).gangix = r.gangix ∧ (exitTest n succ r).s = r.s := by
  induction n generalizing r with
  | zero => exact ⟨rfl, rfl⟩
  | succ n ih =>
    simp only [exitTest]
    cases recentExit r succ with
    | none => exact ⟨rfl, rfl⟩
    | some i =>
      simp only
      split
      · exact ⟨rfl, rfl⟩
      · exact ih _

theorem Regs.advance_gangix (r : Regs) (len : Nat) : (r.advance len).gangix = r.gangix := (exitTest_keeps 4 _ r).1
theorem Regs.advance_s (r : Regs) (len : Nat) : (r.advance len).s = r.s := (exitTest_keeps 4 _ r).2

/-- Members' places decide who are mates. -/
theorem Core.mate_congr {c d c' d' : Core} (hc : c'.ganged = c.ganged ∧ c'.ix = c.ix ∧ c'.regs.gangix = c.regs.gangix)
    (hd : d'.ganged = d.ganged ∧ d'.ix = d.ix ∧ d'.regs.gangix = d.regs.gangix) : c'.mate d' = c.mate d := by
  simp only [Core.mate, hc, hd]

/-- A change of a core that leaves its place in its gang. -/
def KeepsPlace (f : Core → Core) : Prop := ∀ c, (f c).ganged = c.ganged ∧ (f c).ix = c.ix ∧ (f c).regs.gangix = c.regs.gangix

/-- The core leads a gang that all its neighbours are in. -/
structure State.WholeGang (s : State) : Prop where
  joined : s.core.ganged = true
  mates : ∀ c ∈ s.peers, s.core.mate c = true

theorem State.WholeGang.mapBoth {s : State} (h : s.WholeGang) {f g : Core → Core} (hf : KeepsPlace f) (hg : KeepsPlace g) :
    ({ s with core := f s.core, peers := s.peers.map g } : State).WholeGang := by
  refine ⟨(hf s.core).1.trans h.joined, fun c hc => ?_⟩
  obtain ⟨d, hd, rfl⟩ := List.mem_map.1 hc
  exact (Core.mate_congr (hf s.core) (hg d)).trans (h.mates d hd)

section
variable {s : State} (h : s.WholeGang)
include h

theorem State.WholeGang.map_mates (f g : Core → Core) : (s.peers.map fun c => if s.core.mate c then f c else g c) = s.peers.map f :=
  List.map_congr_left fun c hc => by rw [h.mates c hc]; rfl

theorem State.WholeGang.mapMembers (f : Core → Core) : s.mapMembers f = { s with core := f s.core, peers := s.peers.map f } := by
  simp only [State.mapMembers, h.joined, if_true, h.map_mates f fun c => c]

theorem State.WholeGang.follow : s.follow = { s with peers := s.peers.map fun c => { c with regs := { c.regs with pc := s.core.regs.pc } } } := by
  simp only [State.follow, h.joined, if_true, h.map_mates _ fun c => c]

theorem State.WholeGang.dissolve :
    dissolve s = { s with peers := s.peers.map Core.leaveGang, core := { s.core with ganged := false, regs := { s.core.regs with gangix := 0 } } } := by
  simp only [Machine.dissolve, h.joined, if_true, h.map_mates _ fun c => c]

theorem State.WholeGang.members (hm : s.core.mgmt = false) : s.members = s.peers.length := by
  have hf : s.peers.filter s.core.mate = s.peers := List.filter_eq_self.2 h.mates
  simp [State.members, h.joined, hm, hf]

end

/-- Parts that each complete and change nothing. -/
theorem runMembers_done {m : State → R} {s : State} (n k : Nat) (h : ∀ j ≤ n, memberPart m (k + j) s = .done s) :
    runMembers m n k s = List.replicate (n + 1) (.done s) := by
  induction n generalizing k with
  | zero =>
    have h0 : memberPart m k s = .done s := h 0 (Nat.le_refl 0)
    simp [runMembers, h0]
  | succ n ih =>
    have h0 : memberPart m k s = .done s := h 0 (Nat.zero_le _)
    have hn := ih (k + 1) fun j hj => by rw [Nat.add_right_comm, Nat.add_assoc]; exact h (j + 1) (by omega)
    simp only [runMembers, h0, R.state, hn, List.replicate_succ]

theorem trapsOf_replicate_done (s : State) (k j : Nat) : trapsOf (List.replicate k (.done s)) j = [] := by
  induction k generalizing j with
  | zero => rfl
  | succ k ih => exact ih (j + 1)

theorem conclude_allDone {len n : Nat} {s : State} (h : runsOff s.core len = false) :
    conclude len s (List.replicate (n + 1) (.done s)) = .next (s.goOn len) := by
  have hl : (List.replicate (n + 1) (R.done s)).getLastD .hold = .done s := by
    simp [List.getLastD_eq_getLast?, List.getLast?_replicate]
  have hh : (List.replicate (n + 1) (R.done s)).headD .hold = .done s := rfl
  have hn : (List.replicate (n + 1) (R.done s)).any R.isHold = false := by simp [R.isHold]
  have hw : (List.replicate (n + 1) (R.done s)).any R.isWait = false := by simp [R.isWait]
  simp only [conclude, trapsOf_replicate_done, hl, hh, hn, hw, R.state, complete, h, Bool.false_eq_true, false_and, if_false]

/-- The members of a gang whose neighbours are all its followers. -/
theorem GangIssues.whole {g : Guard} {wait : Nat} {s : State} (h : GangIssues g wait s) : s.WholeGang := by
  obtain ⟨hj, _, _, hmates, _⟩ := h
  exact ⟨hj, fun c hc => (hmates c hc).1⟩

/-- They run an activation. -/
theorem GangIssues.running {g : Guard} {wait : Nat} {s : State} (h : GangIssues g wait s) : s.core.mgmt = false := by
  obtain ⟨_, hm, _⟩ := h
  exact hm

/-- An instruction that does nothing in any member goes on in the whole gang. -/
theorem issue_gangDone {u : Iss} {s : State} (hok : u.ok = true) (hr : GangIssues u.g u.wait s) (h0 : runsOff s.core u.len = false) :
    issue u (fun t => .done t) s = .next (s.noted.goOn u.len) := by
  have hw := hr.whole
  obtain ⟨hj, hm, _, _, hall⟩ := hr
  have hnote : s.noted = { s with core := s.core.note s.core.pcConds [], peers := s.peers.map fun c => c.note c.pcConds [] } := hw.mapMembers _
  have hpart : ∀ j ≤ s.peers.length, memberPart (u.part fun t => .done t) (0 + j) s.noted = .done s.noted := fun j _ => by
    have hmem : (focus j s.noted).core ∈ s.noted.core :: s.noted.peers := by
      cases j with
      | zero => exact List.mem_cons_self
      | succ j =>
        simp only [focus]
        cases hc : s.noted.peers[j]? with
        | none => exact List.mem_cons_self
        | some c => exact List.mem_cons_of_mem _ (List.mem_of_getElem? hc)
    have hreads : ∀ c ∈ s.noted.core :: s.noted.peers, c.regs.guard u.g = true ∧ (∀ rs, c.pending rs = false) ∧ c.waitHolds u.wait = false := by
      intro c hc
      rw [hnote] at hc
      obtain ⟨d, hd, rfl⟩ : ∃ d ∈ s.core :: s.peers, c = d.note d.pcConds [] := by
        rcases List.mem_cons.1 hc with rfl | hp
        · exact ⟨s.core, List.mem_cons_self, rfl⟩
        · obtain ⟨d, hd, rfl⟩ := List.mem_map.1 hp
          exact ⟨d, List.mem_cons_of_mem _ hd, rfl⟩
      exact hall d hd
    obtain ⟨hgd, hpd, hwt⟩ := hreads _ hmem
    simp [memberPart, Iss.part, hgd, hpd, hwt, R.map, focus_focus]
  have hguard : s.core.regs.guard u.g = true := (hall _ List.mem_cons_self).1
  have hoff : runsOff s.noted.core u.len = false := (State.noted_runsOff s _).trans h0
  have h1 : s.mapMembers (fun c => c.note c.pcConds []) = s.noted := rfl
  simp only [issue, h1, hok, hguard, hw.members hm, runMembers_done _ _ hpart, conclude_allDone hoff]
  simp

/-! ### SPLIT in a gang (R41, R193) -/

theorem keepsPlace_note (f : Core → List Nat) (g : Core → List (Nat × Word)) : KeepsPlace fun c => c.note (f c) (g c) := fun _ => ⟨rfl, rfl, rfl⟩

/-- A core that went on past an instruction. -/
def Core.wentOn (cycle len : Nat) (c : Core) : Core := { c.issued cycle with regs := c.regs.advance len }

theorem keepsPlace_wentOn (cycle len : Nat) : KeepsPlace (Core.wentOn cycle len) := fun c => ⟨rfl, rfl, Regs.advance_gangix c.regs len⟩

/-- A core with its program counter where a leader's is. -/
def Core.atPc (pc : Word) (c : Core) : Core := { c with regs := { c.regs with pc := pc } }

theorem State.noted_whole {s : State} (h : s.WholeGang) :
    s.noted = { s with core := s.core.note s.core.pcConds [], peers := s.peers.map fun c => c.note c.pcConds [] } := h.mapMembers _

theorem State.WholeGang.noted {s : State} (h : s.WholeGang) : s.noted.WholeGang := by
  rw [State.noted_whole h]
  exact h.mapBoth (keepsPlace_note Core.pcConds fun _ => []) (keepsPlace_note Core.pcConds fun _ => [])

theorem State.WholeGang.goOn {s : State} (h : s.WholeGang) (hm : s.core.mgmt = false) (len : Nat) :
    s.goOn len = { s with
      core := s.core.wentOn s.grove.cycle len
      peers := s.peers.map fun c => (c.wentOn s.grove.cycle len).atPc (s.core.wentOn s.grove.cycle len).regs.pc } := by
  have h1 : s.mapMembers (Core.wentOn s.grove.cycle len) =
      { s with core := s.core.wentOn s.grove.cycle len, peers := s.peers.map (Core.wentOn s.grove.cycle len) } := h.mapMembers _
  have hw := h.mapBoth (keepsPlace_wentOn s.grove.cycle len) (keepsPlace_wentOn s.grove.cycle len)
  have h2 : s.goOn len = (s.mapMembers (Core.wentOn s.grove.cycle len)).follow := by simp only [State.goOn, hm]; rfl
  rw [h2, h1, hw.follow, List.map_map]
  rfl

/-- A gang's SPLIT: all go on and part. -/
theorem split_dissolves {x : XOp} {s : State} (hwf : (Instr.split x).wf = true) (hr : GangIssues x.h.g x.wait.val s)
    (h0 : runsOff s.core (Instr.split x).bytes = false) : exec (.split x) s = .next (dissolve (s.noted.goOn (Instr.split x).bytes)) := by
  rw [bytes_split] at h0 ⊢
  have hi := issue_gangDone (u := Iss.ext 9 1 x true []) hwf hr h0
  have hj : s.core.ganged = true := hr.1
  have hok : xok 9 1 x = true := hwf
  have hn : (s.noted.goOn (Iss.ext 9 1 x true []).len).core.ganged = true := by
    rw [hr.whole.noted.goOn ((State.noted_mgmt s).trans hr.running)]
    exact (State.noted_ganged s).trans hj
  simp only [exec_split, execSplit, xissue, hi, hj, hok, hn, true_and, if_true]

theorem split_gang {x : XOp} {s : State} (hwf : (Instr.split x).wf = true) (hr : GangIssues x.h.g x.wait.val s)
    (h0 : runsOff s.core (Instr.split x).bytes = false) :
    ∃ t, exec (.split x) s = .next t ∧ t.core.ganged = false ∧ t.core.regs = { s.core.regs.advance (Instr.split x).bytes with gangix := 0 } ∧ t.peers.length = s.peers.length
      ∧ ∀ (j : Nat) (c : Core) (a : Activation), s.peers[j]? = some c → c.act = some a → ∃ d, t.peers[j]? = some d
          ∧ d.ganged = false ∧ d.regs.pc = a.split ∧ d.regs.gangix = 0 ∧ d.regs.s = c.regs.s ∧ d.scratch = c.scratch := by
  have hn := hr.whole.noted
  have hgo := hn.goOn ((State.noted_mgmt s).trans hr.running) (Instr.split x).bytes
  have hw : (s.noted.goOn (Instr.split x).bytes).WholeGang := hgo.symm ▸ hn.mapBoth (keepsPlace_wentOn _ _)
    fun c => ⟨rfl, rfl, Regs.advance_gangix c.regs _⟩
  have hp : s.noted.peers = s.peers.map fun c => c.note c.pcConds [] := congrArg State.peers (State.noted_whole hr.whole)
  refine ⟨_, split_dissolves hwf hr h0, ?_⟩
  rw [hw.dissolve, hgo]
  refine ⟨rfl, by simp only [Core.wentOn, State.noted_regs], by simp [hp], fun j c a hc ha => ?_⟩
  simp only [hp, List.map_map, List.getElem?_map, hc, Option.map_some]
  exact ⟨_, rfl, by simp [Core.leaveGang, Core.atPc, Core.wentOn, Core.issued, Core.note, ha, Regs.advance_s]⟩

/-! ### Joining (R40, R192) -/

/-- What the tags of a waiting gang say: its members stand one after the other, each at GANG. -/
theorem gangTags_some {s : State} {tags : List (BitVec 16)} (h : s.gangTags = some tags) :
    (∀ n c, s.gangCores[n]? = some c → s.core.nthItem n c = true) ∧ tags = s.gangCores.filterMap Core.gangTag := by
  simp only [State.gangTags] at h
  split at h
  case isTrue hc =>
    obtain ⟨_, _, hall⟩ := hc
    refine ⟨fun n c hn => ?_, (Option.some.inj h).symm⟩
    obtain ⟨hlt, hget⟩ := List.getElem?_eq_some_iff.1 hn
    refine List.all_eq_true.1 hall (n, c) (List.mem_iff_getElem?.2 ⟨n, ?_⟩)
    simp [hlt, hget]
  case isFalse => exact absurd h (by simp)

/-- What a core that joins keeps and drops. -/
theorem Core.joinGang_arrived (c : Core) (ix : Nat) : (c.joinGang ix).arrived = false := by
  unfold Core.arrived Core.joinGang
  cases c.act <;> rfl

/-- The members of a waiting gang joined: the leader at its successor, each other in its place with the leader's program counter. -/
def State.joinedGang (s : State) : State :=
  let lead := (s.core.issued s.grove.cycle).joinGang 0
  { s with
    core := { lead with regs := lead.regs.advance 12 }
    peers := (List.range s.peers.length).zip s.peers |>.map fun p =>
      if p.1 < s.core.gangOf - 1 then (p.2.issued s.grove.cycle).joinGang (p.1 + 1) else p.2 }

theorem gangJoin_equal {s : State} {tags : List (BitVec 16)} {g : BitVec 16} (h : s.gangTags = some tags) (heq : ∀ h ∈ tags, h = g) :
    exec (.gangJoin tags) s = .next s.joinedGang.follow := by
  have hall : (tags.all fun x => some x == tags.head?) = true := by
    cases tags with
    | nil => rfl
    | cons x xs =>
      refine List.all_eq_true.2 fun y hy => ?_
      rw [heq y hy, List.head?_cons, heq x List.mem_cons_self, beq_self_eq_true]
  simp only [exec_gangJoin, execGangJoin, h, ne_eq, not_true_eq_false, if_false, hall, if_true]
  rfl

theorem gangJoin_unequal {s : State} {tags : List (BitVec 16)} (h : s.gangTags = some tags) (hne : ∃ g ∈ tags, ∃ h ∈ tags, g ≠ h) :
    exec (.gangJoin tags) s = .next (trapWaiting .gangerr s.core.gangKey s) := by
  have hall : (tags.all fun x => some x == tags.head?) = false := by
    obtain ⟨g, hg, k, hk, hgk⟩ := hne
    refine Bool.eq_false_iff.2 fun ht => hgk ?_
    have heq : ∀ x ∈ tags, some x = tags.head? := fun x hx => eq_of_beq (List.all_eq_true.1 ht x hx)
    exact Option.some.inj ((heq g hg).trans (heq k hk).symm)
  simp only [exec_gangJoin, execGangJoin, h, ne_eq, not_true_eq_false, if_false, hall, Bool.false_eq_true]

theorem State.joinedGang_peer {s : State} {j : Nat} {c : Core} (hj : j < s.core.gangOf - 1) (hc : s.peers[j]? = some c) :
    s.joinedGang.peers[j]? = some ((c.issued s.grove.cycle).joinGang (j + 1)) := by
  obtain ⟨hlt, hget⟩ := List.getElem?_eq_some_iff.1 hc
  simp [State.joinedGang, hlt, hget, hj]

theorem gangJoin_joins {s : State} {a : Activation} {tags : List (BitVec 16)} {g : BitVec 16} (ha : s.core.act = some a) (h : s.gangTags = some tags)
    (heq : ∀ h ∈ tags, h = g) :
    ∃ t, exec (.gangJoin tags) s = .next t ∧ t.core.ganged = true ∧ t.core.regs = { s.core.regs.advance 12 with gangix := 0 } ∧ t.core.arrived = false
      ∧ ∀ (j : Nat) (c : Core), j + 1 < a.g → s.peers[j]? = some c → ∃ d, t.peers[j]? = some d ∧ d.ganged = true ∧ d.arrived = false
          ∧ d.regs = { c.regs with pc := t.core.regs.pc, gangix := j + 1 } := by
  have hregs : s.joinedGang.core.regs = { s.core.regs.advance 12 with gangix := 0 } := Regs.advance_set_gangix s.core.regs 12 0
  refine ⟨_, gangJoin_equal h heq, rfl, hregs, Core.joinGang_arrived (s.core.issued s.grove.cycle) 0, fun j c hj hc => ?_⟩
  have hg : s.core.gangOf = a.g := by simp only [Core.gangOf, ha]
  have hp := State.joinedGang_peer (s := s) (by omega) hc
  have hitem : s.core.nthItem (j + 1) c = true := (gangTags_some h).1 (j + 1) c (by simp [State.gangCores, hg, List.getElem?_take, hc]; omega)
  have hix : c.ix.val = s.core.ix.val + (j + 1) := by
    simp only [Core.nthItem, Bool.and_eq_true, beq_iff_eq] at hitem
    obtain ⟨⟨_, hix⟩, _⟩ := hitem
    exact hix
  have hmate : s.joinedGang.core.mate ((c.issued s.grove.cycle).joinGang (j + 1)) = true := by
    have hz : s.joinedGang.core.regs.gangix = 0 := by rw [hregs]
    simp only [Core.mate, hz]
    simp [State.joinedGang, Core.joinGang, Core.issued, hix]
  have ht : s.joinedGang.follow.peers[j]? = some (((c.issued s.grove.cycle).joinGang (j + 1)).atPc s.joinedGang.core.regs.pc) := by
    have hj : s.joinedGang.core.ganged = true := rfl
    simp only [State.follow, hj, if_true, List.getElem?_map, hp, Option.map_some, hmate]
    rfl
  exact ⟨_, ht, rfl, Core.joinGang_arrived (c.issued s.grove.cycle) (j + 1), rfl⟩

/-! ### Trapping at the barrier -/

theorem gangTimeout_traps {s : State} {g : BitVec 16} (h : s.core.gangTag = some g) (hb : s.core.regs.bartmo ≠ 0)
    (hl : (s.cores.filter fun d => d.gangKey == s.core.gangKey).length < s.core.gangOf) :
    exec .gangTimeout s = .next (trapWaiting .barto s.core.gangKey s) := by
  have hlacks : s.gangLacks s.core = true := by
    simp only [State.gangLacks, h, Option.isSome_some, Bool.true_and, bne_iff_ne, Bool.and_eq_true, decide_eq_true_eq]
    exact ⟨hb, hl⟩
  have hfind : s.cores.find? s.gangLacks = some s.core := by simp only [State.cores, List.find?_cons, hlacks]
  simp only [exec_gangTimeout, execGangTimeout, hfind]

theorem trapWaiting_alone {c : Cause} {s : State} {g : BitVec 16} (hp : s.peers = []) (h : s.core.gangTag = some g) :
    trapWaiting c s.core.gangKey s = s.trapNow c (g.setWidth 64) := by
  simp only [trapWaiting, hp, List.length_nil, Nat.zero_add, List.range_one, List.foldl_cons, List.foldl_nil, focus_zero, h, if_true]

end Sys2Proof.Machine
end
section
/-!
SUPPORT. GANG, SPLIT and the gang's barrier settled.
-/
namespace Sys2Proof.Machine

/-- Settles O50, GANG and SPLIT by what a core alone does, a gang's SPLIT and the join by the places that its members keep. -/
theorem gangsJoinAndSplit : Obligations.GangsJoinAndSplit := by
  unfold Obligations.GangsJoinAndSplit
  exact ⟨fun x s a hwf hr ha => ⟨gang_single hwf hr ha, gang_waits hwf hr ha⟩, fun x s hwf hr => split_alone hwf hr,
    fun x s hwf hr h0 => split_gang hwf hr h0, fun s a tags g ha h heq => gangJoin_joins ha h heq,
    fun s tags h hne => gangJoin_unequal h hne, fun s g h hb hl => gangTimeout_traps h hb hl, fun c s g hp h => trapWaiting_alone hp h⟩

end Sys2Proof.Machine
end

section
/-!
SUPPORT. Activations started: the registers of a start, the fault of a record at its dispatch, and re-runs (02_execution.md R31, R32, R45 to R50;
18_messages.md R286, R289).
-/
namespace Sys2Proof.Machine

/-! ### The registers at a start (R31, R32) -/

theorem rs_reset {r : Regs} (h : r.s = Vector.replicate 32 0) (i : SReg) : r.rs i = 0 := by simp [Regs.rs, h]

/-- The registers of a start: what R31 and R32 name, and all else cleared. -/
theorem startsWith_startRegs (pc : Word) (args : Vector Word 5) (wid : Word) (aid : BitVec 24) (mode : Nat) (seed stream ctr : Word) :
    StartsWith (startRegs pc args wid aid mode seed stream ctr) pc args[0] args[1] args[2] args[3] args[4] wid aid mode seed stream ctr := by
  refine ⟨?pc, ?s1, ?s2, ?s3, ?s4, ?s5, ?rest, ?wid, ?aid, ?fpctl, ?seed, ?stream, ?ctr, ?vectors, ?masks, ?preds, ?acc, ?lc, ?gangix, ?tcause, ?tpc, ?tval⟩
  case vectors => intro v; simp [startRegs, Regs.rv]
  case masks => intro m hm; simp [startRegs, Regs.rm, hm]
  case preds =>
    intro p hp
    simp [startRegs, Regs.rp, hp]
  case rest =>
    intro i hi
    have hne : ∀ k : SReg, k.val < 6 → i ≠ k := fun k hk h => by rw [h] at hi; omega
    simp only [startRegs]
    rw [Regs.rs_ws_other _ _ (hne 5 (by decide)), Regs.rs_ws_other _ _ (hne 4 (by decide)), Regs.rs_ws_other _ _ (hne 3 (by decide)),
      Regs.rs_ws_other _ _ (hne 2 (by decide)), Regs.rs_ws_other _ _ (hne 1 (by decide))]
    exact rs_reset rfl i
  case s5 => exact Regs.rs_ws_self _ _ (by decide)
  case s4 => exact (Regs.rs_ws_other _ _ (by decide)).trans (Regs.rs_ws_self _ _ (by decide))
  all_goals simp only [startRegs, Regs.ws_pc, Regs.ws_wid, Regs.ws_aid, Regs.ws_fpctl, Regs.ws_srseed, Regs.ws_srstream, Regs.ws_srctr,
    Regs.ws_acc, Regs.ws_lc, Regs.ws_gangix, Regs.ws_tcause, Regs.ws_tpc, Regs.ws_tval]
  case s3 => 
    rw [Regs.rs_ws_other _ _ (by decide), Regs.rs_ws_other _ _ (by decide)]; exact Regs.rs_ws_self _ _ (by decide)
  case s2 =>
    rw [Regs.rs_ws_other _ _ (by decide), Regs.rs_ws_other _ _ (by decide), Regs.rs_ws_other _ _ (by decide)]; exact Regs.rs_ws_self _ _ (by decide)
  case s1 =>
    rw [Regs.rs_ws_other _ _ (by decide), Regs.rs_ws_other _ _ (by decide), Regs.rs_ws_other _ _ (by decide), Regs.rs_ws_other _ _ (by decide)]
    exact Regs.rs_ws_self _ _ (by decide)

/-- A code field below 2^48 is its own program counter's offset. -/
theorem codePc_of_lt {f : Nat} (h : f < 2 ^ 48) : codePc f = BitVec.ofNat 64 (0x1000 * 2 ^ 48 + f) := by rw [codePc, Nat.mod_eq_of_lt h]

theorem entryCode_lt (e : BitVec 128) : entryCode e < 2 ^ 48 := Nat.mod_lt _ (by decide)

/-! ### Containment ends the activation -/

/-- The activation is over, and the registers stand. -/
def Leaves (s t : State) : Prop := t.core.act = none ∧ t.core.regs = s.core.regs

section
variable {s : State} {a : Activation} (ha : s.core.act = some a)
include ha

theorem leaves_endActivation : Leaves s s.endActivation := ⟨State.endActivation_act ha, State.endActivation_regs ha⟩

theorem leaves_endKill (k : KillReq) : Leaves s (s.endActivation.kill k) :=
  ⟨(State.kill_act k _).trans (State.endActivation_act ha), (State.kill_regs k _).trans (State.endActivation_regs ha)⟩

theorem leaves_containRetry (b : Activation) : Leaves s (containRetry b s) := by
  unfold containRetry
  split
  · exact leaves_endActivation ha
  · exact ⟨rfl, rfl⟩

theorem leaves_containFrom (slot : BitVec 12) (b : Activation) (h : Header) (n : Nat) : Leaves s (containFrom slot b h n s) := by
  induction n with
  | zero => exact leaves_endKill ha { slot := slot.toNat, wid := 0, low := 64 }
  | succ k ih =>
    simp only [containFrom]
    split
    · exact leaves_endActivation ha
    · split
      · exact leaves_containRetry ha b
      · exact ih
    · exact leaves_endKill ha _
    · exact ih

theorem leaves_contain : Leaves s (contain s) := by
  simp only [contain, ha]
  split
  · exact leaves_containFrom ha _ _ _ _
  · exact leaves_endActivation ha

end

theorem dissolve_alone {s : State} (h : s.core.ganged = false) : dissolve s = s := by
  simp only [dissolve, h, Bool.false_eq_true, if_false]

/-- A precise trap of a core alone ends its activation, with its cause and value. -/
theorem trapNow_ends {s : State} (ha : s.core.act.isSome = true) (hm : s.core.mgmt = false) (hg : s.core.ganged = false)
    (c : Cause) (v : Word) : (s.trapNow c v).core.act = none ∧ (s.trapNow c v).core.regs.tcause = causeWord c false none ∧ (s.trapNow c v).core.regs.tval = v := by
  obtain ⟨a, ha⟩ := Option.isSome_iff_exists.1 ha
  have h : s.trapNow c v = contain (s.mapCore fun k => k.setTrap s.grove.cycle (tcauseOf c false none) s.core.regs.pc v c.code) := by
    simp only [State.trapNow, takeTrap, hm, Bool.false_eq_true, if_false]
    exact congrArg contain (by refine dissolve_alone ?_; exact hg)
  obtain ⟨hact, hregs⟩ := leaves_contain (s := s.mapCore fun k => k.setTrap s.grove.cycle (tcauseOf c false none) s.core.regs.pc v c.code) (a := a) ha
  rw [h]
  exact ⟨hact, by rw [hregs]; rfl, by rw [hregs]; rfl⟩

/-! ### A message's start (R31, R286, R289) -/

section
variable {e : BitVec 128} {r : MRec}

theorem dispatchFault_hnone (hv : entryV e = false) : dispatchFault e r = some (.hnone, BitVec.ofNat 64 r.typ.val) := by
  simp only [dispatchFault, hv, if_true]

theorem dispatchFault_hlen (hv : entryV e = true) (h : entryLchk e ≠ 0x3FF) (hl : entryLchk e ≠ r.len) :
    dispatchFault e r = some (.hlen, BitVec.ofNat 64 r.len) := by
  simp only [dispatchFault, hv, Bool.true_eq_false, if_false, if_pos (And.intro h hl)]

theorem dispatchFault_lenOk (hv : entryV e = true) (hl : entryLchk e = 0x3FF ∨ entryLchk e = r.len) :
    dispatchFault e r = if hdrCC r.h0 = true ∧ entryCP e = false then some (.ccode, BitVec.ofNat 64 (r.off + 16)) else none := by
  have h : ¬(entryLchk e ≠ 0x3FF ∧ entryLchk e ≠ r.len) := fun ⟨h1, h2⟩ => hl.elim h1 h2
  simp only [dispatchFault, hv, Bool.true_eq_false, if_false, if_neg h]

end

theorem dispatchFault_none {a : Actor} {r : MRec} (h : Starts a r) : dispatchFault a.handlers[r.typ] r = none := by
  obtain ⟨hv, hl, hc⟩ := h
  rw [dispatchFault_lenOk hv hl, if_neg]
  exact fun ⟨hcc, hcp⟩ => Bool.false_ne_true (hcp.symm.trans (hc hcc))

/-- The registers of the start of a message that raises no fault. -/
def messageRegs (a : Actor) (r : MRec) : Regs :=
  let pay : Word := BitVec.ofNat 64 (r.off + 16)
  startRegs (if hdrCC r.h0 then pay else codePc (entryCode a.handlers[r.typ])) #v[pay, r.h0, r.h1, BitVec.ofNat 64 r.len, 0] a.wid a.aid a.mode.val a.seed
    a.stream a.ctr

/-- What a start of an activation leaves the core with. -/
structure StartedAs (s t : State) (r : Regs) (src : ActSrc) (slot : BitVec 12) (cls : Fin 8) (base size n : Nat) : Prop where
  regs : t.core.regs = r
  act : ∃ b, t.core.act = some b ∧ b.src = src ∧ b.base = base ∧ b.size = size ∧ b.slot = slot ∧ b.cls = cls ∧ b.retries = n
  alone : t.core.ganged = false
  scratch : t.core.scratch = s.core.scratch

theorem startMessage_started {a : Actor} {r : MRec} (h : Starts a r) (n : Nat) (s : State) :
    StartedAs s (startMessage a r n s) (messageRegs a r) (.message a.aid r.off) a.slot r.filed a.base a.size n := by
  have hf := dispatchFault_none h
  have hregs : (startMessage a r n s).core.regs = messageRegs a r := by
    simp only [startMessage, hf]
    cases hcc : hdrCC r.h0 <;> simp [messageRegs, Core.begin, Core.note, hcc]
  refine ⟨hregs, ?_, ?_, ?_⟩ <;> simp only [startMessage, hf]
  · exact ⟨_, rfl, rfl, rfl, rfl, rfl, rfl, rfl⟩
  · rfl
  · rfl

theorem startMessage_faults {a : Actor} {r : MRec} {c : Cause} {v : Word} (h : dispatchFault a.handlers[r.typ] r = some (c, v)) (n : Nat) {s : State}
    (hm : s.core.mgmt = false) :
    (startMessage a r n s).core.act = none ∧ (startMessage a r n s).core.regs.tcause = causeWord c false none ∧ (startMessage a r n s).core.regs.tval = v := by
  simp only [startMessage, h]
  refine trapNow_ends ?_ ?_ ?_ c v
  · rfl
  · exact hm
  · rfl

theorem preemptRerun_idle {s : State} (h : s.core.act = none) : preemptRerun s = s := by simp [preemptRerun, h]

/-- A pre-emption request that stands changes neither the registers of the start nor what the activation is. -/
theorem StartedAs.preemptRerun {s t : State} {r : Regs} {src : ActSrc} {slot : BitVec 12} {cls : Fin 8} {base size n : Nat}
    (h : StartedAs s t r src slot cls base size n) : StartedAs s (preemptRerun t) r src slot cls base size n := by
  obtain ⟨hregs, ⟨b, hb, hsrc, hbase, hsize, hslot, hcls, hn⟩, hg, hscr⟩ := h
  unfold Machine.preemptRerun
  split
  · rw [preempt, State.mapMembers_alone hg]
    exact ⟨hregs, ⟨{ b with arrived := none }, by simp [Core.unissue, hb], hsrc, hbase, hsize, hslot, hcls, hn⟩, hg, hscr⟩
  · exact ⟨hregs, ⟨b, hb, hsrc, hbase, hsize, hslot, hcls, hn⟩, hg, hscr⟩

theorem exec_messageDispatch (aid off : Nat) (s : State) : exec (.messageDispatch aid off) s = execMessageDispatch aid off s := rfl
theorem exec_retryDispatch (s : State) : exec .retryDispatch s = execRetryDispatch s := rfl
theorem exec_taskDispatch (src : TaskSrc) (s : State) : exec (.taskDispatch src) s = execTaskDispatch src s := rfl

/-- A core that may dispatch is in no management path. -/
theorem State.mayDispatch_mgmt {s : State} (h : s.mayDispatch = true) : s.core.mgmt = false := by
  simp only [State.mayDispatch, State.idle, Bool.and_eq_true, Bool.not_eq_true'] at h
  obtain ⟨_, ⟨⟨⟨_, hm⟩, _⟩, _⟩, _⟩ := h
  exact hm

/-- A record of an actor of the core is dispatched by R47's choice, or run again from its retained copy. -/
def MessageDue (s : State) (a : Actor) (r : MRec) (i : Instr) (n : Nat) : Prop :=
  Redispatched s i n (.message a.aid r.off) (r ∈ a.recs ∧ a.recs.find? (fun e => e.off == r.off && !e.pad) = some r)
    ∨ (s.mayDispatch = true ∧ (∃ k, s.pick = some (.message k a r)) ∧ i = .messageDispatch a.aid.toNat r.off ∧ n = 0)

theorem retryDispatch_eq {s : State} {i : Instr} {n : Nat} {src : ActSrc} {more : Prop} (h : Redispatched s i n src more) :
    ∃ x, s.core.retry = some x ∧ x.src = src ∧ x.retries = n ∧ ¬(s.core.act.isSome = true ∨ s.core.stopped = true ∨ s.core.mgmt = true ∨ s.settled = false)
      ∧ exec i s = execRetryDispatch s := by
  obtain ⟨⟨x, hx, hsrc, rfl⟩, hact, hstop, hm, hset, rfl, _⟩ := h
  exact ⟨x, hx, hsrc, rfl, by simp [hact, hstop, hm, hset], exec_retryDispatch s⟩

/-- The start that a due message's event makes, with a pre-emption request that stands taken in it. -/
theorem MessageDue.starts {s : State} {a : Actor} {r : MRec} {i : Instr} {n : Nat} (ha : s.core.actor a.aid = some a) (h : MessageDue s a r i n) :
    ∃ u t, exec i s = .next t ∧ (t = startMessage a r n u ∨ t = preemptRerun (startMessage a r n u)) ∧ u.core.mgmt = false
      ∧ u.core.scratch = s.core.scratch := by
  rcases h with h | ⟨hd, ⟨k, hp⟩, rfl, rfl⟩
  · obtain ⟨x, hx, hsrc, rfl, hfree, hex⟩ := retryDispatch_eq h
    obtain ⟨_, _, _, hm, _, _, _, hfind⟩ := h
    refine ⟨s, _, ?_, .inr rfl, hm, rfl⟩
    rw [hex]
    simp only [execRetryDispatch, hx, if_neg hfree, hsrc, ha, Option.bind_some, hfind, Option.map_some]
  · refine ⟨s.mapCore fun c => c.serve r.filed.val k, _, ?_, .inl rfl, (State.mayDispatch_mgmt hd :), rfl⟩
    rw [exec_messageDispatch]
    simp only [execMessageDispatch, hd, if_true, hp, and_self]

theorem message_starts {s : State} {a : Actor} {r : MRec} {i : Instr} {n : Nat} (ha : s.core.actor a.aid = some a) (h : MessageDue s a r i n)
    (hs : Starts a r) : ∃ t, exec i s = .next t ∧ StartedAs s t (messageRegs a r) (.message a.aid r.off) a.slot r.filed a.base a.size n := by
  obtain ⟨u, t, hex, ht, _, hscr⟩ := h.starts ha
  obtain ⟨hregs, hact, hg, hsc⟩ : StartedAs u t (messageRegs a r) (.message a.aid r.off) a.slot r.filed a.base a.size n := by
    rcases ht with rfl | rfl
    · exact startMessage_started hs n u
    · exact (startMessage_started hs n u).preemptRerun
  exact ⟨t, hex, hregs, hact, hg, hsc.trans hscr⟩

theorem message_faults {s : State} {a : Actor} {r : MRec} {i : Instr} {n : Nat} (ha : s.core.actor a.aid = some a) (h : MessageDue s a r i n)
    {c : Cause} {v : Word} (hf : dispatchFault a.handlers[r.typ] r = some (c, v)) :
    ∃ t, exec i s = .next t ∧ t.core.act = none ∧ t.core.regs.tcause = causeWord c false none ∧ t.core.regs.tval = v := by
  obtain ⟨u, t, hex, ht, hm, _⟩ := h.starts ha
  have hfaults := startMessage_faults hf n hm
  have ht : t = startMessage a r n u := by
    rcases ht with rfl | rfl
    · rfl
    · exact preemptRerun_idle hfaults.1
  exact ⟨t, hex, ht ▸ hfaults⟩

/-- The first clause: what a due message's record comes to. -/
theorem message_dispatch (s : State) (a : Actor) (r : MRec) (i : Instr) (n : Nat) (ha : s.core.actor a.aid = some a) (h : MessageDue s a r i n) :
    let e := a.handlers[r.typ]
    let pay : Word := BitVec.ofNat 64 (r.off + 16)
    let faults (c : Cause) (v : Word) : Prop := ∃ t, exec i s = .next t ∧ t.core.act = none ∧ t.core.regs.tcause = causeWord c false none ∧ t.core.regs.tval = v
    (Starts a r → ∃ t, exec i s = .next t
      ∧ StartsWith t.core.regs (if hdrCC r.h0 then pay else BitVec.ofNat 64 (0x1000 * 2 ^ 48 + entryCode e)) pay r.h0 r.h1 (BitVec.ofNat 64 r.len) 0 a.wid a.aid a.mode.val a.seed a.stream a.ctr
      ∧ (∃ b, t.core.act = some b ∧ b.src = .message a.aid r.off ∧ b.base = a.base ∧ b.size = a.size ∧ b.slot = a.slot ∧ b.cls = r.filed ∧ b.retries = n)
      ∧ t.core.scratch = s.core.scratch)
    ∧ (entryV e = false → faults .hnone (BitVec.ofNat 64 r.typ.val))
    ∧ (entryV e = true → entryLchk e ≠ 0x3FF → entryLchk e ≠ r.len → faults .hlen (BitVec.ofNat 64 r.len))
    ∧ (entryV e = true → entryLchk e = 0x3FF ∨ entryLchk e = r.len → hdrCC r.h0 = true → entryCP e = false → faults .ccode pay) := by
  intro e pay faults
  refine ⟨fun hs => ?_, fun hv => ?_, fun hv h1 h2 => ?_, fun hv hl hcc hcp => ?_⟩
  · obtain ⟨t, hex, hregs, hact, _, hscr⟩ := message_starts ha h hs
    refine ⟨t, hex, ?_, hact, hscr⟩
    rw [hregs, messageRegs, codePc_of_lt (entryCode_lt _)]
    exact startsWith_startRegs _ #v[pay, r.h0, r.h1, BitVec.ofNat 64 r.len, 0] _ _ _ _ _ _
  · exact message_faults ha h (dispatchFault_hnone hv)
  · exact message_faults ha h (dispatchFault_hlen hv h1 h2)
  · exact message_faults ha h ((dispatchFault_lenOk hv hl).trans (if_pos ⟨hcc, hcp⟩))

end Sys2Proof.Machine
end

section
/-!
SUPPORT. Task dispatch: the record that R45 finds, taken from its source and started (02_execution.md R31, R32, R45 to R48; 22_scheduling_faults.md
R335, R336).
-/
namespace Sys2Proof.Machine

/-! ### Launches looked up -/

/-- A launch found after launches that keep their slots are changed. -/
theorem Pkg.launch_mapLaunch (p : Pkg) (slot x : BitVec 12) {f : Launch → Launch} (hf : ∀ l, (f l).slot = l.slot) :
    (p.mapLaunch slot f).launch x = (p.launch x).map fun l => if l.slot = slot then f l else l := by
  have h : ∀ l : Launch, (if l.slot = slot then f l else l).slot = l.slot := fun l => by split <;> simp [hf]
  simp only [Pkg.launch, Pkg.mapLaunch, List.find?_map, Function.comp_def, h]

theorem Pkg.launch_slot {p : Pkg} {x : BitVec 12} {l : Launch} (h : p.launch x = some l) : l.slot = x :=
  eq_of_beq (List.find?_some (p := fun l : Launch => l.slot == x) h)

/-- A change of launches that keeps slots and headers leaves the header of each. -/
theorem Pkg.launch_hdr_mapLaunch (p : Pkg) (slot x : BitVec 12) {f : Launch → Launch} (hf : ∀ l, (f l).slot = l.slot) (hh : ∀ l, (f l).hdr = l.hdr) :
    ((p.mapLaunch slot f).launch x).map (fun l => l.hdr) = (p.launch x).map fun l => l.hdr := by
  rw [Pkg.launch_mapLaunch p slot x hf, Option.map_map]
  congr 1
  funext l
  simp only [Function.comp]
  split <;> simp [hh]

/-! ### The record that is found (R45) -/

theorem mem_numbered {l : List QRec} {j : Nat} {q : QRec} (h : (j, q) ∈ numbered l) : l[j]? = some q := by
  obtain ⟨i, hi⟩ := List.mem_iff_getElem?.1 h
  obtain ⟨hj, hq⟩ := List.getElem?_zip_eq_some.1 hi
  obtain ⟨_, hij⟩ := List.getElem?_eq_some_iff.1 hj
  rw [List.getElem_range] at hij
  exact (congrArg (l[·]?) hij).symm.trans hq

/-- The records of a source. -/
def State.recsOf (s : State) : TaskSrc → List QRec
  | .own => s.grove.deques[s.core.ix]
  | .steal v => s.grove.deques[(Fin.ofNat 32 v : Fin 32)]
  | .overflow => s.grove.overflow

/-- What is found stands in its source, at the place that is given. -/
theorem nextTask_mem {s : State} {src : TaskSrc} {j : Nat} {q : QRec} (h : s.nextTask = some (src, j, q)) : (s.recsOf src)[j]? = some q := by
  simp only [State.nextTask] at h
  split at h
  · rename_i p hp
    cases h
    exact mem_numbered (List.mem_reverse.1 (List.mem_of_find?_eq_some hp))
  · split at h
    · rename_i p hp
      cases h
      obtain ⟨k, _, hk⟩ := List.exists_of_findSome?_eq_some hp
      obtain ⟨q', hq', he⟩ := Option.map_eq_some_iff.1 hk
      cases he
      have hm := mem_numbered (List.mem_of_find?_eq_some hq')
      simpa [State.recsOf] using hm
    · obtain ⟨q', hq', he⟩ := Option.map_eq_some_iff.1 h
      cases he
      exact mem_numbered (List.mem_of_find?_eq_some hq')

/-- The rotation picks one of the choices. -/
theorem foldl_firstTurn_mem (last : Nat) (l : List Pick) (b : Option Pick) {p : Pick} (h : l.foldl (firstTurn last) b = some p) :
    p ∈ l ∨ b = some p := by
  induction l generalizing b with
  | nil => exact .inr h
  | cons x t ih =>
    rcases ih _ h with hm | hb
    · exact .inl (List.mem_cons_of_mem _ hm)
    · cases b with
      | none => cases hb; exact .inl List.mem_cons_self
      | some y =>
        simp only [firstTurn] at hb
        split at hb
        · cases hb; exact .inl List.mem_cons_self
        · exact .inr hb

/-- A task that is chosen is the one that R45 finds. -/
theorem pick_task {s : State} {src : TaskSrc} {j : Nat} {q : QRec} (h : s.pick = some (.task src j q)) : s.nextTask = some (src, j, q) := by
  have hm : Pick.task src j q ∈ s.picks := by
    rcases foldl_firstTurn_mem _ _ _ h with hm | hb
    · exact (List.mem_filter.1 hm).1
    · cases hb
  simp only [State.picks, List.mem_append, List.mem_flatMap] at hm
  rcases hm with ⟨p, _, hp⟩ | ht
  · split at hp
    · obtain ⟨r, _, hr⟩ := List.mem_map.1 hp
      cases hr
    · cases hp
  · split at ht
    · rename_i e
      cases List.mem_singleton.1 ht
      exact e
    · cases ht

/-! ### A single record taken and started -/

theorem ensurePeers_zero (s : State) : ensurePeers 0 s = s := by simp [ensurePeers]

theorem takeRecs_one {l : List QRec} {j : Nat} {q : QRec} (h : l[j]? = some q) : (takeRecs l j 1).1 = [q] := by
  obtain ⟨hj, hq⟩ := List.getElem?_eq_some_iff.1 h
  simp only [takeRecs]
  rw [List.drop_eq_getElem_cons hj, hq]
  rfl

/-- The record of one core taken from its source: itself, and only the grove changes. -/
theorem removeTask_one {s : State} {src : TaskSrc} {j : Nat} {r : TaskRec} (h : (s.recsOf src)[j]? = some (.task r)) (hg : r.gang ≤ 1) :
    ∃ g, s.removeTask src j (.task r) = ([.task r], { s with grove := g }) := by
  have hw : (QRec.task r).width = 1 := by simp only [QRec.width]; omega
  cases src <;> simp only [State.removeTask, hw] <;> exact ⟨_, Prod.ext (takeRecs_one h) rfl⟩

theorem giveCore_scratch (l : Launch) (s : State) : (giveCore l s).core.scratch = s.core.scratch := by
  unfold giveCore
  simp only
  split <;> rfl

theorem giveCore_hdr (l : Launch) (s : State) (x : BitVec 12) :
    ((giveCore l s).pkg.launch x).map (fun l => l.hdr) = (s.pkg.launch x).map fun l => l.hdr := by
  have h : ∀ f : Launch → Launch, (∀ l, (f l).slot = l.slot) → (∀ l, (f l).hdr = l.hdr) →
      ((s.pkg.mapLaunch l.slot f).launch x).map (fun l => l.hdr) = (s.pkg.launch x).map fun l => l.hdr :=
    fun f hf hh => Pkg.launch_hdr_mapLaunch s.pkg l.slot x hf hh
  unfold giveCore
  simp only
  split <;> exact h _ (fun l => by split <;> rfl) (fun l => by split <;> rfl)

/-- A task's launch given to a core leaves its storage and the launches' headers. -/
theorem assignTask_leaves (s : State) (slot x : BitVec 12) :
    (s.assignTask slot).core.scratch = s.core.scratch
      ∧ ((s.assignTask slot).pkg.launch x).map (fun l => l.hdr) = (s.pkg.launch x).map fun l => l.hdr := by
  simp only [State.assignTask]
  split
  · rename_i l _
    have h : ∀ u : State, u.core.scratch = s.core.scratch → u.pkg = s.pkg →
        (giveCore l u).core.scratch = s.core.scratch
          ∧ ((giveCore l u).pkg.launch x).map (fun l => l.hdr) = (s.pkg.launch x).map fun l => l.hdr :=
      fun u hu hp => ⟨(giveCore_scratch l u).trans hu, (giveCore_hdr l u x).trans (by rw [hp])⟩
    split
    · exact h s rfl rfl
    · split
      · exact h _ rfl rfl
      · exact h s rfl rfl
  · exact ⟨rfl, rfl⟩

/-- The registers of a task's start under a header. -/
def taskRegs (r : TaskRec) (h : Header) : Regs := startRegs (codePc r.pc.toNat) r.args r.wid 0 h.mode h.seed r.wid 0

theorem startTask_started {r : TaskRec} {h : Header} {s : State} (hl : (s.pkg.launch r.slot).map (fun l => l.hdr) = some h) (n : Nat) :
    StartedAs s.freeScratch (startTask r n s) (taskRegs r h) (.task r) r.slot r.cls 0x3C000 0x4000 n := by
  simp only [startTask, hl]
  generalize s.freeScratch = u
  exact ⟨rfl, ⟨_, rfl, rfl, rfl, rfl, rfl, rfl, rfl⟩, rfl, rfl⟩

/-- The free contents of a task scratch area. -/
def State.freeBytes (s : State) : List Byte := (List.range 0x4000).map fun i => Config.freeByte (s.fresh + i)

theorem freeScratch_scratch (s : State) : s.freeScratch.core.scratch = s.core.scratch.writeN 0x3C000 s.freeBytes := by
  simp only [State.freeScratch]
  generalize hb : (List.range 0x4000).map (fun i => Config.freeByte (s.fresh + i)) = bs
  rw [State.freeBytes, hb]
  rfl

/-- They leave the rest of the scratchpad. -/
theorem freeScratch_localByte {s : State} (hwf : s.core.scratch.wf = true) {q : Nat} (hq : ¬(0x3C000 ≤ q ∧ q < 0x40000)) :
    s.freeScratch.core.scratch.read q = s.core.scratch.read q := by
  have hn : s.freeBytes.length = 0x4000 := by simp only [State.freeBytes, List.length_map, List.length_range]
  rw [freeScratch_scratch, Mem.read_writeN 0x3C000 q s.freeBytes hwf, hn, if_neg (by omega)]

/-! ### A task's start settled -/

/-- A record is dispatched by R47's choice, or run again from its retained copy. -/
def TaskDue (s : State) (r : TaskRec) (i : Instr) (n : Nat) : Prop :=
  (s.mayDispatch = true ∧ (∃ src j, s.pick = some (.task src j (.task r)) ∧ i = .taskDispatch src) ∧ n = 0)
    ∨ Redispatched s i n (.task r) (s.core.hasScratch = true)

/-- The start that a due task's event makes, with a pre-emption request that stands taken in it. -/
theorem TaskDue.starts {s : State} {r : TaskRec} {l : Launch} {i : Instr} {n : Nat} (hl : s.pkg.launch r.slot = some l) (hg : r.gang ≤ 1)
    (h : TaskDue s r i n) :
    ∃ u t, exec i s = .next t ∧ (t = startTask r n u ∨ t = preemptRerun (startTask r n u))
      ∧ (u.pkg.launch r.slot).map (fun l => l.hdr) = some l.hdr ∧ u.core.scratch = s.core.scratch := by
  have hhdr : (s.pkg.launch r.slot).map (fun l => l.hdr) = some l.hdr := by rw [hl]; rfl
  rcases h with ⟨hd, ⟨src, j, hp, rfl⟩, rfl⟩ | h
  · have hrec := nextTask_mem (pick_task hp)
    have hw : (QRec.task r).width = 1 := by simp only [QRec.width]; omega
    obtain ⟨g, hrem⟩ := removeTask_one (s := s.mapCore fun c => c.serve (QRec.task r).cls 16) (src := src) (by cases src <;> exact hrec) hg
    obtain ⟨hscr, hlaunch⟩ := assignTask_leaves { s.mapCore (fun c => c.serve (QRec.task r).cls 16) with grove := g } r.slot r.slot
    refine ⟨_, _, ?_, .inl rfl, hlaunch.trans hhdr, hscr⟩
    rw [exec_taskDispatch]
    simp only [execTaskDispatch, hd, if_true, hp, hrem, hw, Nat.sub_self, ensurePeers_zero, unitOf, startUnit, focus_zero, startRec, QRec.slot]
  · obtain ⟨x, hx, hsrc, rfl, hfree, hex⟩ := retryDispatch_eq h
    obtain ⟨_, _, _, _, _, _, hscr⟩ := h
    refine ⟨s, _, ?_, .inr rfl, hhdr, rfl⟩
    rw [hex]
    simp only [execRetryDispatch, hx, if_neg hfree, hsrc, hscr, if_true]

/-- The second clause: what a due task's record comes to. -/
theorem task_dispatch (s : State) (r : TaskRec) (l : Launch) (i : Instr) (n : Nat) (hl : s.pkg.launch r.slot = some l) (hg : r.gang ≤ 1)
    (hwf : s.core.scratch.wf = true) (h : TaskDue s r i n) :
    ∃ t, exec i s = .next t
      ∧ StartsWith t.core.regs (BitVec.ofNat 64 (0x1000 * 2 ^ 48 + r.pc.toNat)) r.args[0] r.args[1] r.args[2] r.args[3] r.args[4] r.wid 0 l.hdr.mode l.hdr.seed r.wid 0
      ∧ (∃ b, t.core.act = some b ∧ b.src = .task r ∧ b.base = 0x3C000 ∧ b.size = 0x4000 ∧ b.slot = r.slot ∧ b.cls = r.cls ∧ b.retries = n)
      ∧ ∀ q, ¬(0x3C000 ≤ q ∧ q < 0x40000) → t.localByte q = s.localByte q := by
  obtain ⟨u, t, hex, ht, hhdr, hscr⟩ := h.starts hl hg
  obtain ⟨hregs, hact, _, hsc⟩ : StartedAs u.freeScratch t (taskRegs r l.hdr) (.task r) r.slot r.cls 0x3C000 0x4000 n := by
    rcases ht with rfl | rfl
    · exact startTask_started hhdr n
    · exact (startTask_started hhdr n).preemptRerun
  refine ⟨t, hex, ?_, hact, fun q hq => ?_⟩
  · rw [hregs, taskRegs, codePc_of_lt r.pc.isLt]
    exact startsWith_startRegs _ r.args _ _ _ _ _ _
  · rw [State.localByte, hsc, freeScratch_localByte (by rw [hscr]; exact hwf) hq, hscr]
    rfl

end Sys2Proof.Machine
end

section
/-!
SUPPORT. The placer's initial records written into the overflow ring (22_scheduling_faults.md R335).
-/
namespace Sys2Proof.Machine

/-- What the state of a feed leaves alone beside the ring. -/
theorem joinGrove_leaves (l : Launch) (s : State) :
    (joinGrove l s).core = s.core ∧ (joinGrove l s).pkg = s.pkg ∧ (joinGrove l s).grove.overflow = s.grove.overflow
      ∧ (joinGrove l s).grove.overflowCap = s.grove.overflowCap := by
  unfold joinGrove
  split <;> exact ⟨rfl, rfl, rfl, rfl⟩

/-- The initial record of item i of a launch. -/
def FirstRecord (l : Launch) (i : Nat) (q : QRec) : Prop :=
  ∃ r, q = .task r ∧ r.slot = l.slot ∧ r.cls.val = l.hdr.cls % 8 ∧ r.pc = l.hdr.code.setWidth 48 ∧ r.wid = l.hdr.itemWid i ∧ r.join = 0

theorem firstRec_firstRecord (l : Launch) (i : Nat) (s : State) : FirstRecord l i (firstRec l (l.hdr.itemWid i) s).1 :=
  ⟨_, rfl, rfl, rfl, rfl, rfl, rfl⟩

/-- Records rs of a launch, at most n, that a feed wrote: fewer than n where the ring had no more room. -/
structure Fed (l : Launch) (n : Nat) (s t : State) (rs : List QRec) : Prop where
  ring : t.grove.overflow = s.grove.overflow ++ rs
  count : rs.length ≤ n
  regs : t.core.regs = s.core.regs
  full : rs.length < n → 4096 ≤ ringOfLaunch l.slot t.grove.overflow ∨ s.grove.overflowCap ≤ t.grove.overflow.length
  recs : ∀ j q, rs[j]? = some q → FirstRecord l (l.next + j) q
  next : (t.pkg.launch l.slot).map (fun x => x.next) = some (l.next + rs.length)

theorem ringRoom_iff {l : Launch} (hg : l.hdr.gang = 1) (s : State) :
    s.ringRoom l = true ↔ ringOfLaunch l.slot s.grove.overflow < 4096 ∧ s.grove.overflow.length < s.grove.overflowCap := by
  simp only [State.ringRoom, hg, Bool.and_eq_true, decide_eq_true_eq, Nat.succ_le_iff]

/-- Nothing is written. -/
theorem Fed.nil {l : Launch} {n : Nat} {s : State} (hl : s.pkg.launch l.slot = some l)
    (h : n = 0 ∨ 4096 ≤ ringOfLaunch l.slot s.grove.overflow ∨ s.grove.overflowCap ≤ s.grove.overflow.length) : Fed l n s s [] where
  ring := (List.append_nil _).symm
  count := Nat.zero_le n
  regs := rfl
  full := fun hn => h.resolve_left fun h0 => by simp [h0] at hn
  recs := fun j q hj => by simp at hj
  next := by rw [hl]; rfl

/-- The launch with one more record written. -/
def Launch.passed (l : Launch) : Launch := { l with next := l.next + 1 }

/-- One unit of one record written into the ring. -/
def State.fed (l : Launch) (s : State) : State :=
  { s with
    fresh := s.fresh + 5
    grove := { s.grove with overflow := s.grove.overflow ++ [(firstRec l (l.hdr.itemWid l.next) s).1] }
    pkg := s.pkg.mapLaunch l.slot Launch.passed }

theorem fed_launch {l : Launch} {s : State} (hl : s.pkg.launch l.slot = some l) : (s.fed l).pkg.launch l.passed.slot = some l.passed := by
  have h := Pkg.launch_mapLaunch s.pkg l.slot l.slot (f := Launch.passed) fun _ => rfl
  rw [hl, Option.map_some, if_pos rfl] at h
  exact h

/-- One record, and then those of the rest. -/
theorem Fed.cons {l : Launch} {n : Nat} {s t : State} {rs : List QRec} (h : Fed l.passed n (s.fed l) t rs) :
    Fed l (n + 1) s t ((firstRec l (l.hdr.itemWid l.next) s).1 :: rs) where
  ring := by rw [h.ring, State.fed, List.append_assoc]; rfl
  count := Nat.succ_le_succ h.count
  regs := h.regs
  full := fun hn => h.full (Nat.lt_of_succ_lt_succ hn)
  recs := fun j q hj => by
    cases j with
    | zero => cases hj; exact firstRec_firstRecord l l.next s
    | succ j =>
      have := h.recs j q hj
      rwa [show l.passed.next + j = l.next + (j + 1) by simp only [Launch.passed]; omega] at this
  next := by
    have := h.next
    rwa [show l.passed.next + rs.length = l.next + (rs.length + 1) by simp only [Launch.passed]; omega] at this

theorem skips_none {l : Launch} (hr : l.report = none) (hk : l.killed = []) (wid : Word) : l.skips wid = false := by simp [Launch.skips, hr, hk]

section
variable {l : Launch} {s : State} (hl : s.pkg.launch l.slot = some l) (hr : l.report = none) (hk : l.killed = []) (hg : l.hdr.gang = 1)
include hl hr hk hg

theorem feedUnits_full (n : Nat) (h : s.ringRoom l = false) : feedUnits l.slot n s = s := by
  cases n with
  | zero => rfl
  | succ n => simp [feedUnits, hl, hg, skips_none hr hk, h]

theorem feedUnits_room (n : Nat) (h : s.ringRoom l = true) : feedUnits l.slot (n + 1) s = feedUnits l.slot n (s.fed l) := by
  simp [feedUnits, hl, hg, skips_none hr hk, h, firstRecs]
  rfl

end

/-- The units of a launch that the ring has room for are written. -/
theorem feedUnits_fed {l : Launch} {s : State} (n : Nat) (hl : s.pkg.launch l.slot = some l) (hr : l.report = none) (hk : l.killed = [])
    (hg : l.hdr.gang = 1) : ∃ rs, Fed l n s (feedUnits l.slot n s) rs ∧ (s.ringRoom l = true → 1 ≤ n → 1 ≤ rs.length) := by
  induction n generalizing l s with
  | zero => exact ⟨[], .nil hl (.inl rfl), fun _ h => absurd h (by omega)⟩
  | succ n ih =>
    cases h : s.ringRoom l with
    | true =>
      obtain ⟨rs, hrs, _⟩ := ih (l := l.passed) (s := s.fed l) (fed_launch hl) hr hk hg
      rw [feedUnits_room hl hr hk hg n h]
      exact ⟨_, hrs.cons, fun _ _ => by simp⟩
    | false =>
      rw [feedUnits_full hl hr hk hg _ h]
      have hno := mt (ringRoom_iff hg s).2 (by rw [h]; exact Bool.false_ne_true)
      exact ⟨[], .nil hl (.inr (by omega)), fun h => absurd h Bool.false_ne_true⟩

theorem Launch.run_pos (l : Launch) : 1 ≤ l.run := by
  simp only [Launch.run]
  split
  · exact Nat.le_max_left _ _
  · exact Nat.le_refl 1

theorem exec_overflowRingFeed (n : Nat) (s : State) : exec (.overflowRingFeed n) s = execOverflowRingFeed n s := rfl

/-- The third clause: a launch's run written into the ring, as far as it has room. -/
theorem overflowRingFeed_fed (s : State) (l : Launch) (n : Nat) (hn : n < 4096) (hl : s.pkg.launch (BitVec.ofNat 12 n) = some l) (hon : s.grove.on = true)
    (hact : l.hdr.actors = false) (hnext : l.next < l.hdr.items) (hrep : l.report = none) (htakes : s.groveTakes l = true) (hk : l.killed = [])
    (hg : l.hdr.gang = 1) (hring : ringOfLaunch l.slot s.grove.overflow < 4096) (hcap : s.grove.overflow.length < s.grove.overflowCap) :
    ∃ t rs, exec (.overflowRingFeed n) s = .next t ∧ t.grove.overflow = s.grove.overflow ++ rs ∧ 1 ≤ rs.length ∧ rs.length ≤ l.run ∧ t.core.regs = s.core.regs
      ∧ (rs.length < l.run → 4096 ≤ ringOfLaunch l.slot t.grove.overflow ∨ s.grove.overflowCap ≤ t.grove.overflow.length)
      ∧ (∀ j q, rs[j]? = some q → ∃ r, q = .task r ∧ r.slot = l.slot ∧ r.cls.val = l.hdr.cls % 8
        ∧ r.pc = l.hdr.code.setWidth 48 ∧ r.wid = l.hdr.itemWid (l.next + j) ∧ r.join = 0)
      ∧ (t.pkg.launch l.slot).map (fun x => x.next) = some (l.next + rs.length) := by
  obtain ⟨hjc, hjp, hjo, hjcap⟩ := joinGrove_leaves l s
  have hslot := Pkg.launch_slot hl
  have hroom : s.ringRoom l = true := (ringRoom_iff hg s).2 ⟨hring, hcap⟩
  have hjroom : (joinGrove l s).ringRoom l = true := (ringRoom_iff hg _).2 (by rw [hjo, hjcap]; exact ⟨hring, hcap⟩)
  obtain ⟨rs, hfed, hpos⟩ := feedUnits_fed (s := joinGrove l s) l.run (by rw [hjp, hslot, hl]) hrep hk hg
  have hex : exec (.overflowRingFeed n) s = .next (feedUnits l.slot l.run (joinGrove l s)) := by
    have hf : l.feeds = true := by simp [Launch.feeds, hact, hnext, hrep]
    simp only [exec_overflowRingFeed, execOverflowRingFeed, hl, hf, Bool.true_eq_false, if_false, hn, if_true, hon, htakes, hroom, false_and, or_self]
  refine ⟨_, rs, hex, ?_, hpos hjroom l.run_pos, hfed.count, ?_, ?_, hfed.recs, hfed.next⟩
  · rw [hfed.ring, hjo]
  · rw [hfed.regs, hjc]
  · rw [← hjcap]; exact hfed.full

end Sys2Proof.Machine
end

section
/-!
SUPPORT. Kills, and the boundary at which a killed activation ends (02_execution.md R51; 22_scheduling_faults.md R347).
-/
namespace Sys2Proof.Machine

/-! ### A kill (R51) -/

theorem exec_kill (k : KillReq) (s : State) : exec (.kill k) s = .next (s.kill k) := rfl

/-- A task record that a kill leaves queued lies outside what it covers. -/
theorem mem_killQueued {k : KillReq} {r : TaskRec} {q : QRec} (h : .task r ∈ killQueued k q) : q = .task r ∧ killCovers k r.slot r.wid = false := by
  cases q with
  | task r' =>
    simp only [killQueued] at h
    split at h
    · cases h
    · rename_i hk
      cases List.mem_singleton.1 h
      exact ⟨rfl, Bool.eq_false_iff.2 hk⟩
  | resume ims =>
    simp only [killQueued] at h
    split at h
    · obtain ⟨im, _, him⟩ := List.mem_map.1 h
      cases him
    · cases List.mem_singleton.1 h

theorem kill_overflow (k : KillReq) (s : State) : (s.kill k).grove.overflow = s.grove.overflow.flatMap (killQueued k) := (ActorsOnly.kill k s).overflow

theorem kill_kills (k : KillReq) (s : State) : (s.kill k).core.kills = (s.core.killed k).kills := (ActorsOnly.kill k s).kills

theorem kill_retry (k : KillReq) (s : State) : (s.kill k).core.retry = (s.core.killed k).retry := (ActorsOnly.kill k s).retry

/-- The fourth clause: what a kill takes, and what it leaves. -/
theorem kill_takes (k : KillReq) (s : State) :
    ∃ t, exec (.kill k) s = .next t
      ∧ (∀ r, .task r ∈ t.grove.overflow → .task r ∈ s.grove.overflow ∧ killCovers k r.slot r.wid = false)
      ∧ (∀ a, s.core.act = some a → killCovers k a.slot s.core.regs.wid = true → s.core.retry = none → k ∈ t.core.kills)
      ∧ (∀ a, s.core.retry = some a → killCovers k a.slot s.core.regs.wid = true → t.core.retry = none)
      ∧ (∀ a, s.core.act = some a → killCovers k a.slot s.core.regs.wid = false → s.core.kills = [] → t.core.kills = [] ∧ t.core.act = some a ∧ t.core.regs = s.core.regs) := by
  refine ⟨s.kill k, exec_kill k s, fun r hr => ?_, fun a ha hc hr => ?_, fun a hr hc => ?_, fun a ha hc hk => ⟨?_, ?_, State.kill_regs k s⟩⟩
  · rw [kill_overflow] at hr
    obtain ⟨q, hq, hrq⟩ := List.mem_flatMap.1 hr
    obtain ⟨rfl, hcov⟩ := mem_killQueued hrq
    exact ⟨hq, hcov⟩
  · have hruns : killRuns k s.core = true := by simp only [killRuns, ha, hc]
    have hretry : killRetry k s.core = false := by simp only [killRetry, hr, Option.any_none]
    simp [kill_kills, Core.killed, hruns, hretry]
  · have hretry : killRetry k s.core = true := by simp only [killRetry, hr, Option.any_some, hc]
    simp [kill_retry, Core.killed, hretry]
  · have hruns : killRuns k s.core = false := by simp only [killRuns, ha, hc]
    rw [kill_kills, Core.killed]
    split <;> simp [hk, hruns]
  · rw [State.kill_act, ha]

/-! ### The boundary of a killed activation (R347) -/

theorem State.members_alone {s : State} (h : s.core.ganged = false) : s.members = 0 := by simp [State.members, h]

/-- No trap is due on a core alone that has no member to trap. -/
theorem trapDue_false {s : State} (hg : s.core.ganged = false) (h : s.trapMember = none) : s.core.trapDue = false := by
  simp only [State.trapMember, State.together_alone hg, State.members_alone hg, List.any_cons, List.any_nil, Bool.or_false] at h
  split at h
  · rename_i hv
    rcases Bool.or_eq_true_iff.1 hv with hv | hv <;> simp [Core.trapDue, hv]
  · cases hd : s.core.trapDue with
    | false => rfl
    | true => simp [focus_zero, hd] at h

theorem stopDue_false {s : State} (hg : s.core.ganged = false) (hs : s.core.dbg.stop = none) (hb : s.core.breakpoint = none) : s.stopDue = false := by
  have hbreaks : s.breaks = none := by simp [State.breaks, State.together_alone hg, hb]
  have hhere : s.stopHere = none := by
    have hcome : s.core.dbg.come s.grove.cycle = none := by simp [Debug.come, hs]
    simp [State.stopHere, State.together_alone hg, hcome, earliest]
  simp [State.stopDue, hbreaks, hhere]

/-- The fifth clause: a killed activation ends at its boundary. -/
theorem boundary_killed (s : State) (a : Activation) (ha : s.core.act = some a) (hg : s.core.ganged = false) (hk : s.core.kills ≠ [])
    (ht : s.trapMember = none) (hr : s.core.readingOut = false) (hs : s.core.dbg.stop = none) (hb : s.core.breakpoint = none)
    (hstop : s.core.stopped = false) : ∃ t, boundary s = some t ∧ t.core.act = none := by
  have hdue : ∀ n, s.core.killDue n = true := fun n => by
    simp [Core.killDue, hk, ha, hstop, trapDue_false hg ht, hs]
  have hreap : reapKills s = s.endActivation := by
    simp only [reapKills, State.members_alone hg, Nat.zero_add, List.range_one, List.foldl_cons, List.foldl_nil, focus_zero, hdue, if_true, endKilled,
      dissolve_alone hg]
  refine ⟨s.endActivation, ?_, State.endActivation_act ha⟩
  simp only [boundary, ht, Option.isSome_none, Bool.false_eq_true, if_false, State.together_alone hg, List.any_cons, List.any_nil, Bool.or_false, hr,
    stopDue_false hg hs hb, hdue, if_true, hreap]

end Sys2Proof.Machine
end

section
/-!
SUPPORT. A task's context saved (22_scheduling_faults.md R344 to R346).
-/
namespace Sys2Proof.Machine

theorem exec_contextSaveDone (s : State) : exec .contextSaveDone s = execContextSaveDone s := rfl

/-! ### Clearing requests withdrawn -/

/-- Commands of a core saved are the core's but for their grants. -/
theorem unask_cmds (s : State) :
    (s.unask.core.cmds.map fun k => { k with grant := .notNeeded }) = s.core.cmds.map fun k => { k with grant := .notNeeded } := by
  simp only [State.unask, State.mapCore, List.map_map]
  refine List.map_congr_left fun k _ => ?_
  simp only [Function.comp]
  split <;> rfl

/-- No request of the core stands that a command of it waits for. -/
theorem unask_reqs {s : State} {r : ClearReq} {k : Cmd} (hr : r ∈ s.unask.grove.reqs) (hc : r.core = s.core.ix) (hk : k ∈ s.core.cmds) (hg : k.grant = .asked) :
    k.serial ≠ r.serial := by
  intro hs
  simp only [State.unask, List.mem_filter, hc, bne_self_eq_false, Bool.false_or, Bool.not_eq_true'] at hr
  obtain ⟨hmem, hno⟩ := hr
  obtain ⟨q, hq⟩ : ∃ q, s.grove.reqs.find? (fun r => r.core == s.core.ix && r.serial == k.serial) = some q := by
    refine Option.isSome_iff_exists.1 (List.find?_isSome.2 ⟨r, hmem, ?_⟩)
    simp [hc, hs]
  refine Bool.false_ne_true (hno.symm.trans (List.any_eq_true.2 ⟨(k.serial, q.e), List.mem_filterMap.2 ⟨k, hk, ?_⟩, ?_⟩))
  · simp only [hg, hq, Option.map_some]
  · simp [hs]

/-! ### A task parked -/

theorem parkCore_task {s : State} (h : s.core.regs.aid = 0) :
    parkCore s = ((s.unask.parkSweeps.vacate s.core.regs.srctr).mapCore fun c => { c with cmds := [], begun := false }, s.unask.image 0 true) := by
  have hu : s.unask.core.regs = s.core.regs := rfl
  simp only [parkCore, hu, h, if_true]

theorem contextSaveDone_parks {s : State} {a : Activation} (ha : s.core.act = some a) (hh : s.core.halted = true) (hk : s.core.kills = [])
    (hg : s.core.ganged = false) (hp : s.mayPark = true) (hid : s.core.regs.aid = 0) :
    exec .contextSaveDone s
      = .next { (parkCore s).1 with grove := { (parkCore s).1.grove with overflow := (parkCore s).1.grove.overflow ++ [.resume [(parkCore s).2]] } } := by
  have hdue : s.core.halted = true ∧ s.core.act.isSome = true ∧ (s.together.all fun c => c.kills == []) = true :=
    ⟨hh, by rw [ha]; rfl, by rw [State.together_alone hg]; simp [hk]⟩
  have hall : ((List.range 1).all fun k => let c := (focus k s); c.core.halted && c.mayPark) = true := by simp [focus_zero, hh, hp]
  simp only [exec_contextSaveDone, execContextSaveDone, if_pos hdue, State.members_alone hg, hg, Bool.not_false, Bool.true_or, Bool.true_and, Nat.zero_add,
    hall, if_true, parkMembers, hid]

/-- The sixth clause: a task's context leaves its core for the overflow ring. -/
theorem contextSave_task (s : State) (a : Activation) (ha : s.core.act = some a) (hh : s.core.halted = true) (hk : s.core.kills = [])
    (hg : s.core.ganged = false) (hp : s.mayPark = true) (hid : s.core.regs.aid = 0) :
    ∃ t im, exec .contextSaveDone s = .next t ∧ t.core.act = none ∧ t.core.cmds = [] ∧ t.grove.overflow = s.grove.overflow ++ [.resume [im]]
      ∧ im.regs = s.core.regs ∧ im.act = some a ∧ im.await = s.core.await
      ∧ (im.cmds.map fun k => { k with grant := .notNeeded }) = (s.core.cmds.map fun k => { k with grant := .notNeeded })
      ∧ ∀ r ∈ t.grove.reqs, r.core = s.core.ix → ∀ k ∈ s.core.cmds, k.grant = .asked → k.serial ≠ r.serial := by
  refine ⟨_, (parkCore s).2, contextSaveDone_parks ha hh hk hg hp hid, ?_⟩
  rw [parkCore_task hid]
  exact ⟨rfl, rfl, rfl, rfl, ha, rfl, unask_cmds s, fun r hr hc k hk hgr => unask_reqs hr hc hk hgr⟩

end Sys2Proof.Machine
end

section
/-!
SUPPORT. A saved actor reloaded (18_messages.md R292, R293), and the starts and ends of activations settled.
-/
namespace Sys2Proof.Machine

theorem exec_actorReload (k aid base : Nat) (s : State) : exec (.actorReload k aid base) s = execActorReload k aid base s := rfl

/-! ### An actor put back (R293) -/

/-- An actor put into a free place is found there, when none of its id was resident. -/
theorem findActor_putActor {a : Actor} {l : List (Option Actor)} (k : Nat) (hfree : (l.any fun o => o.isNone) = true)
    (h : findActor a.aid l k = none) : ∃ j, findActor a.aid (putActor a l) k = some (j, a) := by
  induction l generalizing k with
  | nil => simp at hfree
  | cons o t ih =>
    cases o with
    | none => exact ⟨k, by simp [putActor, findActor]⟩
    | some b =>
      simp only [findActor] at h
      split at h
      · cases h
      · rename_i hb
        obtain ⟨j, hj⟩ := ih (k + 1) (by simpa using hfree) h
        exact ⟨j, by simp only [putActor, findActor, if_neg hb, hj]⟩

theorem giveCore_leaves (l : Launch) (s : State) : (giveCore l s).core.actors = s.core.actors ∧ (giveCore l s).pkg.evicted = s.pkg.evicted := by
  unfold giveCore
  simp only
  split <;> exact ⟨rfl, rfl⟩

/-- A launch that a core is assigned to leaves its actors, its storage and the actors that are away. -/
theorem assign_leaves (l : Launch) (s : State) :
    (assign l s).core.actors = s.core.actors ∧ (assign l s).core.scratch = s.core.scratch ∧ (assign l s).pkg.evicted = s.pkg.evicted := by
  obtain ⟨hjc, hjp, _⟩ := joinGrove_leaves l s
  have hact : (joinGrove l s).core.actors = s.core.actors := by rw [hjc]
  have hscr : (joinGrove l s).core.scratch = s.core.scratch := by rw [hjc]
  have h : ∀ u : State, u.core.actors = s.core.actors → u.core.scratch = s.core.scratch → u.pkg = s.pkg →
      (giveCore l u).core.actors = s.core.actors ∧ (giveCore l u).core.scratch = s.core.scratch ∧ (giveCore l u).pkg.evicted = s.pkg.evicted :=
    fun u ha hs hp => ⟨(giveCore_leaves l u).1.trans ha, (giveCore_scratch l u).trans hs, (giveCore_leaves l u).2.trans (by rw [hp])⟩
  simp only [assign]
  split
  · exact h _ hact hscr hjp
  · exact h _ hact hscr hjp

theorem seatAt_evicted (e : Evicted) (g : Bool) (p : Pkg) : (e.seatAt g p).evicted = p.evicted := by
  unfold Evicted.seatAt
  split <;> rfl

/-- A saved actor as it stands on its core again. -/
def Evicted.resident (e : Evicted) (base : Nat) : Actor := { e.actor with base := base, holding := e.holding }

/-- The core with the actor in a place, and its region. -/
def Core.putBack (e : Evicted) (base : Nat) (c : Core) : Core :=
  { c.dropLeft.writeScratch base e.im.region with actors := putActor (e.resident base) c.actors }

/-- The core with the planes of the matrix unit that the actor owned. -/
def Core.putPlanes (e : Evicted) (c : Core) : Core :=
  if e.im.planes = [] then c
  else { c with mac := { c.mac with planes := Vector.ofFn fun i => e.im.planes.getD i.val {}, owner := some e.actor.aid, shared := e.im.shared } }

theorem Core.putBack_scratch (e : Evicted) (base : Nat) (c : Core) : (c.putBack e base).scratch = c.scratch.writeN base e.im.region := by
  simp only [Core.putBack, Core.writeScratch, Core.dropLeft]
  split <;> rfl

theorem Core.putPlanes_leaves (e : Evicted) (c : Core) : (c.putPlanes e).actors = c.actors ∧ (c.putPlanes e).scratch = c.scratch := by
  unfold Core.putPlanes
  split <;> exact ⟨rfl, rfl⟩

/-- An actor without an activation put back on a core that its launch was given. -/
def Evicted.backOn (e : Evicted) (base : Nat) (u : State) : State :=
  { u with
    core := (u.core.putBack e base).putPlanes e
    pkg := { e.seatAt true u.pkg with
      dir := (e.seatAt true u.pkg).dir.map fun d => if d.aid = e.actor.aid then { d with at_ := .here } else d
      evicted := (e.seatAt true u.pkg).evicted.filter fun x => x.actor.aid != e.actor.aid } }

/-- The state with its core and grove given a slot's launch. -/
def State.assigned (s : State) (slot : BitVec 12) : State :=
  match s.pkg.launch slot with
  | some l => assign l s
  | none => s

theorem State.assigned_leaves (s : State) (slot : BitVec 12) :
    (s.assigned slot).core.actors = s.core.actors ∧ (s.assigned slot).core.scratch = s.core.scratch ∧ (s.assigned slot).pkg.evicted = s.pkg.evicted := by
  unfold State.assigned
  split
  · exact assign_leaves _ s
  · exact ⟨rfl, rfl, rfl⟩

theorem restoreActor_eq {e : Evicted} (ha : e.im.act = none) (base : Nat) (s : State) :
    restoreActor e base s = e.backOn base (s.assigned e.actor.slot) := by
  simp only [restoreActor, ha, Option.isSome_none, Bool.false_eq_true, if_false]
  rfl

/-- What an actor without an activation brings back: its place, its region, and its end among those that are away. -/
theorem restoreActor_leaves {e : Evicted} (ha : e.im.act = none) (base : Nat) (s : State) :
    (restoreActor e base s).core.actors = putActor (e.resident base) s.core.actors
      ∧ (restoreActor e base s).core.scratch = s.core.scratch.writeN base e.im.region
      ∧ (restoreActor e base s).pkg.evicted = s.pkg.evicted.filter fun x => x.actor.aid != e.actor.aid := by
  obtain ⟨hact, hscr, hev⟩ := s.assigned_leaves e.actor.slot
  obtain ⟨hpa, hps⟩ := Core.putPlanes_leaves e ((s.assigned e.actor.slot).core.putBack e base)
  rw [restoreActor_eq ha, ← hact, ← hscr, ← hev]
  exact ⟨hpa, hps.trans (Core.putBack_scratch e base _), by simp only [Evicted.backOn, seatAt_evicted]⟩

theorem releaseGang_leaves (s : State) :
    (releaseGang s).core.actors = s.core.actors ∧ (releaseGang s).core.scratch = s.core.scratch ∧ (releaseGang s).pkg = s.pkg := by
  unfold releaseGang
  split
  · simp only
    split <;> exact ⟨rfl, rfl, rfl⟩
  · exact ⟨rfl, rfl, rfl⟩

/-- An actor that holds no access has none performed. -/
theorem reinjected_none {s : State} {aid : BitVec 24} {j : Nat} {a : Actor} (h : findActor aid s.core.actors 0 = some (j, a)) (hh : a.holding = []) :
    s.reinjected aid = s := by
  have hk : residentAt aid s.cores 0 = some (0, a) := by simp only [State.cores, residentAt, Core.actor, h, Option.map_some]
  simp only [State.reinjected, hk, hh, List.length_nil, reinjectAll]

theorem mayReload_free {s : State} {e : Evicted} {base : Nat} (h : s.mayReload e base = true) : (s.core.actors.any fun o => o.isNone) = true := by
  simp only [State.mayReload, Core.regionOk, Bool.and_eq_true] at h
  obtain ⟨⟨⟨⟨⟨⟨⟨_, ⟨⟨_, hfree⟩, _⟩, _⟩, _⟩, _⟩, _⟩, _⟩, _⟩, _⟩ := h
  exact hfree

/-- The seventh clause: an actor without an activation, registrations or held accesses comes back to the core. -/
theorem actorReload_restores (s : State) (e : Evicted) (base : Nat) (hf : s.pkg.evicted.find? (fun x => x.actor.aid == e.actor.aid) = some e)
    (hm : s.mayReload e base = true) (hr : e.im.regions = []) (hh : e.holding = []) (ha : e.im.act = none) (hn : s.core.actor e.actor.aid = none)
    (hwf : s.core.scratch.wf = true) :
    ∃ t, exec (.actorReload 0 e.actor.aid.toNat base) s = .next t ∧ t.core.actor e.actor.aid = some { e.actor with base := base, holding := [] }
      ∧ t.pkg.evicted = s.pkg.evicted.filter (fun x => x.actor.aid != e.actor.aid)
      ∧ ∀ q, t.localByte q = if base ≤ q ∧ q < base + e.im.region.length then e.im.region.getD (q - base) 0 else s.localByte q := by
  obtain ⟨hact, hscr, hev⟩ := restoreActor_leaves ha base s
  obtain ⟨hgact, hgscr, hgpkg⟩ := releaseGang_leaves (restoreActor e base s)
  have hnone : findActor (e.resident base).aid s.core.actors 0 = none := Option.map_eq_none_iff.1 hn
  obtain ⟨j, hj⟩ := findActor_putActor 0 (mayReload_free hm) hnone
  rw [← hact, ← hgact] at hj
  have hre := reinjected_none (aid := e.actor.aid) hj hh
  refine ⟨releaseGang (restoreActor e base s), ?_, ?_, by rw [hgpkg, hev], fun q => ?_⟩
  · simp only [exec_actorReload, execActorReload, BitVec.ofNat_toNat, BitVec.setWidth_eq, hf, ensurePeers_zero, focus_zero, if_neg (show ¬8 ≤ 0 by decide),
      Nat.zero_le, hm, and_self, if_true, hr, reloadRegions, hre]
  · have hres : e.resident base = { e.actor with base := base, holding := [] } := by rw [← hh]; rfl
    exact (congrArg (Option.map Prod.snd) hj).trans (congrArg some hres)
  · rw [State.localByte, hgscr, hscr]
    exact Mem.read_writeN base q e.im.region hwf

/-- Settles O53, clause by clause: a due record starts or faults, records are fed and killed, and contexts leave and come back. -/
theorem activationsStartAndEnd : Obligations.ActivationsStartAndEnd := by
  unfold Obligations.ActivationsStartAndEnd
  exact ⟨message_dispatch, fun s r l i n hl hg hwf h => task_dispatch s r l i n hl hg hwf h, overflowRingFeed_fed, kill_takes, boundary_killed,
    contextSave_task, actorReload_restores⟩

end Sys2Proof.Machine
end

section
/-!
SUPPORT. The commit of a command: its flags, and the values that it stages for its histogram context (06_numbers.md R115 to R119;
04_formats.md R58).
-/
namespace Sys2Proof.Machine

/-! ### The greatest magnitude (R117) -/

/-- FP32's NaNs have the greatest exponent field and a mantissa field that is not 0 (R98). -/
theorem fp32_isNan_iff (n : Nat) : (FFmt.fp32.unpack n).isNan = true ↔ n % 2 ^ 31 / 2 ^ 23 = 255 ∧ n % 2 ^ 31 % 2 ^ 23 ≠ 0 := by
  have hsplit (c z s m e) : (if c = 255 then (if z = 0 then FVal.inf s else FVal.nan) else FVal.num s m e).isNan = true ↔ c = 255 ∧ z ≠ 0 := by
    by_cases hc : c = 255
    · by_cases hz : z = 0 <;> simp [hc, hz, FVal.isNan]
    · simp [hc, FVal.isNan]
  exact hsplit _ _ _ _ _

/-- A pattern with bit 31 clear that is a NaN of FP32 lies above +∞. -/
theorem fp32_nan_above {n : Nat} (h : n < 2 ^ 31) (hn : (FFmt.fp32.unpack n).isNan = true) : 0x7F800000 < n := by
  obtain ⟨htop, hman⟩ := (fp32_isNan_iff n).1 hn
  omega

/-- Among patterns with bit 31 clear the merge is the maximum: a NaN pattern is above every magnitude, +∞ among them (log entry 51). -/
theorem maxMag_toNat {old : BitVec 32} {m : Nat} (ho : old.toNat < 2 ^ 31) (hm : m ≤ 0x7F800000) : (maxMag old m).toNat = max old.toNat m := by
  have hbit : old.getLsbD 31 = false := Nat.testBit_lt_two_pow ho
  simp only [maxMag, hbit, Bool.false_eq_true, if_false]
  split
  · rename_i hn
    have := fp32_nan_above ho hn
    omega
  · exact Nat.mod_eq_of_lt (by omega)

/-! ### One value seen (R116, R117) -/

/-- The bin of a finite value that is not 0 and not subnormal. -/
theorem clampedBin_lt (i : Int) : (2 + max (-29) (min 30 i) + 29).toNat < 64 := by
  omega

/-- Every value has one of the 64 bins. -/
theorem binOf_lt (f : Option FFmt) (v : FVal) : binOf f v < 64 := by
  unfold binOf
  split
  · decide
  · decide
  · decide
  · split
    all_goals
      split
      · decide
      · exact clampedBin_lt _

/-- A bin counts one more, and stays at its greatest value. -/
theorem bin_succ_toNat (x : BitVec 32) : (if x = 0xFFFFFFFF then 0xFFFFFFFF else x + 1).toNat = min (2 ^ 32 - 1) (x.toNat + 1) := by
  split
  · rename_i hx
    simp [hx]
  · bv_omega

variable (t : Stats) (k : Fin 16) (x : Seen)

/-- A context's bins with a value counted in one of them. -/
def binsSeeing (row : Vector (BitVec 32) 64) (x : Seen) : Vector (BitVec 32) 64 :=
  let b : Fin 64 := Fin.ofNat 64 (binOf x.fmt x.val)
  row.set b (if row[b] = 0xFFFFFFFF then 0xFFFFFFFF else row[b] + 1)

theorem Stats.see_eq :
    t.see k x =
      if x.val.isNan then
        { t with bins := t.bins.set k (binsSeeing t.bins[k] x), nanseen := t.nanseen ||| BitVec.ofNat 16 (2 ^ k.val) }
      else
        { t with
          bins := t.bins.set k (binsSeeing t.bins[k] x)
          maxmag := t.maxmag.set k (maxMag t.maxmag[k] (magUp x.val)) } := rfl

theorem Stats.see_bins : (t.see k x).bins = t.bins.set k (binsSeeing t.bins[k] x) := by
  simp only [see_eq, apply_ite Stats.bins, ite_self]

theorem Stats.see_nanseen : (t.see k x).nanseen = if x.val.isNan then t.nanseen ||| BitVec.ofNat 16 (2 ^ k.val) else t.nanseen := by
  simp only [see_eq, apply_ite Stats.nanseen]

theorem Stats.see_maxmag :
    (t.see k x).maxmag = if x.val.isNan then t.maxmag else t.maxmag.set k (maxMag t.maxmag[k] (magUp x.val)) := by
  simp only [see_eq, apply_ite Stats.maxmag]

/-- A value adds one to its own bin, saturating, and nothing to another. -/
theorem binsSeeing_toNat (row : Vector (BitVec 32) 64) (b : Fin 64) :
    (binsSeeing row x)[b].toNat = min (2 ^ 32 - 1) (row[b].toNat + if binOf x.fmt x.val == b.val then 1 else 0) := by
  have hb : (Fin.ofNat 64 (binOf x.fmt x.val)).val = binOf x.fmt x.val := Nat.mod_eq_of_lt (binOf_lt _ _)
  simp only [binsSeeing, Fin.getElem_fin, hb, Vector.getElem_set, beq_iff_eq]
  split
  · rename_i h
    simp only [h, bin_succ_toNat]
  · omega

theorem Stats.see_bin (b : Fin 64) :
    (t.see k x).bins[k][b].toNat = min (2 ^ 32 - 1) (t.bins[k][b].toNat + if binOf x.fmt x.val == b.val then 1 else 0) := by
  simp only [see_bins, Fin.getElem_fin, Vector.getElem_set_self]
  exact binsSeeing_toNat x t.bins[k] b

theorem Stats.see_otherContext {h : Fin 16} (hk : h ≠ k) : (t.see k x).bins[h] = t.bins[h] := by
  simp only [see_bins, Fin.getElem_fin]
  exact Vector.getElem_set_ne _ _ fun he => hk (Fin.ext he.symm)

theorem Stats.see_nanBit : (t.see k x).nanseen.getLsbD k = (t.nanseen.getLsbD k || x.val.isNan) := by
  cases hn : x.val.isNan with
  | true =>
    have hbit : (BitVec.ofNat 16 (2 ^ k.val)).getLsbD k.val = true := by
      simp only [BitVec.getLsbD_ofNat, k.isLt, decide_true, Bool.true_and, Nat.testBit_two_pow_self]
    rw [see_nanseen, hn, if_pos rfl, BitVec.getLsbD_or, hbit]
  | false => simp [see_nanseen, hn]

theorem Stats.see_maxmag_toNat (ho : t.maxmag[k].toNat < 2 ^ 31) (hm : x.val.isNan = false → magUp x.val ≤ 0x7F800000) :
    (t.see k x).maxmag[k].toNat = if x.val.isNan then t.maxmag[k].toNat else max t.maxmag[k].toNat (magUp x.val) := by
  cases hn : x.val.isNan with
  | true => simp [see_maxmag, hn]
  | false =>
    simp only [see_maxmag, hn, Bool.false_eq_true, if_false, Fin.getElem_fin, Vector.getElem_set_self]
    exact maxMag_toNat ho (hm hn)

/-! ### All the values of a command (R119) -/

/-- The values of a command seen one after another. -/
def Stats.seeAll (l : List Seen) : Stats := l.foldl (fun t x => t.see k x) t

theorem Stats.seeAll_cons (l : List Seen) : t.seeAll k (x :: l) = (t.see k x).seeAll k l := rfl

theorem Stats.merge_off {k : Fin 16} (h : t.off.getLsbD k = true) (l : List Seen) : t.merge k l = t := if_pos h

theorem Stats.merge_on {k : Fin 16} (h : t.off.getLsbD k = false) (l : List Seen) : t.merge k l = t.seeAll k l :=
  if_neg (Bool.eq_false_iff.1 h)

theorem Stats.seeAll_bin (b : Fin 64) (l : List Seen) :
    (t.seeAll k l).bins[k][b].toNat = min (2 ^ 32 - 1) (t.bins[k][b].toNat + l.countP fun x => binOf x.fmt x.val == b.val) := by
  induction l generalizing t with
  | nil =>
    have := t.bins[k][b].isLt
    simp only [seeAll, List.foldl_nil, List.countP_nil]
    omega
  | cons x l ih =>
    rw [seeAll_cons, ih, see_bin, List.countP_cons]
    omega

theorem Stats.seeAll_otherContext {h : Fin 16} (hk : h ≠ k) (l : List Seen) : (t.seeAll k l).bins[h] = t.bins[h] := by
  induction l generalizing t with
  | nil => rfl
  | cons x l ih => rw [seeAll_cons, ih, see_otherContext t k x hk]

theorem Stats.seeAll_nanBit (l : List Seen) :
    (t.seeAll k l).nanseen.getLsbD k = (t.nanseen.getLsbD k || l.any fun x => x.val.isNan) := by
  induction l generalizing t with
  | nil => simp [seeAll]
  | cons x l ih =>
    rw [seeAll_cons, ih, see_nanBit, List.any_cons, Bool.or_assoc]

/-- Bit 31 of MAXMAG stays clear, which is what lets the maxima of the values follow one another. -/
theorem Stats.seeAll_maxmag (l : List Seen) (ho : t.maxmag[k].toNat < 2 ^ 31)
    (hm : ∀ x ∈ l, x.val.isNan = false → magUp x.val ≤ 0x7F800000) :
    (t.seeAll k l).maxmag[k].toNat = (l.filter fun x => !x.val.isNan).foldl (fun m x => max m (magUp x.val)) t.maxmag[k].toNat := by
  induction l generalizing t with
  | nil => rfl
  | cons x l ih =>
    obtain ⟨hxm, hlm⟩ := List.forall_mem_cons.1 hm
    have hx := t.see_maxmag_toNat k x ho hxm
    have hlt : (t.see k x).maxmag[k].toNat < 2 ^ 31 := by
      rw [hx]
      split
      · exact ho
      · rename_i hn
        have := hxm (Bool.eq_false_iff.2 hn)
        omega
    rw [seeAll_cons, ih _ hlt hlm, hx]
    cases hn : x.val.isNan <;> simp [hn]

/-! ### The commit (04_formats.md R58) -/

/-- A provenance record leaves what a context holds. -/
theorem Core.merge_stats (c : Core) (e : Effect) :
    (c.merge e).stats.bins = (c.stats.merge e.hist e.seen).bins ∧ (c.merge e).stats.maxmag = (c.stats.merge e.hist e.seen).maxmag
      ∧ (c.merge e).stats.nanseen = (c.stats.merge e.hist e.seen).nanseen := by
  unfold Core.merge
  cases e.prov <;> exact ⟨rfl, rfl, rfl⟩

end Sys2Proof.Machine
end

section
/-!
SUPPORT. What a commit merges, settled.
-/
namespace Sys2Proof.Machine

/-- Settles O27: an off context keeps what it holds; any other sees the values of the command one after another. -/
theorem commitMergesFlagsAndStatistics : Obligations.CommitMergesFlagsAndStatistics := by
  unfold Obligations.CommitMergesFlagsAndStatistics
  refine ⟨fun _ _ => rfl, fun c e hoff => ?_, fun c e hon _ => ?_⟩
  · have hstats := c.merge_stats e
    rwa [c.stats.merge_off hoff] at hstats
  · obtain ⟨hbins, hmax, hnan⟩ := c.merge_stats e
    rw [c.stats.merge_on hon] at hbins hmax hnan
    rw [hbins, hmax, hnan]
    refine ⟨fun b => c.stats.seeAll_bin e.hist b e.seen, fun h b hk => by rw [c.stats.seeAll_otherContext e.hist hk],
      c.stats.seeAll_nanBit e.hist e.seen, fun hm h31 => c.stats.seeAll_maxmag e.hist e.seen ?_ hm⟩
    have hmsb : c.stats.maxmag[e.hist].msb = false := h31
    have := BitVec.msb_eq_false_iff_two_mul_lt.1 hmsb
    omega

end Sys2Proof.Machine
end
